-- ==== Sys2Proof/Word.lean ====
section
/-! DEFINITION. The words of the TH-2448 and their plainest arithmetic (spec/00_scope.md, notation).
Registers, elements and stored bytes are bit vectors; numbers of things, identifiers and times are naturals. -/

namespace Sys2Proof

/-- One byte. -/
abbrev Byte := BitVec 8
/-- A 4 B register or an FP32 pattern. -/
abbrev W32 := BitVec 32
/-- An 8 B register or a word of a record. -/
abbrev W64 := BitVec 64
/-- An FP32 value as its pattern (R230). -/
abbrev F32 := BitVec 32

/-- Field [hi:lo] of a number read as bits (spec/00_scope.md: bit ranges as [hi:lo]). -/
def nbits (w hi lo : Nat) : Nat := (w / 2 ^ lo) % 2 ^ (hi + 1 - lo)

/-- Field [hi:lo] of a register. -/
def fld {n : Nat} (w : BitVec n) (hi lo : Nat) : Nat := nbits w.toNat hi lo

/-- One bit of a register. -/
def bitOf {n : Nat} (w : BitVec n) (i : Nat) : Bool := w.getLsbD i

/-- Saturating increment of a 32-bit counter (R228, R262, R308 and the other counter rules). -/
def satAdd32 (c n : Nat) : Nat := min (c + n) 0xFFFFFFFF

end Sys2Proof
end

