-- ==== Sys2Proof/Syntax.lean ====
section
/-! DEFINITION. The commands of the TH-2448: one constructor for each row of spec/opcode_table.json, with
the operands its rule gives it. The table gives no operand and no bits, so operands are taken from the
rules; what the node observes of the world outside (a frame, a pin, a sensor, the outcome of a training)
is an operand of the command that observes it. -/

namespace Sys2Proof

/-- A Utesk frame as received (R392): header fields, payload and the 64-bit integrity tag.
`rsv1` is W1[15:13], `rsv2` is W2[1:0]; `sof` is the length in the SOF block (R373). -/
structure Frame where
  uver : Nat
  ftype : Nat
  td : Nat
  mgmt : Bool
  final : Bool
  src : Nat
  dst : Nat
  qpn : Nat
  psn : Nat
  rsv1 : Nat
  plen : Nat
  tstamp : Nat
  msn : Nat
  gust : Nat
  fence : Bool
  solicit : Bool
  rsv2 : Nat
  fcnt : Nat
  addr : Nat
  rkey : Nat
  alen : Nat
  payload : List Byte
  tag : W64
  sof : Nat
  deriving DecidableEq, Repr

/-- The fuse rows as the fuse step reads them (R513, R581): defect map and security items.
`correctable` is false when a row is uncorrectable (R582). -/
structure Fuses where
  correctable : Bool
  defClus : List Nat
  defUnit : List Nat
  defChan : List Nat
  stackSpares : List Nat
  d2dSpares : Nat
  sbI3c : Bool
  /-- PCI Express widths permitted. -/
  widths : List Nat
  /-- Trim: SerDes equalisation starting points, DRAM timing, voltage offsets. -/
  trim : List Byte
  frefKhz : Nat
  crefKhz : Nat
  uds : BitVec 256
  rooth : BitVec 384
  svnf : W64
  deriving DecidableEq, Repr

/-- One slot of the boot device: 128 B image header, body and signature (R585). -/
structure BootSlot where
  header : List Byte
  body : List Byte
  signature : List Byte
  deriving DecidableEq, Repr

/-- The xSPI NOR device as the boot sequencer finds it (R584, R696): its SFDP read has a valid signature, and its contents, as runs of bytes from
an offset on. -/
structure BootDevice where
  sfdpOk : Bool
  runs : List (Nat × List Byte)
  deriving DecidableEq, Repr

/-- A flash target as the format step finds it (R293): `ok` when it matches the board description,
its parameter page has a good CRC and it supports NV-LPDDR4 at 2,400 MT/s; `blocks` good blocks after the factory
markers, each of `blockBytes`. -/
structure FlashTarget where
  chan : Nat
  tgt : Nat
  ok : Bool
  blocks : Nat
  blockBytes : Nat
  deriving DecidableEq, Repr

/-- What a lane shows during training (R383, R388): signal, lock, the receive pattern inverted, LLANE, a short. -/
structure LaneSeen where
  signal : Bool
  locked : Bool
  inverted : Bool
  llane : Nat
  shorted : Bool
  deriving DecidableEq, Repr

/-- The identity fields of a TRAIN or LCTL identity block (R375), and the logical lane that it came on. -/
structure IdBlock where
  lane : Nat
  kind : Nat
  id : Nat
  port : Nat
  hid : Nat
  hport : Nat
  deriving DecidableEq, Repr

/-- What a lane shows (R386, R390): lock lost and with it codewords; uncorrectable codewords, or corrected symbols, counted in a window of
1 ms; its short monitor trips. -/
inductive LaneCause where
  | lockLost (lost : Nat)
  | uncorrectable (n : Nat)
  | corrected (n : Nat)
  | shorted
  deriving DecidableEq, Repr

/-- A partial triple as a unit or cluster gives it in qualification (R211): positions, and m, l and o of each row. -/
structure QualPart where
  tokens : Nat
  rows : List (F32 × F32 × List F32)
  deriving DecidableEq, Repr

/-- What a unit or cluster gives in qualification (R211): its number, one partial for each format class, and of a bank unit the bytes that FILL,
COPY, SCALE, ADD and MUL leave. -/
structure QualOut where
  ix : Nat
  parts : List QualPart
  raws : List (List Byte)
  deriving DecidableEq, Repr

/-- The function or path a register access comes through (R651): the physical function, virtual function n, the sideband. -/
inductive View where
  | pf
  | vf (n : Nat)
  | sb
  deriving DecidableEq, Repr

/-- A read of a register: its view, whether the access completes within the stall of R14, the register's offset, and the size of the access. -/
structure ViewRead where
  view : View
  inTime : Bool
  off : Nat
  size : Nat
  deriving DecidableEq, Repr

/-- RWQ fields and their boundaries (R653). -/
inductive RwqField where
  | lulShift
  | stkThresholds
  | schQmax (port : Nat)
  | schSub (host : Nat)
  | schTdw (td : Nat)
  deriving DecidableEq, Repr

/-- Answer of host memory to a DMA read (R572, R415): the bytes, or a failure. -/
inductive DmaData where
  | bytes (bs : List Byte)
  | failed
  deriving DecidableEq, Repr

/-- Which of a completion's two writes to host memory succeed (R573): that of the reply, and that of the completion entry. -/
structure CqWrites where
  reply : Bool
  entry : Bool
  deriving DecidableEq, Repr

/-- An engine that reads pages, by its number (a queue pair, a cluster, or the Zephyr of a die), and whether a unit of a flash page it reads
is uncorrectable (R297). -/
structure PageReader where
  ix : Nat
  uncorrectable : Bool
  deriving DecidableEq, Repr

/-- A channel whose command reads pages, and those of them that have an uncorrectable unit (R297). -/
structure ChannelRead where
  ch : Nat
  badPages : List Nat
  deriving DecidableEq, Repr

/-- What a flash operation meets in its block: pages with an uncorrectable unit (R297, R298), and whether its program or erase succeeds
(R301): `failed` are the pages of a relocation whose first program fails, `ok` speaks of an erase or of a demotion's program. -/
structure FlashFound where
  badPages : List Nat
  failed : List Nat
  ok : Bool
  deriving DecidableEq, Repr

/-- A target of a flash channel that collects a block, and what the collection meets. -/
structure Collector where
  tgt : Nat
  found : FlashFound
  deriving DecidableEq, Repr

/-- Who issues a FILL (R129, R700): the head BANK_OP of a virtual function's channel, or the sequencer on a frame that waits
for its zero fill. -/
inductive FillBy where
  | raw (ch : Nat)
  | sequencer (frame : Nat)
  deriving DecidableEq, Repr

/-- Who issues a COPY (R129): the head BANK_OP of a virtual function's channel, or the sequencer for a change of leaf entry whose
frames lie in one bank pair. -/
inductive CopyBy where
  | raw (ch : Nat)
  | sequencer (cid : Nat)
  deriving DecidableEq, Repr

/-- The sequence whose export ends, and whether the write of its last record succeeded (R500). -/
structure ExportEnd where
  seqn : Nat
  ok : Bool
  deriving DecidableEq, Repr

/-- Cause of a unit or cluster fence (R167, R197, R618 INFO): 1 datapath parity (unit) or SRAM (cluster), 2 microcode store (unit)
or datapath parity (cluster), 3 Lull. -/
abbrev FenceCause := Nat

/-- A TDISP request other than LOCK_INTERFACE_REQUEST (R532): it moves a TDI into RUN, out of CONFIG_LOCKED or RUN, or into ERROR. -/
inductive TdispReq where
  | startInterface
  | stopInterface
  deriving DecidableEq, Repr

/-- What a bring-up watchdog expires on (R606). -/
inductive BootWatch where
  | heartbeat
  | timeout
  deriving DecidableEq, Repr

/-- Cause of a handler watchdog trip (R632, R618 INFO of WATCHDOG): 1 step overrun, 2 handler fault, 3 queue reserve full. -/
abbrev WatchCause := Nat

/-- The commands of the node. -/
inductive Instr where
  -- power, pins and bring-up (chapters 17 and 21)
  | powerOn (groups : List Nat)
  | pwrOkAssert (sbSel sbAddr : Nat) (testEn refclkOk : Bool)
  | railFault (pwrOkFell : Bool)
  | nodeRstN
  | perst
  | fuseLoad (f : Fuses)
  | bootSlotVerify (d : BootDevice)
  | keyDerivation
  | aliasCertificateSign
  | flashFormat (targets : List FlashTarget)
  | powerWave
  | stackPortTraining (failed : List (Nat × Nat)) (d2dFailed : Nat)
  | channelTraining (fail1 fail2 : List Nat)
  | bringupZeroFill
  | firmwareBroadcast (units1 units2 clus1 clus2 : List Nat)
  | qualification (zph : List Nat) (units1 units2 clus1 clus2 : List QualOut)
  | floorPlanPublish (shorted : Nat)
  | bringupWatchdog (w : BootWatch)
  | pcieLinkTraining (lanes : Nat) (refclk : Bool)
  | configurationRequest
  | hostInterfaceReset
  | vfFunctionLevelReset (vf : Nat)
  | clockLockLoss (island : Nat)
  | d2dLinkFailure (lanes : Nat)
  | thermalThrottle (sensor temp : Nat)
  | thermalTrip (sensor temp : Nat)
  | powerMonitorRefresh (power : Nat) (temps : List Nat)
  -- mailboxes (chapter 16)
  | req (ch : Nat)
  | messageTaken (ch : Nat)
  | rack (ch : Nat)
  | responseWritten (ch : Nat)
  | mbxAbort (ch : Nat)
  | mbxChannelReset (ch : Nat)
  | mbxMaskWrite (ch : Nat) (v : W32)
  | wqTake (ch q : Nat)
  | wqCompletion (ch q idx : Nat) (ok : CqWrites)
  | mgmtCmd (port : Nat) (f : Frame)
  -- Itfibry commands: each starts the oldest waiting command of its channel
  | flpRead (ch : Nat)
  | errRead (ch : Nat)
  | crashRead (ch : Nat)
  | tdConfig (ch : Nat)
  | tdTable (ch : Nat)
  | tdAdmkey (ch : Nat)
  | tdSeal (ch : Nat)
  | tdUnseal (ch : Nat)
  | seqCreate (ch : Nat)
  | seqRelease (ch : Nat)
  | seqCommit (ch : Nat)
  | seqTruncate (ch : Nat)
  | seqFence (ch : Nat)
  | seqStage (ch : Nat)
  | seqQuery (ch : Nat)
  | fill (by_ : FillBy)
  | copy (by_ : CopyBy)
  | scale (ch : Nat)
  | add (ch : Nat)
  | mul (ch : Nat)
  | rmsSumsq (ch : Nat)
  | rmsApply (ch : Nat)
  | score (ch : Nat)
  | pfxLookup (ch : Nat)
  | seqPublish (ch : Nat)
  | publishPageComplete (ch : Nat)
  | seqAttach (ch : Nat)
  | pfxUnpublish (ch : Nat)
  | groupBackgroundFree (td sidx : Nat)
  | qpCreate (ch : Nat)
  | qpDestroy (ch : Nat)
  | qpTable (ch : Nat)
  | wqCreate (ch : Nat)
  | wqDestroy (ch : Nat)
  | extSet (ch : Nat)
  | extSetComplete (ext : Nat)
  | extGet (ch : Nat)
  | extRevoke (ch : Nat)
  | revokeDeadline (ext : Nat)
  | evacuationMove (td seqn page : Nat)
  | channelZeroFill (chan : Nat)
  | extentReleaseComplete (ext : Nat)
  | seqMigrate (ch : Nat)
  | seqExport (by_ : ChannelRead)
  | exportComplete (td : Nat) (end_ : ExportEnd)
  | seqImport (ch : Nat)
  | importRecord (ch : Nat) (record : List Byte)
  | sesReport (ch : Nat)
  | reportSigned (slot : Nat)
  | sesPeer (ch : Nat)
  | sesRead (ch : Nat)
  | sesWrite (ch : Nat)
  | sesCerts (ch : Nat)
  | sesOpen (ch : Nat)
  | sesClose (ch : Nat)
  | secMgmtkey (ch : Nat)
  | secZeroise (ch : Nat)
  | reportSlotExpiry (slot : Nat)
  | oldSessionKeyExpiry (td peer : Nat)
  -- frames and transport (chapters 11 to 14)
  | attend (port : Nat) (f : Frame)
  | write (port : Nat) (f : Frame)
  | readReq (port : Nat) (f : Frame)
  | readResp (port : Nat) (f : Frame)
  | ack (port : Nat) (f : Frame)
  | nak (port : Nat) (f : Frame)
  | orderedFrameApply (qpn : Nat)
  | offer (port : Nat) (f : Frame)
  | accept (port : Nat) (f : Frame)
  | copied (port : Nat) (f : Frame)
  | handoffSend (td seqn : Nat)
  | handoff (port : Nat) (f : Frame)
  | taken (port : Nat) (f : Frame)
  | abort (port : Nat) (f : Frame)
  | resolve (port : Nat) (f : Frame)
  | resolveSet (port : Nat) (f : Frame)
  | migrationTimer (td seqn : Nat)
  | fwdholdTimer (td seqn : Nat)
  | ackTimer (qpn : Nat)
  | retransmitTimer (qpn : Nat)
  | sendReady (qpn : Nat)
  | contextFetchComplete (qpn : Nat) (d : DmaData)
  | contextFetchBudget (qpn : Nat)
  | readResponse (qp : PageReader)
  | egressNextFrame (port : Nat)
  | egressQueueRoom (port : Nat)
  | heldRequestRelease (host : Nat)
  -- attention (chapters 1 to 6)
  | requestIssue (rid : Nat)
  | bankAttend (unit : Nat)
  | bankAppend (unit : Nat)
  | stackPartialSend (stack rid : Nat)
  | clusterPageFetch (cluster : Nat)
  | clusterPageCompute (cluster : PageReader)
  | groupMerge (die rid : Nat)
  | homeDieMerge (rid : Nat)
  | zephyrPass (die : PageReader)
  | clusterHandover (cluster : Nat)
  | clusterZeroFill (cluster : Nat)
  -- leaf changes, tiers, flash (chapters 2 and 8)
  | leafRewrite (cid : Nat)
  | oldFrameReturn (cid : Nat)
  | promotionComplete (cid : Nat) (uncorrectable : Bool)
  | demotionComplete (cid : Nat) (programOk : Bool)
  | backgroundDemotion (td : Nat)
  | forcedDemotion (td : Nat)
  | stagingReadIssue (td : Nat)
  | stagingReadComplete (td seqn page : Nat)
  | wakeMinresExpiry (td seqn : Nat)
  | heatDecayTick (td : Nat)
  | flashOperationIssue (chan tgt : Nat) (found : FlashFound)
  | idleCollection (chan : Nat) (tgt : Collector)
  | forcedCollection (chan : Nat) (tgt : Collector)
  | readDisturbRelocation (chan tgt block : Nat) (found : FlashFound)
  | wearRelocation (chan tgt block : Nat) (found : FlashFound)
  | onfiTargetTimeout (chan tgt : Nat)
  -- stacks (chapter 9)
  | refresh (unit bank : Nat)
  | channelRetraining (chan : Nat)
  | retrainingResult (chan : Nat) (ok : Bool)
  | patrolScrub (chan : Nat) (flips : List (Nat × Byte))
  | correctedWriteback (unit : Nat)
  | occupancySample
  | windowEnd
  | holdoffElapsed (td : Nat)
  | rebalanceMoveStart (td : Nat)
  -- Lull (chapter 6)
  | lullSampleStep (die : Nat)
  | sampleRetry (die : Nat)
  | sampleAgeExpiry (die idx : Nat)
  | lullMemoryTest (unit slot : Nat) (badCodeword : Option Nat)
  | lullSpareLane (lane : Nat) (ok : Bool)
  | lullPrefixCheck (bank : Nat)
  | lullZephyrCheck (die : Nat) (matches_ : Bool)
  | lullDisable
  -- fences, error handling (chapter 18)
  | unitFence (unit : Nat) (cause : FenceCause)
  | clusterFence (cluster : Nat) (cause : FenceCause)
  | handlingStep
  | handlerWatchdog (cause : WatchCause)
  | fatalError (code info : Nat)
  -- ports (chapter 11)
  | portEnable (port : Nat)
  | portDisable (port : Nat)
  | portTrainingComplete (port : Nat) (lanes : List LaneSeen) (b : Option IdBlock)
  | laneRetry (port : Nat) (lane : Nat) (seen : LaneSeen)
  | laneDegrade (port lane : Nat) (cause : LaneCause)
  | liveRetrainingComplete (port : Nat) (ok : Bool)
  | identitySend (port : Nat)
  | lctlIdentity (port : Nat) (b : IdBlock)
  | lctlLaneOut (port lane : Nat)
  | lctlLaneIn (port lane : Nat)
  | lctlLaneInAck (port lane : Nat)
  -- registers (chapter 20)
  | fabNodeidWrite (v : W32)
  | fabNbrWrite (port : Nat) (v : W64)
  | schModeWrite (v : W32)
  | schPolWrite (host : Nat) (v : W64)
  | schBudWrite (host : Nat) (v : W32)
  | cmpEpochWrite (v : W32)
  | flpSpareWrite (cluster : Bool) (ix : Nat) (v : W64)
  | registerWrite (view : View) (off size : Nat) (v : W64) (inTime : Bool)
  | rwqShadowApply (f : RwqField)
  | statusAck (view : View) (off : Nat) (v : W32)
  | timNowRead (view : ViewRead)
  | timSnapGo (view : View)
  | snapshotComplete (view : View)
  -- SPDM, IDE and TDISP (chapter 15)
  | getVersion (m : List Byte)
  | getCapabilities (m : List Byte)
  | negotiateAlgorithms (m : List Byte)
  | getDigests (m : List Byte)
  | getCertificate (m : List Byte)
  | challenge (m : List Byte)
  | getMeasurements (m : List Byte)
  | keyExchange (m : List Byte)
  | finish (m : List Byte)
  | endSession (m : List Byte)
  | kSetGo (stream : Nat) (tx : Bool) (set : Nat)
  | lockInterfaceRequest (vf : Nat)
  -- sideband and TAP (chapter 21)
  | sbWrite (off : Nat) (data : List Byte) (pecOk : Bool)
  | sbRead (off len : Nat) (pecOk : Bool)
  | setdasa (static dynamic : Nat)
  | entdaa (dynamic : Nat)
  | rstdaa
  | enec (events : Nat)
  | disec (events : Nat)
  | getpid
  | getbcr
  | getdcr
  | getstatus
  | getmwl
  | getmrl
  | alertResponseAddress
  | smbalertTimeout
  | sbBusRelease
  | bypass
  | idcode
  | samplePreload
  | extest
  | clamp
  | highz
  | extestPulse
  | extestTrain
  -- the remaining rows of the table
  | resetReleased (sbSel sbAddr : Nat) (testEn refclkOk : Bool)
  | revokeEpochIncrement (ext : Nat)
  | tdispMessage (vf : Nat) (r : TdispReq)
  | ideKmKeyProgramming (stream : Nat) (tx : Bool) (set : Nat) (key : BitVec 256)
  | debugUnlockToken (token : List Byte)
  | hostDmaReadComplete (did : Nat) (d : DmaData)
  | undefinedFrameType (port : Nat) (f : Frame)
  | unknownControlBlock (port type : Nat)
  | interruptHoldoffExpiry (sideband : Bool)
  | sidebandResponderReady
  deriving DecidableEq, Repr

end Sys2Proof
end

