-- ==== Sys2Proof/Config.lean ====
section
/-! DEFINITION. What an implementation fixes and the spec does not give: each is an opaque constant, so no proof can see its value.
The assumption log names every one of them. -/

namespace Sys2Proof.Config

-- DESIGN CHOICE, safe, log entry 2.
/-- Fresh value number k where the spec leaves a 32-bit result open. -/
opaque freeValue : Nat → BitVec 32

/-- Draw number k of the true random number generator, at width w (R317, R306, R407, R518, R627). -/
opaque trng : (w k : Nat) → Nat

-- DESIGN CHOICE, safe, log entry 173.
/-- SLH-DSA-SHAKE-256s (FIPS 205), the device identity key's and the root's (R513, R515, R517, R586): public key of a seed, signature by the key of a
seed, verification of a public key, message and signature. -/
opaque slhPublic256s : List Byte → List Byte
opaque slhSign256s : List Byte → List Byte → List Byte
opaque slhVerify256s : List Byte → List Byte → List Byte → Bool

/-- SLH-DSA-SHAKE-256f (FIPS 205), the alias key's and the admission keys' (R515, R519, R524): the same. -/
opaque slhPublic256f : List Byte → List Byte
opaque slhSign256f : List Byte → List Byte → List Byte
opaque slhVerify256f : List Byte → List Byte → List Byte → Bool

/-- ECDSA P-384 and ECDHE of the SPDM responder (R531): signature and shared secret. -/
opaque p384Sign : Nat → List Byte → List Byte
opaque p384Share : Nat → List Byte → List Byte

/-- ML-KEM-1024 (R524): key pair number k, encapsulation to a public key, decapsulation (none on failure). -/
opaque kemKeys : BitVec 256 → List Byte
opaque kemEncaps : List Byte → Nat → List Byte × BitVec 256
opaque kemDecaps : BitVec 256 → List Byte → BitVec 256

/-- The keyed placement hash (R320): 64-bit result. -/
opaque placeHash : BitVec 128 → Nat → Nat

-- DESIGN CHOICE, safe, log entry 124.
/-- The choice among egress ports (R380). -/
opaque egressHash : Nat → Nat

/-- JEP106 manufacturer identity in IDCODE (R693), PID, BCR, DCR and status of the I3C target (R687). -/
opaque jep106 : Nat
opaque i3cPid : Nat
opaque i3cBcr : Nat
opaque i3cDcr : Nat
opaque i3cStatus : Nat

-- DESIGN CHOICE, safe, log entry 135.
/-- FRAME of a table's address (R49, R699), which the node numbers as it likes: by sequence, channel of the table area, and table. -/
opaque tableFrame : Nat → Nat → Nat → Nat

/-- The device serial number of the floor plan record (R598). -/
opaque serial : BitVec 64

/-- The codec (R285, R286, R288) at one mode under a geometry word: what one sub-stream's 1,024 page bytes decode to after a pass, and the
sub-stream that encodes bytes so decoded. The first argument pair is the mode and the geometry, the next the sub-stream's number. -/
opaque codec : Nat → Nat → Nat → List Byte → Nat → Byte
opaque codecStream : Nat → Nat → Nat → List Byte → Nat → Byte

-- DESIGN CHOICE, safe, log entry 77.
/-- cos and sin of a rotary angle, in FP32 within the errors of R247. -/
opaque cosRot : Nat → BitVec 32 → BitVec 32
opaque sinRot : Nat → BitVec 32 → BitVec 32

-- DESIGN CHOICE, safe, log entry 30.
/-- The alias certificate over its content and signature (R517), whose form the spec does not give. -/
opaque aliasCert : List Byte → List Byte → List Byte

/-- The identity public key in a certificate section (R516), and the check of its signature against ROOTH. -/
opaque certKey : List Byte → List Byte
opaque certSigned : List Byte → BitVec 384 → Bool

/-- The alias public key of an alias certificate signed by an identity key (R526): none when the check fails. -/
opaque aliasKey : List Byte → List Byte → Option (List Byte)

/-- The fixed debug value from which keys derive in a reset with debug unlocked. -/
opaque debugValue : BitVec 256

/-- Whether a debug token is signed by Eweldale. -/
opaque debugToken : List Byte → Bool

-- DESIGN CHOICE, safe, log entry 12.
/-- The error code of an invalid board description, which R590 logs and R618 does not list. -/
opaque boardCode : Nat

-- DESIGN CHOICE, safe, log entry 39.
/-- The error of a BANK_OP whose result meets a TDI in ERROR (R532); R162 lists no status for it. -/
opaque bankDmaError : Nat

/-- Cluster kernels that the firmware image carries, and each firmware item's size, security version and digest by kind and
index (R520, R521). -/
opaque kernels : Nat
opaque fwItem : Nat → Nat → Nat × Nat × BitVec 384

/-- The qualification set of the firmware image (R211), which the spec does not list: of each format class (R259) the geometry word, the format words,
the page and a row's query; the two scales; of each raw operation the element format, IMM0, and the bytes of destination and source. -/
opaque qualGeom : Nat → W64
opaque qualFmt : Nat → List W64
opaque qualPage : Nat → List Byte
opaque qualQuery : (cls row : Nat) → List F32
opaque qualScales : F32 × F32
opaque qualRaw : Nat → Nat × F32 × List Byte × List Byte

/-- The body of an SPDM response by its code and request, where R531 leaves it to the SPDM specification. -/
opaque spdmBody : Nat → List Byte → List Byte

end Sys2Proof.Config
end

