-- ==== Sys2Proof/Machine/State.lean ====
section
/-! DEFINITION. The state of the TH-2448 as plain data, the reasons a step can stop, and the state at reset.
Sparse tables are association lists with ascending keys; a key that is not listed holds the value the reader of
the table names (the reset value of the register, an unused slot). -/

namespace Sys2Proof.Machine

/-- No command of the node ends in a fault: the part answers every failure with a state (chapter 18). The one fault is a
guard of the model itself, raised by nobody: it is safe. -/
inductive Fault where
  | impossible
  deriving DecidableEq, Repr

/-- `notModelled` is answered by an arm of exec whose command has no meaning yet (safe: nothing is claimed of it). -/
inductive Refusal where
  | notModelled (mnemonic : String)
  deriving DecidableEq, Repr

/-! ### Outputs -/

/-- What leaves the node. The list `State.out` is the model's own record of it, newest first; the node never reads it. -/
inductive Out where
  /-- A frame that left a fabric port (R450). -/
  | frame (port : Nat) (f : Frame)
  /-- A TRAIN or LCTL control block sent on a logical lane of a port (R375, R376, R383, R389). -/
  | link (port lane : Nat) (block : BitVec 256)
  /-- A DMA write to host memory through a function (R539: 64 names the physical function): address and bytes. -/
  | dmaWrite (fn addr : Nat) (bytes : List Byte)
  /-- A DMA read request to host memory: its number, function, address and length. -/
  | dmaRead (did fn addr len : Nat)
  /-- MSI-X vector of a function (R539, R623). -/
  | msix (fn vector : Nat)
  /-- In-band interrupt with its mandatory byte, or SMBALERT_N, on the sideband (R691). -/
  | sideband (byte : Nat)
  /-- The PEC byte of an SMBus transfer is not acknowledged (R689). -/
  | sbNack
  /-- Data returned to a reader: of a register access, a sideband read, a CCC. -/
  | data (bs : List Byte)
  /-- A completion of a PCI Express configuration request: true Successful Completion, false Request Retry Status (R596). -/
  | cfgCompletion (success : Bool)
  /-- An SPDM response (R531) and a TDISP or IDE_KM response (R530, R532). -/
  | spdm (bs : List Byte)
  | tdisp (ok : Bool)
  /-- The TAP's answer: the value captured in the instruction register and the data shifted out (R693, R694). -/
  | tap (capture data : Nat)
  deriving DecidableEq, Repr

/-! ### Power, boot and the floor plan (chapters 17, 21) -/

-- DESIGN CHOICE, unsafe, log entry 131.
/-- Pins, rails, straps and sensors. -/
structure Pwr where
  /-- Power is applied: POWER_ON has happened and no trip has removed it. -/
  powered : Bool
  /-- The rails rose in the order of R578. -/
  orderOk : Bool
  pwrOk : Bool
  /-- PERST# and NODE_RST_N, true while asserted. -/
  perst : Bool
  nodeRst : Bool
  thermTrip : Bool
  /-- The sideband responder acknowledges its address (R690). -/
  sbReady : Bool
  /-- Straps sampled at t = 0 (R676). -/
  sbSel : Nat
  sbAddr : Nat
  testEn : Bool
  pkg : Nat
  /-- PWR_TEMP[k]: HOT and TEMP (R667). -/
  temps : List (Nat × (Bool × Nat))
  /-- Sensors above their throttling point (R683). -/
  throttled : List Nat
  deriving DecidableEq, Repr

/-- BOOT_STAT.PHASE (R604). -/
inductive Phase where
  | rails | fuses | bootImage | controlStart | waves | training | clearing | broadcast | qualification | waiting | released | failed
  deriving DecidableEq, Repr

/-- SEQ of a status register for its two kinds of view (R651): the physical function's and the other one (a virtual function's,
the sideband's, a channel owner's). -/
structure Seq2 where
  pf : Nat
  alt : Nat
  deriving DecidableEq, Repr

/-- The board description in force (R589, R590). -/
structure Board where
  flanes : Nat
  pciw : Nat
  frefKhz : Nat
  crefKhz : Nat
  tgt : List Nat
  deriving DecidableEq, Repr

/-- A loaded firmware item as every report lists it (R520, R521): kind and index, size, security version, digest. -/
structure FwItem where
  kind : Nat
  idx : Nat
  size : Nat
  isvn : Nat
  dig : BitVec 384
  deriving DecidableEq, Repr

structure Boot where
  phase : Phase
  /-- Bring-up runs: t = 0 has passed and the node is neither released nor FAILED. -/
  running : Bool
  /-- ns since t = 0 of R576. -/
  t : Nat
  cause : Nat
  afail : Bool
  slotb : Bool
  bdinv : Bool
  belowmin : Bool
  seq : Seq2
  fuses : Option Fuses
  udsLocked : Bool
  /-- A slot has been accepted (R586); its security version and digest (R515). -/
  imageOk : Bool
  svn : Nat
  fwdig : BitVec 384
  board : Board
  certs : List Byte
  /-- Parallel rows of R576 that have ended. -/
  aliasSigned : Bool
  flashDone : Bool
  stackWaves : Nat
  clusWaves : Nat
  stackSparesUsed : List (Nat × Nat)
  d2dSparesUsed : Nat
  /-- The stack ports, the channels, and the firmware have been done (order of R576). -/
  portsTrained : Bool
  chansTrained : Bool
  /-- xSPI pins in high impedance (R588). -/
  xspiHighZ : Bool
  /-- What the broadcast loaded (R597): the microcode of the bank units' stores (R119, R122), the cluster kernels, Zephyr's known-answer set,
  the codec's and the arithmetic's tables. -/
  loaded : List FwItem
  /-- Frames that hold a qualification page (R211, R213). -/
  qual : List Nat
  pcieUp : Bool
  pcieWidth : Nat
  /-- SR-IOV enabled and configuration space set up by the host; back to defaults at a host interface reset (R612). -/
  cfgDefault : Bool
  deriving DecidableEq, Repr

/-- Floor plan codes (R600). -/
inductive Code where
  | good | fusedOff | failed | fenced
  deriving DecidableEq, Repr

/-- The floor plan record's changing parts (R598, R599); an unlisted resource is good. -/
structure Floor where
  published : Bool
  gen : Nat
  clus : List (Nat × Code)
  unit : List (Nat × Code)
  chan : List (Nat × Code)
  /-- Frames retired per channel, taken from the 23,040 of R40. -/
  retired : List (Nat × Nat)
  fgood : Nat
  zph0 : Bool
  zph1 : Bool
  /-- Targets in service per ONFI channel, and the channels in service (FLSCH). -/
  targets : List (Nat × Nat)
  flsch : Nat
  /-- Negotiated PCI Express width of the record (R598): that at publication, since R601 changes no other field afterwards. -/
  pciw : Nat
  spareCh : List (Nat × W64)
  spareCl : List (Nat × W64)
  deriving DecidableEq, Repr

/-! ### Sequences and pages (chapter 2) -/

/-- TIER of a leaf entry (R49). -/
inductive Tier where
  | dram | flash | absent | zero | shared
  deriving DecidableEq, Repr

/-- A valid leaf entry (R48), V set. `tdc` is the tenant check field. -/
structure Leaf where
  tier : Tier
  tdc : Nat
  gen : Nat
  heat : Nat
  cmp : Nat
  shr : Bool
  psn : Bool
  frame : Nat
  deriving DecidableEq, Repr

/-- A valid non-leaf entry (R48, R49): level 1 of a layer, level 2 of a layer and head, or the root pointer. In DRAM it points to a
table; with TIER flash, at level 2 only, it holds a collapsed run (R51). `len` is the leaf length code, zero above level 2. -/
structure TabE where
  tier : Tier
  tdc : Nat
  gen : Nat
  len : Nat
  cmp : Nat
  psn : Bool
  frame : Nat
  deriving DecidableEq, Repr

/-- The collapsed run that a level-2 entry holds: first logical flash page, run generation, CMP. -/
def TabE.run (e : TabE) : Option (Nat × Nat × Nat) := if e.tier = .flash then some (e.frame, e.gen, e.cmp) else none

/-- Descriptor STATE (R56). -/
inductive SeqState where
  | own | migrating | handoff | forwarded | lost
  deriving DecidableEq, Repr

/-- State of a wake (R283). -/
inductive WakeState where
  | idle | staging | waiting
  deriving DecidableEq, Repr

/-- A wake (R279 to R283): window base, next layer to queue, time of the last accepted request, order number, queued
and issued reads (page indices). -/
structure Wake where
  st : WakeState
  wl : Nat
  next : Nat
  tstage : Nat
  order : Nat
  queue : List Nat
  issued : List Nat
  /-- Queued reads that have been counted as waiting for forced demotion (R308). -/
  waited : List Nat
  deriving DecidableEq, Repr

/-- The migration record of a sequence (R483, R492): peer node, queue pair, times. -/
structure Mig where
  incoming : Bool
  peer : Nat
  qpn : Nat
  thandoff : Nat
  progress : Nat
  /-- Time of the last CLAIM sent, for the 100 ms of R495. -/
  tclaim : Option Nat
  /-- Running SEQ_MIGRATE command at the source. -/
  cmd : Option Nat
  /-- Destination: pages still to read and page-image reads in flight (R491). -/
  toRead : List Nat
  inFlight : List Nat
  handoffSent : Bool
  /-- Destination: the manifest's 2-bit classes by page index (R490) and the state HANDOFF carries. -/
  manifest : List (Nat × Nat)
  handoffHdr : List Nat
  host : Nat
  /-- Forwarded: since when (R496). -/
  tfwd : Nat
  deriving DecidableEq, Repr

/-- A running export (R497 to R500). -/
structure Exp where
  cmd : Nat
  since : Nat
  newep : Nat
  xid : Nat
  speer : Nat
  hostDma : Bool
  qpn : Nat
  key : Nat
  addr : Nat
  /-- Changed bits this export cleared. -/
  cleared : List Nat
  records : Nat
  bytes : Nat
  /-- The end record's write has completed. -/
  written : Bool
  deriving DecidableEq, Repr

/-- A sequence whose descriptor is not FREE (R56). NDRAM and NFLASH are counted from the leaves. -/
structure SeqD where
  td : Nat
  seqn : Nat
  state : SeqState
  nlayer : Nat
  nhead : Nat
  sgen : Nat
  kbase : Nat
  kidx : Nat
  mgen : Nat
  len : Nat
  base : Nat
  hend : Nat
  tfront : Nat
  tlast : Nat
  ckep : Nat
  ext : Nat
  /-- Channel whose table area holds the descriptor and tables (R47). -/
  tchan : Nat
  /-- ROOT, the level-1 entries by layer and the level-2 entries by layer and head (R48, R56). -/
  root : TabE
  l1 : List (Nat × TabE)
  l2 : List (Nat × TabE)
  leaves : List (Nat × Leaf)
  wake : Wake
  mig : Option Mig
  /-- Pages changed since OFFER (R490) and since the last export (R498). -/
  chgMig : List Nat
  chgExp : List Nat
  exp : Option Exp
  deriving DecidableEq, Repr

/-- SGEN, KBASE and KIDX of a FREE descriptor in an allocated block (R57, R61). -/
structure FreeDesc where
  kidx : Nat
  sgen : Nat
  kbase : Nat
  deriving DecidableEq, Repr

/-- Use of a page frame (R40, R80, R700, R218); an unlisted frame is free and pre-zeroed. One under test counts the Lull steps done on it. -/
inductive FrameUse where
  | used
  | dirty
  | retired
  | testing (steps : Nat)
  deriving DecidableEq, Repr

/-- Kinds of change of a leaf entry under R71 that take time. -/
inductive ChgKind where
  | move
  /-- A private copy of a shared page for a write (R137). -/
  | cow
  | promote
  | demote
  deriving DecidableEq, Repr

/-- A change of leaf entry in progress (R71): the page is Moving. `dst` is the new frame or logical flash page. `rewritten` after
the leaf entry was rewritten; `users` are the requests that translated before. -/
structure Chg where
  id : Nat
  kind : ChgKind
  td : Nat
  seqn : Nat
  page : Nat
  src : Nat
  dst : Nat
  cmp : Nat
  rewritten : Bool
  users : List Nat
  /-- Staging read of a wake, forced demotion, or rebalancing move (counters TIER_FORCED, STK_RBMOVED). -/
  staged : Bool
  rebal : Bool
  /-- Shared record moved, by its index (R355); none for a private page. -/
  record : Option Nat
  /-- The flash read or program has been issued (R303). -/
  issued : Bool
  deriving DecidableEq, Repr

/-- An entry of a translation cache (R69): tags and result. `cluster` names a cluster's cache, otherwise a stack's. -/
structure TcEntry where
  cluster : Option Nat
  stack : Nat
  td : Nat
  seqn : Nat
  kidx : Nat
  page : Nat
  leaf : Leaf
  record : Option Nat
  deriving DecidableEq, Repr

/-- An entry of a stack logic die's walk cache (R66): a non-leaf entry by its level and place in the sequence's tables. -/
structure WcEntry where
  stack : Nat
  td : Nat
  seqn : Nat
  kidx : Nat
  level : Nat
  key : Nat
  entry : TabE
  deriving DecidableEq, Repr

/-! ### Tenant domains (chapters 2, 7, 8, 9, 15, 16) -/

/-- Placement state of a domain (R323, R324). -/
inductive PlaceState where
  | watch | rebalance | hold
  deriving DecidableEq, Repr

structure Place where
  key : BitVec 128
  state : PlaceState
  streak : Nat
  calm : Nat
  /-- ns. -/
  holdoff : Nat
  holdUntil : Nat
  rset : List Nat
  cool : List (Nat × Nat)
  deriving DecidableEq, Repr

/-- TDI state (R532, R536). -/
inductive TdiState where
  | unlocked | locked | run | error
  deriving DecidableEq, Repr

/-- Records and state of one tenant domain. -/
structure Dom where
  geom : W64
  fmt : List W64
  tier : List W64
  /-- CMPM waits in the shadow for each page's demotion start, HALF for the next tick (R263): HALF in force. -/
  halfNow : Nat
  policy : W64
  rotary : List F32
  rotDig : Option (BitVec 384)
  admKey : List Byte
  sealed : Bool
  cfgdig : BitVec 384
  tdi : TdiState
  tdstSeq : Seq2
  place : Place
  /-- Time of the next heat decay tick, in ns (R268). -/
  nextDecay : Nat
  /-- Context table in host memory (R409): address, present or not. -/
  qpTab : Option Nat
  /-- Round robin service given to staging reads in this round (R284). -/
  staged : Nat
  /-- Background demotion goes on until the free frames reach HIWAT (R271). -/
  demoting : Bool
  deriving DecidableEq, Repr

/-! ### Mailboxes (chapter 16) -/

/-- A work queue (R568 to R575). `cq` counts completions written. -/
structure Wq where
  sqaddr : Nat
  cqaddr : Nat
  log2n : Nat
  tail : Nat
  cqhead : Nat
  head : Nat
  cq : Nat
  /-- A completion write failed (R575): no further entries. -/
  stopped : Bool
  /-- WQ_DESTROY runs: its command. -/
  destroying : Option Nat
  /-- Requests taken and not completed (SQIDX values). -/
  taken : List Nat
  /-- The doorbell bit has been taken and the procedure of R572 has not ended. -/
  armed : Bool
  /-- An entry or descriptor read is in progress. -/
  reading : Bool
  /-- Requests answered whose completion entry is still to be written, by SQIDX: status, TAG, bytes of the reply. -/
  ready : List (Nat × (Nat × Nat × Nat))
  deriving DecidableEq, Repr

/-- A mailbox channel (R542 to R546). -/
structure Chan where
  reqBuf : List (Nat × Byte)
  rspBuf : List (Nat × Byte)
  db : W32
  mask : W32
  evt : W32
  evtSeq : Nat
  ien : W32
  atag : W32
  wq : List (Nat × Wq)
  /-- TAIL and CQHEAD as the sender wrote them, by queue, for queues that do not exist yet. -/
  wqReg : List (Nat × W64)
  rfull : Bool
  deriving DecidableEq, Repr

/-- Stage of a command (R548, R550). -/
inductive CmdStage where
  | waiting
  | running
  | done
  deriving DecidableEq, Repr

/-- A command taken from a channel (R548, R553). `body` is its BLEN bytes. On channels 73 to 76 `msn`, `src` and `port` come from
the MGMT_CMD frame. `discard` after a channel reset. -/
structure Cmd where
  id : Nat
  ch : Nat
  code : Nat
  fence : Bool
  td : Nat
  tag : Nat
  body : List Byte
  msn : Nat
  src : Nat
  port : Nat
  stage : CmdStage
  status : Nat
  rekeyed : Bool
  rsp : List Byte
  discard : Bool
  abortReq : Bool
  /-- Progress of a command with several steps: pages or keys still to do, results so far, and the object it waits for. -/
  todo : List Nat
  part : List Byte
  obj : Nat
  deriving DecidableEq, Repr

/-- What a DMA read of host memory is for (R572, R409, R501, R491). -/
inductive DmaUse where
  | wqEntry (ch q idx : Nat)
  | wqDescriptor (ch q idx td dlen : Nat)
  | importSource (cmd : Nat)
  /-- Of an entry taken before its channel was reset (chapter 16, "When a channel is reset"). -/
  | goneEntry (ch : Nat)
  | goneDescriptor (ch td dlen : Nat)
  deriving DecidableEq, Repr

structure Mbx where
  chans : List (Nat × Chan)
  cmds : List Cmd
  nextCmd : Nat
  fmpeer : List (Nat × W32)
  /-- Kept responses of channels 73 to 76 (R556): MSN and response message, newest first. -/
  kept : List (Nat × List (Nat × List Byte))
  /-- DMA reads in progress. -/
  dma : List (Nat × DmaUse)
  nextDma : Nat
  deriving DecidableEq, Repr

/-! ### Queue pairs and frames (chapters 11, 12) -/

/-- State of a queue pair (R405, R406). -/
inductive QpState where
  | ready | error
  deriving DecidableEq, Repr

/-- Class of an outgoing frame (R447). -/
inductive FClass where
  | ackNak | mgmt | owner | reply | readResp | bulk
  deriving DecidableEq, Repr

/-- A frame built or to be built for sending: the header fields of R392 that do not depend on the moment of transmission. -/
structure TxFrame where
  ftype : Nat
  cls : FClass
  td : Nat
  mgmt : Bool
  final : Bool
  dst : Nat
  qpn : Nat
  psn : Nat
  msn : Nat
  addr : Nat
  rkey : Nat
  alen : Nat
  payload : List Byte
  /-- First READ_RESP frame of a response message (R448). -/
  expedite : Bool
  retx : Bool
  /-- The node's own queue pair; 0 for MGMT frames. -/
  own : Nat
  gust : Nat
  tstamp : Nat
  deriving DecidableEq, Repr

/-- What a message of the node's own sending belongs to, settled at its completion (R430). -/
inductive MsgOwner where
  | reply (rid : Nat)
  | exportEnd (td seqn : Nat)
  | other
  deriving DecidableEq, Repr

/-- A message in the send stream: its frames not yet transmitted, first NAK code if any. -/
structure TxMsg where
  msn : Nat
  frames : List TxFrame
  owner : MsgOwner
  firstPsn : Option Nat
  finalPsn : Option Nat
  nak : Option Nat
  deriving DecidableEq, Repr

/-- A frame sent and not released (R436): PSN, time sent, reported received, answered by a NAK (R423), the frame. -/
structure Sent where
  psn : Nat
  at_ : Nat
  marked : Bool
  naked : Bool
  f : TxFrame
  deriving DecidableEq, Repr

/-- A read to answer (R424, R425, R708). -/
structure RdReq where
  psn : Nat
  msn : Nat
  addr : Nat
  rkey : Nat
  alen : Nat
  fence : Bool
  /-- Accepted appends the fence waits for (R153). -/
  after : List Nat
  image : Bool
  deriving DecidableEq, Repr

/-- A frame received and kept: the port it came by, its sender's requester host as it stood at receipt (R446), the frame. -/
structure Rcvd where
  port : Nat
  host : Nat
  f : Frame
  deriving DecidableEq, Repr

/-- Parts of an ATTEND message (R393, R706): bytes by offset; `bad` after a NAKed frame. -/
structure AttMsg where
  msn : Nat
  bytes : List (Nat × Byte)
  bad : Bool
  /-- PSN of a FINAL frame that was refused at once (R706). -/
  last : Option Nat
  deriving DecidableEq, Repr

/-- A READ_REQ that the node itself has outstanding (R427): what for, bytes so far. -/
structure OwnRead where
  psn : Nat
  td : Nat
  seqn : Nat
  page : Nat
  /-- import command, or none for a migration page image. -/
  cmd : Option Nat
  got : List (Nat × Byte)
  nak : Option Nat
  deriving DecidableEq, Repr

/-- A queue pair context (R405) with what the transport keeps beside it. -/
structure Qp where
  qpn : Nat
  td : Nat
  state : QpState
  pqpn : Nat
  peer : Nat
  wr : Bool
  rd : Bool
  at_ : Bool
  win : Nat
  snxt : Nat
  suna : Nat
  retries : Nat
  epsn : Nat
  apsn : Nat
  msns : Nat
  cwnd : Nat
  rto : Nat
  srtt : Nat
  rttvar : Nat
  lastdec : Nat
  tlast : Nat
  sptag : W64
  spcnt : Nat
  /-- RBITS: offsets from EPSN received. -/
  rbits : List Nat
  /-- Context on-node (R408), and the expected spill count kept in the table areas (R410). -/
  onNode : Bool
  expSpcnt : Nat
  /-- Frames received and not applied, with the port each came by: ordered ones (R429), and writes to a page that is Moving (R72). -/
  ordered : List Rcvd
  /-- PSNs received and not yet applied. -/
  unapplied : List Nat
  /-- PSNs of FINAL frames received that no ACK has reported applied (R432). -/
  finals : List Nat
  att : List AttMsg
  reads : List RdReq
  owner : List (Nat × List (Nat × Byte))
  sendq : List TxMsg
  sent : List Sent
  ownReads : List OwnRead
  /-- Frames since the last ACK, time of the first of them, ECHO and EPSNF (R433, R435). -/
  sinceAck : Nat
  firstUnacked : Option Nat
  echo : Nat
  epsnf : Nat
  /-- Time of the last NAK_QPERR (R406). -/
  lastQperr : Option Nat
  deriving DecidableEq, Repr

/-- A context fetch in progress and the frames that wait for it (R412 to R414). -/
structure Fetch where
  qpn : Nat
  start : Nat
  frames : List Rcvd
  late : Bool
  deriving DecidableEq, Repr

/-- One session key pair (R524, R525): peer endpoint, keys, next FCNT to send, old keys with their expiry (R528). -/
structure Sess where
  td : Nat
  peer : Nat
  mgmt : Bool
  frameKey : BitVec 256
  exportKey : BitVec 256
  fcnt : Nat
  /-- Next export number under the export key (R499). -/
  xid : Nat
  old : Option (BitVec 256 × Nat)
  deriving DecidableEq, Repr

/-- Port state (R385). -/
inductive PortState where
  | disabled | training | checking | up | degraded | retraining | fenced
  deriving DecidableEq, Repr

/-- A fabric port: registers, state machine, egress (chapters 11 and 13). -/
structure Port where
  pctl : W32
  nbr : W64
  state : PortState
  pol : Nat
  rev : Bool
  lfen : Nat
  ldead : Nat
  fault : Nat
  seq : Seq2
  /-- The lane out of the stripe and failed attempts of its retraining (R385, R389). -/
  outLane : Option Nat
  retries : Nat
  /-- The peer's lane is out of the stripe (R389). -/
  peerOut : Option Nat
  /-- ID and port number heard from the neighbour on each logical lane (R375). -/
  heard : List (Nat × (Nat × Nat))
  /-- Identity mismatches counted while the port is FENCED (R385). -/
  refused : Nat
  ackq : List TxFrame
  expedite : List TxFrame
  /-- Service queues by 4 × subscriber + service (reply 0, bulk 1, mgmt 2) in hierarchical mode; by 100 + n (tenant), or 1..3 (S1..S3)
  and 0 (S0) under flat-priority mode. -/
  queues : List (Nat × List TxFrame)
  cursor : Nat
  ccur : List (Nat × Nat)
  subDef : List (Nat × Nat)
  svcDef : List (Nat × Nat)
  tdDef : List (Nat × Nat)
  /-- Shaper credit in eightieths of a byte by class 1..3 (100 Mbit/s is one of them per ns), and when it was last brought up to date (R453). -/
  credit : List (Nat × Int)
  creditAt : Nat
  qmax : Nat
  /-- Frames that wait for room (R455). -/
  waiting : List TxFrame
  deriving DecidableEq, Repr

structure Fab where
  nodeid : W32
  route : List (Nat × W32)
  ports : List (Nat × Port)
  schCtl : W32
  hmap : List (Nat × W32)
  sub : List (Nat × W32)
  subNow : List (Nat × W32)
  tdw : List (Nat × W32)
  tdwNow : List (Nat × W32)
  shp : List (Nat × W32)
  pol : List (Nat × W64)
  bud : List (Nat × W32)
  /-- Meter buckets by host in eightieths of a byte: committed, peak, time of update; unlisted hosts hold full buckets (R457). -/
  meter : List (Nat × (Nat × Nat × Nat))
  lastRed : List (Nat × Nat)
  lastYellow : List (Nat × Nat)
  /-- Budget bucket by host in bytes and time of update (R459). -/
  budget : List (Nat × (Int × Nat))
  /-- Requests held by the budget, in order of acceptance. -/
  held : List (Nat × List Nat)
  /-- Pages of 64 KiB charged by host (R460), of which SCH_CHARGED counts whole MiB. -/
  charged : List (Nat × Nat)
  deriving DecidableEq, Repr

structure Net where
  qps : List Qp
  fetches : List Fetch
  /-- QPNs destroyed and the time (R407). -/
  qpnHold : List (Nat × Nat)
  sess : List Sess
  rtx : W32
  cc : W32
  spillKey : BitVec 256
  deriving DecidableEq, Repr

/-! ### Attention (chapters 1, 3 to 6) -/

/-- Sender of an attention request (R28, R573): a queue pair, or a work queue entry. -/
inductive Sender where
  | qp (qpn src : Nat)
  | wq (ch q idx : Nat)
  /-- The sender's channel was reset: the reply is discarded. -/
  | gone
  deriving DecidableEq, Repr

/-- One row of a partial triple (R107). `xl` and `xo` are the model's own, the bounds that R117 sets for every merge order: exact lower and
upper bounds of the sum of weights and of each weighted sum (with the sum of its terms' magnitudes), relative to m. -/
structure RowP where
  m : F32
  l : F32
  o : List F32
  xl : Rat × Rat
  xo : List (Rat × Rat × Rat)
  deriving DecidableEq, Repr

/-- A partial of one KV head: rows, covered and poisoned positions (R107, R133). -/
structure Part where
  head : Nat
  tokens : Nat
  ptokens : Nat
  pfirst : Nat
  poison : Bool
  nonfinite : Bool
  rows : List RowP
  deriving DecidableEq, Repr

/-- One page of work of a request: index of the selected head, token page, and what translation gave. -/
structure PageRef where
  rid : Nat
  k : Nat
  head : Nat
  tpage : Nat
  leaf : Option Leaf
  deriving DecidableEq, Repr

/-- Bytes read of a frame, zeros in place of an uncorrectable codeword, and the addresses of the codewords corrected and uncorrectable. -/
structure PRead where
  bytes : List Byte
  corr : List Nat
  bad : List Nat
  deriving DecidableEq, Repr

/-- A page in a cluster's stream slot or in Zephyr's page buffer (R173, R199): the slot, the page, the entry by which it was read, and what
was read. -/
structure Tile where
  slot : Nat
  page : PageRef
  leaf : Leaf
  rd : PRead
  deriving DecidableEq, Repr

/-- Stage of an accepted request. -/
inductive ReqStage where
  | held            -- host budget below zero (R461)
  | queueHeld       -- group queue full (R179)
  | accepted
  | issued
  | done
  deriving DecidableEq, Repr

/-- An attention request after acceptance (R85, R95, R96); `heldOff` requests of R485 stand in `State.att.handoffHeld`. -/
structure Req where
  id : Nat
  td : Nat
  seqn : Nat
  layer : Nat
  sender : Sender
  host : Nat
  home : Nat
  tag : Nat
  mask : Nat
  path : Nat
  fin : Bool
  fence : Bool
  rot : Bool
  c : Nat
  g : Nat
  hmask : Nat
  tree : Nat
  rstart : Nat
  rend : Nat
  qpos : Nat
  sscale : F32
  qscale : F32
  rows : List (List F32)
  ykey : Nat
  yqpn : Nat
  yaddr : Nat
  app : Bool
  apos : Nat
  napp : Nat
  /-- Append vectors by head and position, key then value (R87): elements as they arrived, in format `afmt`. -/
  afmt : Nat
  appd : List (List Nat)
  /-- LEN after the request's commit (R102). -/
  len : Nat
  stage : ReqStage
  /-- Appends accepted earlier on the sequence that a fence waits for (R151): request numbers. -/
  after : List Nat
  /-- Pages of the append not yet applied: (selected head index, token page). -/
  appLeft : List (Nat × Nat)
  /-- Place in the order of issue; zero before. -/
  issueNo : Nat
  /-- Bank-path pages not yet issued to units: they wait for appends (R96, R151) or for a place in a stack's merge unit (R148). -/
  bankHeld : List (Nat × Nat)
  /-- Work not yet merged at the home die: pages on units, in groups, on Zephyr. -/
  unitLeft : List PageRef
  grpLeft : List PageRef
  zphLeft : List PageRef
  /-- Rows that Zephyr has done of a page, by 1,024 × selected head + token page (R200). -/
  zphRows : List (Nat × List RowP)
  /-- Partials waiting in each stack's merge unit, and at the home die. -/
  stackParts : List (Nat × Part)
  homeParts : List Part
  zephyr : Bool
  tcheck : Bool
  recomputed : Bool
  deriving DecidableEq, Repr

/-- A fused attention command of one die's group (R177, R178): members in rank order, shares, pages of a share that wait for promotion,
fetched pages, running partials. `arrived` lists the members whose share is computed, in the order their partials arrived (R189). -/
structure GCmd where
  id : Nat
  rid : Nat
  td : Nat
  die : Nat
  members : List Nat
  share : List (Nat × List PageRef)
  wait : List (Nat × List PageRef)
  fetched : List (Nat × List Tile)
  arrived : List Nat
  /-- Pages computed into the running partial, for a cluster that fails or leaves (R176, R198). -/
  done : List (Nat × List PageRef)
  parts : List (Nat × List Part)
  deriving DecidableEq, Repr

/-- An operation queued on a bank unit in issue order (R18, R135). -/
inductive UnitOp where
  | attend (p : PageRef)
  | append (rid k tpage : Nat)
  /-- A raw bank command, by its command (R155), and the sequencer's zero fill of a frame (R700). -/
  | raw (cmd : Nat)
  | zero (frame : Nat)
  /-- The sequencer's COPY for a change of leaf entry within the pair (R129). -/
  | copy (cid : Nat)
  deriving DecidableEq, Repr

/-- Zephyr's accumulators for one row (R199, R201): the partial, and the comparison sums SMAG and VABS. -/
structure ZRow where
  row : RowP
  smag : Rat
  vabs : List Rat
  deriving DecidableEq, Repr

/-- State of a sample (R223). -/
inductive SampState where
  | held | checking | retrying
  deriving DecidableEq, Repr

/-- A sample of Lull (R221). -/
structure Sample where
  state : SampState
  taken : Nat
  td : Nat
  page : PageRef
  key : Nat
  cluster : Option Nat
  unit : Nat
  tag : Nat
  /-- First row of the group of at most 16 rows copied, their copy and parameters. -/
  row0 : Nat
  copy : Part
  req : Req
  /-- Lull steps done on the sample since it left Held. -/
  steps : Nat
  /-- Zephyr's rows for the copied ones with their comparison sums, while the original recomputes. -/
  ref : Option (List ZRow)
  deriving DecidableEq, Repr

/-- A Zephyr pipeline (R199 to R207, R666). -/
structure Zph where
  good : Bool
  fenced : Bool
  seq : Seq2
  td : Option Nat
  last : Nat
  /-- RECOV as last reported: recovery work waits or runs (R204, R666). -/
  recov : Bool
  samples : List Sample
  active : Option Nat
  /-- Row store of 16 query rows, accumulators, and page buffer of 4 pages (R199). -/
  rowStore : List (List F32)
  acc : List ZRow
  buf : List Tile
  deriving DecidableEq, Repr

/-- A compute cluster (R173 to R176): the tenant domain whose data it may hold, leaving, waiting for zero-fill. -/
structure Clus where
  td : Option Nat
  ext : Option Nat
  leaving : Bool
  dirty : Bool
  joining : Bool
  /-- SRAM ways that hold data since the last zero-fill, of 0 to 15 (R173). -/
  ways : List Nat
  deriving DecidableEq, Repr

/-- A request held in HANDOFF (R485): sequence, sender, home die, host, and the bytes of its request message. -/
structure HeldReq where
  td : Nat
  seqn : Nat
  home : Nat
  host : Nat
  sender : Sender
  desc : List Byte
  deriving DecidableEq, Repr

structure Att where
  reqs : List Req
  nextReq : Nat
  nextIssue : Nat
  /-- Requests held in HANDOFF (R485): sender, home die, host and descriptor bytes. -/
  handoffHeld : List HeldReq
  units : List (Nat × List UnitOp)
  gcmds : List GCmd
  nextG : Nat
  /-- Fused commands that wait for a place in their groups' queues, oldest first (R179): request, and its pages by head index and token page. -/
  gwait : List (Nat × List (Nat × Nat))
  zph0 : Zph
  zph1 : Zph
  clus : List (Nat × Clus)
  lulCtl : W32
  lulShift : Nat
  badLanes : List Nat
  /-- Replies sent and not known complete, by request: domain and TAG, for the undelivered case. -/
  replies : List (Nat × (Nat × Nat))
  /-- Corrected codewords to write back: physical data address (R142, R314). -/
  writeback : List Nat
  tc : List TcEntry
  /-- Walk caches of the stack logic dies (R66), oldest first. -/
  wc : List WcEntry
  deriving DecidableEq, Repr

/-! ### Stacks, flash (chapters 8, 9) -/

/-- A channel in service (R319, R331, R333, R480). -/
structure Ch where
  /-- The domain from whose extent it is being released, until it is zero-filled (R480). -/
  releasing : Option Nat
  /-- Owner kept after a fence (R53). -/
  fencedOwner : Option Nat
  retraining : Bool
  retryDone : Bool
  scrub : Nat
  /-- Occupancy of the current window: sum of samples (R321). -/
  occ : Nat
  deriving DecidableEq, Repr

/-- An operation queued on a flash target (R303). -/
inductive FlashOp where
  | readChg (cid : Nat)
  /-- A direct read of a logical page (R274). -/
  | direct (lpn : Nat)
  | program (cid : Nat)
  | relocate (block : Nat)
  deriving DecidableEq, Repr

/-- Contents that the codec decoded (R289): the mode, and the page's codewords written since. -/
structure Dec where
  mode : Nat
  written : List Nat
  deriving DecidableEq, Repr

/-- A logical flash page (R266, R295, R307): what its stream decodes to, its side block if stored, CMP, the encrypted data units as the
flash array holds them, an uncorrectable unit, place and write sequence number. `dec` is what R289 asks of its contents. -/
structure FPage where
  td : Nat
  data : List (Nat × Byte)
  side : Option (List (Nat × Byte))
  cmp : Nat
  units : List (Nat × List Byte)
  dec : Option Dec
  bad : Bool
  chan : Nat
  tgt : Nat
  block : Nat
  wseq : Nat
  deriving DecidableEq, Repr

/-- A block of a flash target (R293, R299 to R302). -/
structure FBlock where
  erases : Nat
  reads : Nat
  retired : Bool
  erased : Bool
  invalid : Nat
  deriving DecidableEq, Repr

/-- A flash target in service: blocks by number, its queue by priority (R303), priority 1 operations since the last of priority 2 or 3.
`order` is the first of the draws by which its blocks are ordered at random (R293). -/
structure FTarget where
  blocks : Nat
  perBlock : Nat
  blk : List (Nat × FBlock)
  queue : List (Nat × FlashOp)
  sinceLow : Nat
  timeouts : Nat
  order : Nat
  /-- The block being written (R295). -/
  open_ : Option Nat
  deriving DecidableEq, Repr

structure Mem where
  /-- DRAM data bytes and check bytes (R40, R312), canonical: unlisted bytes are 0. -/
  dram : List Host.Cell
  chk : List Host.Cell
  frames : List (Nat × FrameUse)
  chans : List (Nat × Ch)
  ictl : W32
  ictlNow : W32
  /-- Refresh commands postponed by bank (R330). -/
  postponed : List (Nat × Nat)
  /-- Moves started in the current ms by domain (R326) and the ms. -/
  moves : List (Nat × Nat)
  movesMs : Nat
  chgs : List Chg
  nextChg : Nat
  samplesInWindow : Nat
  flsCtl : W32
  flsCap : Nat
  flashKey : BitVec 512
  fenced : List Nat
  targets : List (Nat × FTarget)
  pages : List (Nat × FPage)
  wseq : Nat
  /-- Logical pages whose decoded copy stands in staging SRAM for a direct computation (R274). -/
  direct : List Nat
  /-- Frames whose contents came from the codec, by frame index (R289). -/
  decoded : List (Nat × Dec)
  deriving DecidableEq, Repr

/-! ### Prefix directory (chapter 10) -/

/-- ST of a directory entry (R342). -/
inductive DirSt where
  | reserved | live
  deriving DecidableEq, Repr

/-- A directory entry (R342). -/
structure DirE where
  key : BitVec 128
  st : DirSt
  ver : Nat
  ref : Nat
  rtn : Bool
  psn : Bool
  sidx : Nat
  nlayer : Nat
  nhead : Nat
  deriving DecidableEq, Repr

/-- A page record (R352): W0's fields that vary, and REF. -/
structure PRec where
  leaf : Leaf
  ref : Nat
  bad : Bool
  deriving DecidableEq, Repr

/-- A group of the sharing directory (R351): header key, time of last use, page records from SIDX + 2 on. -/
structure Group where
  td : Nat
  sidx : Nat
  key : BitVec 128
  last : Nat
  nlayer : Nat
  nhead : Nat
  recs : List (Nat × PRec)
  /-- Its entry has been removed: records and pages are freed in the background (R366). -/
  freeing : Bool
  deriving DecidableEq, Repr

structure Pfx where
  /-- The 16 banks: entries by slot (R340, R341). -/
  banks : List (Nat × List (Nat × DirE))
  /-- The authoritative copies, by domain (R349). -/
  copies : List (Nat × List DirE)
  /-- Where Lull's check goes on in each bank: entries, then copies (R350). -/
  cursor : List (Nat × Nat)
  /-- The bank whose turn it is. -/
  turn : Nat
  groups : List Group
  quota : List (Nat × W32)
  deriving DecidableEq, Repr

/-! ### Extents, sessions, errors, registers -/

/-- STATE of an extent that is not FREE (R473). -/
inductive ExtState where
  | active | draining | revoked
  deriving DecidableEq, Repr

/-- An extent (R473); its progress counters (R502) stand with the other counters. -/
structure Ext where
  state : ExtState
  td : Nat
  host : Nat
  epoch : Nat
  flash : Nat
  qpq : Nat
  deadline : Nat
  /-- Internal time of the deadline. -/
  tdl : Nat
  chan : List Nat
  clus : List Nat
  deriving DecidableEq, Repr

structure Cmp where
  exts : List (Nat × Ext)
  epoch : W32
  tchange : List (Nat × Nat)
  ctl : W64
  /-- The composition change in progress: extent, command, revocation or not (R476, R478, R486). -/
  pendingExt : Option (Nat × Nat × Bool)
  /-- Spare substitutions that wait for a composition change (R611): extent, resource, cluster or channel. -/
  substWait : List (Nat × Nat × Bool)
  /-- OWNER messages discarded and counted (R489, R496). -/
  ignored : Nat
  deriving DecidableEq, Repr

/-- A report slot (R523, R565). -/
structure Slot where
  num : Nat
  td : Nat
  peer : Nat
  mgmt : Bool
  nonce : List Byte
  /-- Waiting for its signature: the command. -/
  signing : Option Nat
  report : List Byte
  dk : BitVec 256
  out : List Byte
  upload : List (Nat × Byte)
  /-- Signed or reserved at. -/
  since : Nat
  deriving DecidableEq, Repr

/-- An IDE stream (R530): key sets and the active one in each direction. -/
structure Ide where
  txKeys : List (Nat × BitVec 256)
  rxKeys : List (Nat × BitVec 256)
  txSet : Option Nat
  rxSet : Option Nat
  deriving DecidableEq, Repr

/-- SPDM connection (R531): how far it has come, secured session. -/
inductive SpdmPhase where
  | start | version | capabilities | algorithms
  deriving DecidableEq, Repr

structure Sec where
  slots : List (Nat × Slot)
  nextReport : Nat
  mgmtKey : List Byte
  identity : Bool
  /-- Seeds of the device identity key and the alias key, and the SPDM key's scalar (R515). -/
  didSeed : List Byte
  aliasSeed : List Byte
  spdmKey : Nat
  aliasCert : List Byte
  debug : Bool
  debugArmed : Bool
  ide : List (Nat × Ide)
  spdm : SpdmPhase
  /-- A key exchange waits for FINISH; a secured session is open. -/
  handshake : Bool
  secured : Bool
  /-- SEC_ZEROISE has stopped all service (R534). -/
  stopped : Bool
  deriving DecidableEq, Repr

/-- An error record (R617). -/
structure Rec where
  eseq : Nat
  cls : Nat
  fatal : Bool
  esc : Bool
  qfull : Bool
  audit : Bool
  tdv : Bool
  code : Nat
  time : Nat
  sva : Nat
  lkind : Nat
  loc : Nat
  tag : Nat
  cnt : Nat
  rel : Nat
  epoch : Nat
  info : Nat
  /-- When it was written (State.clk), for R620. -/
  at_ : Nat
  deriving DecidableEq, Repr

/-- One step of a handling (R630): apply R626 to a fenced channel's table area, audit one sequence (R629), sweep one channel
or the flash share (R628), or the bookkeeping that a class 1 or 2 error leaves. -/
inductive HStep where
  | tableArea (chan : Nat)
  | auditSeq (td seqn : Nat)
  | sweepChan (td chan : Nat)
  | sweepFlash (td : Nat)
  | bookkeeping
  deriving DecidableEq, Repr

/-- A handling, queued, suspended or active (R630, R631): its record, whether it is suspended, the steps left. -/
structure Hdl where
  rec_ : Rec
  suspended : Bool
  work : List HStep
  deriving DecidableEq, Repr

/-- The crash snapshot (R634): what its header, log and queue sections hold, and the island words. -/
structure Crash where
  eseq : Nat
  time : Nat
  bootStat : W32
  errStat : W32
  fpgen : Nat
  log : List Rec
  /-- The active error first, then suspended and queued ones (R634), as their records. -/
  hdl : List Rec
  islands : List Nat
  /-- Errors counted after FATAL (R631). -/
  after : Nat
  deriving DecidableEq, Repr

structure Err where
  log : List Rec
  nextEseq : Nat
  seq : Seq2
  fatal : Bool
  active : Option Hdl
  queue : List Hdl
  crash : Option Crash
  /-- Last time and pending flag of MSI-X vector 8 and of the sideband signal (R623, R691). -/
  lastPf : Option Nat
  pendPf : Bool
  lastSb : Option Nat
  pendSb : List Nat
  /-- Islands with a parity error latched (R635): clusters, and the bank-unit islands of the stacks. -/
  parity : List Nat
  deriving DecidableEq, Repr

/-- A view's snapshot block (R657 to R660): SEQ, BUSY with the captured set, the published set and its time. -/
structure Snap where
  seq : Nat
  busy : Bool
  captured : List (Nat × Nat)
  capturedT : Nat
  holding : List (Nat × Nat)
  t : Nat
  deriving DecidableEq, Repr

structure Regs where
  /-- Live counters by their offset in the holding area of the physical function (R662 to R664). -/
  ctr : List (Nat × Nat)
  /-- Snapshots by view: 64 the physical function, n virtual function n. -/
  snaps : List (Nat × Snap)
  /-- Latched upper half of TIM_NOW by view (R656). -/
  latch : List (Nat × Nat)
  /-- Lower halves written and held, by view and offset (R645). -/
  low : List (Nat × W32)
  deriving DecidableEq, Repr

/-- Sideband and TAP (R687 to R694). -/
structure Side where
  dynAddr : Option Nat
  events : Nat
  alert : Bool
  alertAt : Nat
  /-- SCL or SDA held low by the node since. -/
  heldSince : Option Nat
  inTransfer : Bool
  /-- The TAP's instruction in the model's own numbering (the codes stand in the boundary-scan file): 0 BYPASS, 1 IDCODE,
  2 SAMPLE/PRELOAD, 3 EXTEST, 4 CLAMP, 5 HIGHZ, 6 EXTEST_PULSE, 7 EXTEST_TRAIN; and what the instruction register captures next. -/
  tapInstr : Nat
  capture : Nat
  /-- A boundary instruction of the second kind ran outside the released phase: bring-up needs a node reset (R694). -/
  boundary : Bool
  deriving DecidableEq, Repr

/-- The TH-2448. -/
structure State where
  pending : List Instr
  /-- Model's own: next free value, next draw of the true random number generator, outputs newest first. -/
  free : Nat
  draws : Nat
  out : List Out
  /-- ns since power was applied: the model's own clock, against which spans that also run before release are kept. -/
  clk : Nat
  /-- Internal time in ns since release (R10). -/
  now : Nat
  pwr : Pwr
  boot : Boot
  floor : Floor
  seqs : List (Nat × SeqD)
  freeDesc : List (Nat × FreeDesc)
  keyHist : List (Nat × List Nat)
  unusable : List Nat
  doms : List (Nat × Dom)
  mbx : Mbx
  net : Net
  fab : Fab
  att : Att
  mem : Mem
  pfx : Pfx
  cmp : Cmp
  sec : Sec
  err : Err
  regs : Regs
  side : Side
  deriving DecidableEq, Repr

/-! ### The machine at reset: power not applied, every register at its reset value -/

def Seq2.reset : Seq2 := { pf := 0, alt := 0 }

def Pwr.reset : Pwr :=
  { powered := false, orderOk := false, pwrOk := false, perst := true, nodeRst := true, thermTrip := false, sbReady := false,
    sbSel := 0, sbAddr := 0, testEn := false, pkg := 0, temps := [], throttled := [] }

/-- A board description of which nothing has been read: the defaults of R590. -/
def Board.reset : Board := { flanes := 0, pciw := 0, frefKhz := 0, crefKhz := 0, tgt := List.replicate 32 0 }

def Boot.reset : Boot :=
  { phase := .rails, running := false, t := 0, cause := 0, afail := false, slotb := false, bdinv := false, belowmin := false,
    seq := Seq2.reset, fuses := none, udsLocked := false, imageOk := false, svn := 0, fwdig := 0, board := Board.reset, certs := [],
    aliasSigned := false, flashDone := false, stackWaves := 0, clusWaves := 0, stackSparesUsed := [], d2dSparesUsed := 0,
    portsTrained := false, chansTrained := false, xspiHighZ := false, loaded := [], qual := [], pcieUp := false, pcieWidth := 0, cfgDefault := true }

def Floor.reset : Floor :=
  { published := false, gen := 0, clus := [], unit := [], chan := [], retired := [], fgood := 0, zph0 := false, zph1 := false,
    targets := [], flsch := 0, pciw := 0, spareCh := [], spareCl := [] }

/-- An idle wake (R280). -/
def Wake.idle : Wake := { st := .idle, wl := 0, next := 0, tstage := 0, order := 0, queue := [], issued := [], waited := [] }

def Place.reset : Place :=
  { key := 0, state := .watch, streak := 0, calm := 0, holdoff := 100000000, holdUntil := 0, rset := [], cool := [] }

/-- A tenant domain after a node reset: the records of R36, R242, R263 and R559 at their reset values, OPEN (R508). -/
def Dom.reset : Dom :=
  { geom := 0x0000000020040000, fmt := [0x3F8000003F800000, 0x0002000000000000, 0, 0, 0, 0, 0, 0],
    tier := [0x4040001401F40810, 0x0100000000000000, 0, 0], halfNow := 0x14, policy := 0, rotary := [], rotDig := none,
    admKey := [], sealed := false, cfgdig := 0, tdi := .unlocked, tdstSeq := Seq2.reset, place := Place.reset, nextDecay := 0,
    qpTab := none, staged := 0, demoting := false }

/-- A channel at reset (R542 to R546). -/
def Chan.reset : Chan :=
  { reqBuf := [], rspBuf := [], db := 0, mask := 0, evt := 0, evtSeq := 0, ien := 0x0000F01B, atag := 0, wq := [], wqReg := [],
    rfull := false }

def Mbx.reset : Mbx := { chans := [], cmds := [], nextCmd := 0, fmpeer := [], kept := [], dma := [], nextDma := 0 }

def Net.reset : Net :=
  { qps := [], fetches := [], qpnHold := [], sess := [], rtx := 0x00147302, cc := 0x00C81080, spillKey := 0 }

/-- A port at reset: FAB_PCTL and FAB_PSTAT at their reset values (R400, R401), nothing queued. -/
def Port.reset : Port :=
  { pctl := 0x00044000, nbr := 0, state := .disabled, pol := 0, rev := false, lfen := 0, ldead := 0, fault := 0,
    seq := Seq2.reset, outLane := none, retries := 0, peerOut := none, heard := [], refused := 0, ackq := [], expedite := [], queues := [], cursor := 0,
    ccur := [], subDef := [], svcDef := [], tdDef := [], credit := [], creditAt := 0, qmax := 0x400, waiting := [] }

def Fab.reset : Fab :=
  { nodeid := 0, route := [], ports := [], schCtl := 0x04000800, hmap := [], sub := [], subNow := [], tdw := [], tdwNow := [],
    shp := [], pol := [], bud := [], meter := [], lastRed := [], lastYellow := [], budget := [], held := [], charged := [] }

def Zph.reset : Zph :=
  { good := false, fenced := false, seq := Seq2.reset, td := none, last := 0, recov := false, samples := [], active := none,
    rowStore := [], acc := [], buf := [] }

def Att.reset : Att :=
  { reqs := [], nextReq := 0, nextIssue := 1, handoffHeld := [], units := [], gcmds := [], nextG := 0, gwait := [], zph0 := Zph.reset, zph1 := Zph.reset,
    clus := [], lulCtl := 0x78100064, lulShift := 0x10, badLanes := [], replies := [], writeback := [], tc := [], wc := [] }

def Mem.reset : Mem :=
  { dram := [], chk := [], frames := [], chans := [], ictl := 0x88040010, ictlNow := 0x88040010, postponed := [], moves := [],
    movesMs := 0, chgs := [], nextChg := 0, samplesInWindow := 0, flsCtl := 0x80140064, flsCap := 0, flashKey := 0, fenced := [],
    targets := [], pages := [], wseq := 0, direct := [], decoded := [] }

def Pfx.reset : Pfx := { banks := [], copies := [], cursor := [], turn := 0, groups := [], quota := [] }

def Cmp.reset : Cmp :=
  { exts := [], epoch := 0, tchange := [], ctl := 0x0032000A0064003C, pendingExt := none, substWait := [], ignored := 0 }

def Sec.reset : Sec :=
  { slots := [], nextReport := 1, mgmtKey := [], identity := false, didSeed := [], aliasSeed := [], spdmKey := 0, aliasCert := [],
    debug := false, debugArmed := false, ide := [], spdm := .start, handshake := false, secured := false, stopped := false }

/-- The first record carries ESEQ 1 (R617). -/
def Err.reset : Err :=
  { log := [], nextEseq := 1, seq := Seq2.reset, fatal := false, active := none, queue := [], crash := none,
    lastPf := none, pendPf := false, lastSb := none, pendSb := [], parity := [] }

def Regs.reset : Regs := { ctr := [], snaps := [], latch := [], low := [] }

-- PRESUMED, unsafe, log entry 5.
-- PRESUMED, unsafe, log entry 6.
def Side.reset : Side :=
  { dynAddr := none, events := 1, alert := false, alertAt := 0, heldSince := none, inTransfer := false, tapInstr := 1,
    capture := 1, boundary := false }

-- DESIGN CHOICE, unsafe, log entry 4.
/-- The machine right after reset, before the board applies power (R578): every register at its reset value, the queue
of commands empty. -/
def State.reset : State :=
  { pending := [], free := 0, draws := 0, out := [], clk := 0, now := 0, pwr := Pwr.reset, boot := Boot.reset, floor := Floor.reset,
    seqs := [], freeDesc := [], keyHist := [], unusable := [], doms := [], mbx := Mbx.reset, net := Net.reset, fab := Fab.reset,
    att := Att.reset, mem := Mem.reset, pfx := Pfx.reset, cmp := Cmp.reset, sec := Sec.reset, err := Err.reset,
    regs := Regs.reset, side := Side.reset }

end Sys2Proof.Machine
end

