-- ==== Sys2Proof/Machine/Flags.lean ====
section
/-! DEFINITION. Status registers and flags: SEQ and its acknowledgement (R649 to R651), the status words, the phase of
bring-up, and the tests of the node's condition that the meanings share. -/

namespace Sys2Proof.Machine

/-- SEQ after an event (R649, R650): it saturates, and the last value is kept one short in `Seq2`; 0x10000 stands for "an event
arrived after SEQ reached 0xFFFF". -/
def seqBump (n : Nat) : Nat := min (n + 1) 0x10000

/-- SEQ as read (R650). -/
def seqRead (n : Nat) : Nat := min n 0xFFFF

/-- SEQ after a write-back of `w` in the upper half, and whether the write-back acknowledges (R649, R650). -/
def seqAck (n w : Nat) : Nat × Bool :=
  if w = seqRead n then
    if n = 0x10000 then (1, false) else (0, true)
  else (n, false)

def Seq2.bump (q : Seq2) : Seq2 := { pf := seqBump q.pf, alt := seqBump q.alt }

/-- PHASE's code (R604). -/
def Phase.code : Phase → Nat
  | .rails => 0 | .fuses => 1 | .bootImage => 2 | .controlStart => 3 | .waves => 4 | .training => 5 | .clearing => 6
  | .broadcast => 7 | .qualification => 8 | .waiting => 9 | .released => 10 | .failed => 15

/-- The node is released and serves (R603, R605, R534). -/
def State.up (s : State) : Bool := s.boot.phase == .released && !s.sec.stopped

/-- The node is out of reset: PWR_OK high, neither PERST# nor NODE_RST_N asserted, no trip (R579, R612, R684). -/
def State.outOfReset (s : State) : Bool :=
  s.pwr.powered && s.pwr.pwrOk && !s.pwr.perst && !s.pwr.nodeRst && !s.pwr.thermTrip && !s.pwr.testEn

/-- Bit of a Bool. -/
def b2n (b : Bool) : Nat := if b then 1 else 0

/-- Fields [15:0] of BOOT_STAT (R604). -/
def bootFlags (b : Boot) : Nat :=
  b.phase.code * 0x1000 + b2n b.slotb * 0x800 + b2n b.afail * 0x400 + b2n b.belowmin * 0x200 + b2n b.bdinv * 0x100 + b.cause

/-- BOOT_STAT in the physical function's view (`pf`) or the sideband's. -/
def bootStat (b : Boot) (pf : Bool) : Nat := seqRead (if pf then b.seq.pf else b.seq.alt) * 0x10000 + bootFlags b

/-- Change the fields of BOOT_STAT: SEQ increments when a field of [15:0] changes (R604). -/
def Boot.upd (b : Boot) (f : Boot → Boot) : Boot :=
  let b' := f b
  if bootFlags b' = bootFlags b then b' else { b' with seq := b'.seq.bump }

/-- ERR_STAT (R623). -/
def errStat (e : Err) (pf : Bool) : Nat :=
  seqRead (if pf then e.seq.pf else e.seq.alt) * 0x10000 + b2n e.fatal * 0x8000
    + (match e.active with | some h => h.rec_.cls | none => 0) * 0x1000 + min e.queue.length 64 * 0x20

/-- NODE_FAIL_N asserted (R697). -/
def State.nodeFail (s : State) : Bool := s.boot.phase == .failed

def TdiState.code : TdiState → Nat | .unlocked => 0 | .locked => 1 | .run => 2 | .error => 3

/-- Fields [15:0] of SEC_TDST (R536). -/
def tdstFlags (d : Dom) : Nat := b2n d.sealed * 0x8000 + d.tdi.code * 0x2000

/-- Change a domain: SEC_TDST.SEQ increments when SEALED or TDI changes (R536). -/
def Dom.upd (d : Dom) (f : Dom → Dom) : Dom :=
  let d' := f d
  if tdstFlags d' = tdstFlags d then d' else { d' with tdstSeq := d'.tdstSeq.bump }

/-- Fields [15:13] of ZPH_STAT (R666). -/
def zphFlags (z : Zph) : Nat := b2n z.good * 0x8000 + b2n z.fenced * 0x4000 + b2n z.recov * 0x2000

/-- Doorbell bits pending and not masked (R543). -/
def dbTaken (c : Chan) (bit : Nat) : Bool := c.db.getLsbD bit && !c.mask.getLsbD bit

-- DEDUCED, unsafe, log entry 18.
/-- Sideband mode (R676, R581): true in I3C mode. -/
def State.i3c (s : State) : Bool :=
  if s.pwr.sbSel = 1 then true else if s.pwr.sbSel = 2 then false
  else match s.boot.fuses with | some f => f.sbI3c | none => true

end Sys2Proof.Machine
end

