-- ==== Sys2Proof/Machine/Ops.lean ====
section
/-! DEFINITION. Named operations shared by the meanings: tables, memory cells, free values and random draws, outputs, counters,
interrupts, error records and their queueing (chapter 18), fatal errors (R633), zeroisation (R533). -/

namespace Sys2Proof.Machine

/-- What a meaning answers. -/
abbrev Res := Host.Outcome State Fault Refusal

/-! ### Tables with ascending keys -/

def look {α : Type} : List (Nat × α) → Nat → Option α
  | [], _ => none
  | (a, v) :: t, k => if a = k then some v else look t k

def lookD {α : Type} (d : α) (t : List (Nat × α)) (k : Nat) : α := (look t k).getD d

def put {α : Type} : List (Nat × α) → Nat → α → List (Nat × α)
  | [], k, v => [(k, v)]
  | (a, b) :: t, k, v => if k < a then (k, v) :: (a, b) :: t else if k = a then (k, v) :: t else (a, b) :: put t k v

def rem {α : Type} (t : List (Nat × α)) (k : Nat) : List (Nat × α) := t.filter (fun e => e.1 != k)

/-- Write with an unlisted default: writing the default removes the entry. -/
def putD {α : Type} [DecidableEq α] (d : α) (t : List (Nat × α)) (k : Nat) (v : α) : List (Nat × α) :=
  if v = d then rem t k else put t k v

/-- Change the entry of a key if it is listed. -/
def modify {α : Type} (t : List (Nat × α)) (k : Nat) (f : α → α) : List (Nat × α) :=
  t.map (fun e => if e.1 = k then (e.1, f e.2) else e)

def nats (n : Nat) : List Nat := List.range n

/-! ### Memory cells: canonical lists of bytes, unlisted addresses read 0 (R595) -/

-- DESIGN CHOICE, unsafe, log entry 3.
def rd8 (m : List Host.Cell) (a : Nat) : Byte := lookD 0 m a
def wr8 (m : List Host.Cell) (a : Nat) (b : Byte) : List Host.Cell := putD 0 m a b

def rdBytes (m : List Host.Cell) (a n : Nat) : List Byte := (nats n).map (fun i => rd8 m (a + i))

def wrBytes (m : List Host.Cell) (a : Nat) : List Byte → List Host.Cell
  | [] => m
  | b :: bs => wrBytes (wr8 m a b) (a + 1) bs

/-- Zero-fill [lo, hi). -/
def clrBytes (m : List Host.Cell) (lo hi : Nat) : List Host.Cell := m.filter (fun c => c.1 < lo || hi ≤ c.1)

/-- The canonical form: addresses strictly rising, no listed zero. -/
def cellsWf : List Host.Cell → Bool
  | [] => true
  | [c] => c.2 != 0
  | c :: d :: t => c.2 != 0 && c.1 < d.1 && cellsWf (d :: t)

/-- Every byte memory of the node keeps its canonical form. -/
def Memory.wf (s : State) : Bool := cellsWf s.mem.dram && cellsWf s.mem.chk

/-! ### Free values and draws -/

/-- A 32-bit value the spec leaves open; the counter moves on. -/
def takeFree (s : State) : BitVec 32 × State := (Config.freeValue s.free, { s with free := s.free + 1 })

/-- A draw of w bits from the true random number generator. -/
def draw (w : Nat) (s : State) : Nat × State := (Config.trng w s.draws % 2 ^ w, { s with draws := s.draws + 1 })

/-! ### Outputs and counters -/

def emit (o : Out) (s : State) : State := { s with out := o :: s.out }

/-- Offsets of counters in the physical function's holding area (R662 to R664). -/
def ctrNode (o : Nat) : Nat := 0x100000 + o
def ctrTd (td o : Nat) : Nat := 0x110000 + 0x1000 * td + o
def ctrChan (c i : Nat) : Nat := 0x150000 + 16 * c + 4 * i
def ctrPort (p i : Nat) : Nat := 0x154000 + 64 * p + 4 * i
def ctrDie (d i : Nat) : Nat := 0x155000 + 64 * d + 4 * i
def ctrHost (h i : Nat) : Nat := 0x160000 + 32 * h + 4 * i
def ctrExt (e i : Nat) : Nat := 0x170000 + 16 * e + 8 * i

/-- Add to a counter: 32 bits saturating, 64 bits for the per-extent counters (R661). -/
def bumpBy (off n : Nat) (s : State) : State :=
  let top := if 0x170000 ≤ off then 0xFFFFFFFFFFFFFFFF else 0xFFFFFFFF
  { s with regs := { s.regs with ctr := putD 0 s.regs.ctr off (min (lookD 0 s.regs.ctr off + n) top) } }

def bump (off : Nat) (s : State) : State := bumpBy off 1 s

/-! ### Records of the state by number -/

def dom (s : State) (td : Nat) : Dom := lookD Dom.reset s.doms td
def setDom (td : Nat) (d : Dom) (s : State) : State := { s with doms := putD Dom.reset s.doms td d }
def updDom (td : Nat) (f : Dom → Dom) (s : State) : State := setDom td (f (dom s td)) s

def chan (s : State) (c : Nat) : Chan := lookD Chan.reset s.mbx.chans c
def setChan (c : Nat) (x : Chan) (s : State) : State :=
  { s with mbx := { s.mbx with chans := putD Chan.reset s.mbx.chans c x } }
def updChan (c : Nat) (f : Chan → Chan) (s : State) : State := setChan c (f (chan s c)) s

def port (s : State) (p : Nat) : Port := lookD Port.reset s.fab.ports p
def setPort (p : Nat) (x : Port) (s : State) : State :=
  { s with fab := { s.fab with ports := putD Port.reset s.fab.ports p x } }
def updPort (p : Nat) (f : Port → Port) (s : State) : State := setPort p (f (port s p)) s

/-- Key of a sequence in `State.seqs`. -/
def seqKey (td seqn : Nat) : Nat := td * 0x40000 + seqn
def seq? (s : State) (td seqn : Nat) : Option SeqD := look s.seqs (seqKey td seqn)
def setSeq (d : SeqD) (s : State) : State := { s with seqs := put s.seqs (seqKey d.td d.seqn) d }
def updSeq (td seqn : Nat) (f : SeqD → SeqD) (s : State) : State :=
  { s with seqs := modify s.seqs (seqKey td seqn) f }
def dropSeq (td seqn : Nat) (s : State) : State := { s with seqs := rem s.seqs (seqKey td seqn) }

def qp? (s : State) (q : Nat) : Option Qp := s.net.qps.find? (fun x => x.qpn == q)
def setQps (f : List Qp → List Qp) (s : State) : State := { s with net := { s.net with qps := f s.net.qps } }
def updQp (q : Nat) (f : Qp → Qp) (s : State) : State := setQps (fun l => l.map (fun x => if x.qpn = q then f x else x)) s

def ext? (s : State) (e : Nat) : Option Ext := look s.cmp.exts e
def setExt (e : Nat) (x : Ext) (s : State) : State := { s with cmp := { s.cmp with exts := put s.cmp.exts e x } }
def updExt (e : Nat) (f : Ext → Ext) (s : State) : State := { s with cmp := { s.cmp with exts := modify s.cmp.exts e f } }

/-- Channel in service: its record; unlisted channels belong to no extent. -/
def Ch.idle : Ch :=
  { releasing := none, fencedOwner := none, retraining := false, retryDone := false, scrub := 0, occ := 0 }
def ch (s : State) (c : Nat) : Ch := lookD Ch.idle s.mem.chans c
def updCh (c : Nat) (f : Ch → Ch) (s : State) : State :=
  { s with mem := { s.mem with chans := putD Ch.idle s.mem.chans c (f (ch s c)) } }

def Clus.idle : Clus := { td := none, ext := none, leaving := false, dirty := false, joining := false, ways := [] }
def clus (s : State) (c : Nat) : Clus := lookD Clus.idle s.att.clus c
def updClus (c : Nat) (f : Clus → Clus) (s : State) : State :=
  { s with att := { s.att with clus := putD Clus.idle s.att.clus c (f (clus s c)) } }

/-- Floor plan codes (R600). -/
def codeClus (s : State) (c : Nat) : Code := lookD .good s.floor.clus c
def codeUnit (s : State) (u : Nat) : Code := lookD .good s.floor.unit u
def codeChan (s : State) (c : Nat) : Code := lookD .good s.floor.chan c

/-- Channels of the domain's extents (R474). -/
def domChans (s : State) (td : Nat) : List Nat :=
  s.cmp.exts.flatMap (fun e => if e.2.td = td then e.2.chan else [])

/-! ### Interrupts (R539, R623, R691) -/

-- DEDUCED, unsafe, log entry 38.
/-- A function issues no DMA after a fatal error (R633), nor a virtual function whose TDI is in ERROR (R532). -/
def dmaStopped (s : State) (fn : Nat) : Bool := s.err.fatal || (decide (fn < 64) && (dom s fn).tdi == .error)

/-- A DMA access of a function. -/
def dmaOut (fn : Nat) (o : Out) (s : State) : State := if dmaStopped s fn then s else emit o s

/-- What a read of host memory brings: a function that issues no DMA gets nothing (R415, R532, R633). -/
def dmaGives (s : State) (fn : Nat) (d : DmaData) : DmaData := if dmaStopped s fn then .failed else d

/-- MSI-X vector of a function: a DMA write (R623). -/
def msix (fn v : Nat) (s : State) : State := dmaOut fn (.msix fn v) s

/-- MSI-X vector 8 of the physical function, at most once every 10 µs (R623). -/
def signalPf (s : State) : State :=
  if s.err.fatal then s
  else match s.err.lastPf with
    | some t => if s.clk < t + 10000 then { s with err := { s.err with pendPf := true } }
                else emit (.msix 64 8) { s with err := { s.err with lastPf := some s.clk } }
    | none => emit (.msix 64 8) { s with err := { s.err with lastPf := some s.clk } }

/-- One signal on the sideband: in-band interrupt with its mandatory byte, or SMBALERT_N (R691). -/
def sidebandSend (b : Nat) (s : State) : State :=
  if s.i3c then
    if s.side.events % 2 = 1 then emit (.sideband b) { s with err := { s.err with lastSb := some s.clk } } else s
  else emit (.sideband b) { s with side := { s.side with alert := true, alertAt := s.clk }
                                   err := { s.err with lastSb := some s.clk } }

/-- An event to signal on the sideband, at most one every 10 µs. -/
def signalSb (b : Nat) (s : State) : State :=
  match s.err.lastSb with
  | some t => if s.clk < t + 10000 then { s with err := { s.err with pendSb := s.err.pendSb ++ [b] } } else sidebandSend b s
  | none => sidebandSend b s

-- DEDUCED, unsafe, log entry 40.
/-- Set bits of MBX_EVT of a channel: SEQ increments for each, and the owner is interrupted for each enabled one (R545, R539). -/
def mbxEvent (c bit : Nat) (s : State) : State :=
  let x := chan s c
  let on := x.ien.getLsbD bit
  let s := setChan c { x with evt := x.evt ||| BitVec.ofNat 32 (2 ^ bit), evtSeq := seqBump x.evtSeq } s
  if !on then s
  else if c < 8 then msix 64 c s
  else if c < 72 then msix (c - 8) 0 s
  else if c = 72 then signalSb 1 s else s

/-! ### Error records (R615 to R623) -/

/-- Where an error lies (R617): LKIND and LOC. -/
structure ErrLoc where
  lkind : Nat
  loc : Nat
  deriving DecidableEq, Repr

/-- An error as detected: class, code, object, place, tag and detail. `td` none when no domain is named. -/
structure ErrIn where
  cls : Nat
  code : Nat
  td : Option Nat
  sva : Nat
  lkind : Nat
  loc : Nat
  tag : Nat
  info : Nat
  audit : Bool
  rel : Nat
  deriving DecidableEq, Repr

/-- An error with nothing but class, code and detail. -/
def err0 (cls code info : Nat) : ErrIn :=
  { cls := cls, code := code, td := none, sva := 0, lkind := 0, loc := 0, tag := 0, info := info, audit := false, rel := 0 }

-- DESIGN CHOICE, safe, log entry 10.
/-- Error time (R617): internal time, or before release the time since t = 0 with bit 63. -/
def errTime (s : State) : Nat :=
  if s.boot.phase = .released ∨ 0 < s.now then s.now else 2 ^ 63 + s.boot.t

/-- The steps a handling has to run after its containment (R615, R626 to R629). -/
def stepsOf (s : State) (e : ErrIn) : List HStep :=
  let td := e.td.getD 0
  let sweep := (domChans s td).map (HStep.sweepChan td) ++ [HStep.sweepFlash td]
  let audit := (s.seqs.filter (fun x => x.2.td = td)).map (fun x => HStep.auditSeq td x.2.seqn)
  if e.cls ≤ 2 then [HStep.bookkeeping]
  else if e.td.isNone then [HStep.bookkeeping]
  else if e.code = 0x0031 then [HStep.auditSeq td (nbits e.sva 57 40)]
  else if e.cls = 3 then sweep
  else if e.code = 0x0042 then HStep.tableArea e.info :: (audit ++ sweep)
  else audit ++ sweep

/-- Page of an SVA without its offset, or sequence without its page. -/
def svaPage (a : Nat) : Nat := a / 0x10000
def svaSeq (a : Nat) : Nat := a / 0x10000000000

-- DEDUCED, unsafe, log entry 83.
/-- The handling of record `r` contains the error `e` (R631): a domain its objects, a sequence its pages, a page its codewords.
A bank unit is no object of a domain: the fence of a unit outlives the handling of its domain (chapter 18, worked example). -/
def contains (r : Rec) (code cls : Nat) (tdv : Bool) (sva : Nat) : Bool :=
  r.tdv && tdv && code != 0x0021 && cls ≤ r.cls &&
    (if r.cls = 4 then decide (r.sva / 2 ^ 58 = sva / 2 ^ 58)
     else if r.cls = 3 then decide (2 ≤ cls ∧ svaSeq r.sva = svaSeq sva)
     else if r.cls = 2 then decide (svaPage r.sva = svaPage sva)
     else false)

/-- Entries of the handler's queue that classes 1 and 2 may still take (R630): 48 unreserved, which classes 3 and 4 use
only beyond their own 16. -/
def lowRoom (q : List Hdl) : Bool :=
  let hi := (q.filter (fun h => 3 ≤ h.rec_.cls)).length
  decide ((q.length - hi) + (hi - 16) < 48)

def queueRoom (q : List Hdl) (cls : Nat) : Bool := if cls ≤ 2 then lowRoom q else decide (q.length < 64)

/-- Write a record into the log (R619), count it, increment ERR_STAT.SEQ and signal it (R623). -/
def writeRec (r : Rec) (s : State) : State :=
  let full := 64 ≤ s.err.log.length
  let log := (if full then s.err.log.drop 1 else s.err.log) ++ [r]
  let s := { s with err := { s.err with log := log, nextEseq := (s.err.nextEseq + 1) % 2 ^ 32, seq := s.err.seq.bump } }
  let s := bump (ctrNode 0x00) s
  let s := if full then bump (ctrNode 0x04) s else s
  let s := if r.tdv then bump (ctrTd (r.sva / 2 ^ 58) 0x180) s else s
  signalSb 2 (signalPf s)

def mkRec (s : State) (e : ErrIn) (fatal esc qfull : Bool) (rel : Nat) : Rec :=
  { eseq := s.err.nextEseq, cls := e.cls, fatal := fatal, esc := esc, qfull := qfull, audit := e.audit, tdv := e.td.isSome,
    code := e.code, time := errTime s, sva := match e.td with | some td => if e.sva = 0 then td * 2 ^ 58 else e.sva | none => e.sva,
    lkind := e.lkind, loc := e.loc, tag := e.tag, cnt := 1, rel := rel, epoch := s.cmp.epoch.toNat, info := e.info, at_ := s.clk }

/-! ### Zeroisation and fatal errors -/

def dropSessions (p : Sess → Bool) (s : State) : State :=
  let gone := s.net.sess.filter p
  let s := { s with net := { s.net with sess := s.net.sess.filter (fun x => !p x) } }
  gone.foldl (fun s x => if x.mgmt then s else bump (ctrTd x.td 0x14C) s) s

/-- Every volatile key and session is zeroised, and with the flash key the flash tier is unreadable (R518, R533, R306). -/
def zeroise (s : State) : State :=
  let s := dropSessions (fun _ => true) s
  { s with
    mem := { s.mem with flashKey := 0, pages := [] }
    net := { s.net with spillKey := 0 }
    sec := { s.sec with slots := [] }
    doms := s.doms.map (fun d => (d.1, { d.2 with place := { d.2.place with key := 0 } })) }

/-- Stacks and clusters that wave k powers (R591). -/
def waveStacks (k : Nat) : List Nat := [2 * k, 2 * k + 1, 12 + 2 * k, 13 + 2 * k]
def waveClusters (k : Nat) : List Nat := (nats 8).map (8 * k + ·) ++ (nats 8).map (104 + 8 * k + ·)

/-- A stack or cluster that a wave has powered; a cluster fused off never is (R583, R591). -/
def stackOn (s : State) (st : Nat) : Bool := (nats s.boot.stackWaves).any (fun k => (waveStacks k).contains st)
def clusOn (s : State) (c : Nat) : Bool := codeClus s c != .fusedOff && (nats s.boot.clusWaves).any (fun k => (waveClusters k).contains c)

/-- Island status words at detection (R635). `lost` names an island without lock. -/
def islandWords (s : State) (lost : Option Nat) (wdog : Bool) : List Nat :=
  (nats 280).map (fun i =>
    let off :=
      if i < 208 then !clusOn s i
      else if 210 ≤ i ∧ i < 258 then !stackOn s ((i - 210) % 24)
      else decide (s.boot.t = 0 ∧ s.boot.phase = .rails)
    i * 2 ^ 48 + (if lost = some i then 0 else 0x80) + b2n off * 0x40 + b2n (s.err.parity.contains i) * 0x20 + b2n (wdog && i == 258) * 0x10)

/-- The crash snapshot (R634): log in ESEQ order, active error first, then suspended and queued ones. -/
def takeCrash (s : State) (r : Rec) (words : List Nat) : Crash :=
  { eseq := r.eseq, time := r.time, bootStat := BitVec.ofNat 32 (bootStat s.boot false), errStat := BitVec.ofNat 32 (errStat s.err false),
    fpgen := s.floor.gen, log := s.err.log,
    hdl := (match s.err.active with | some h => [h.rec_] | none => []) ++ (s.err.queue.filter (·.suspended)).map (·.rec_)
      ++ (s.err.queue.filter (fun h => !h.suspended)).map (·.rec_),
    islands := words, after := 0 }

/-- Counted in the crash snapshot (R631). -/
def countAfterFatal (s : State) : State :=
  { s with err := { s.err with crash := s.err.crash.map (fun c => { c with after := c.after + 1 }) } }

/-- Every port fenced (R633). -/
def fencedPorts (l : List (Nat × Port)) : List (Nat × Port) :=
  (nats 4).foldl (fun l p =>
    let x := lookD Port.reset l p
    if x.state = .fenced then l else putD Port.reset l p { x with state := .fenced, seq := x.seq.bump }) l

/-- A fatal error (R633): ports fenced, DMA and messages stopped, record with FATAL, keys zeroised, snapshot, FAILED with the cause. -/
def fatalStop (e : ErrIn) (cause : Nat) (s : State) : State :=
  if s.err.fatal then countAfterFatal s
  else
    let lost := if e.code = 0x0051 then some e.info else none
    let wdog := e.code = 0x0054 || (e.code = 0x0055 && cause = 7)
    let words := islandWords s lost wdog
    let s := { s with fab := { s.fab with ports := fencedPorts s.fab.ports } }
    let s := { s with err := { s.err with fatal := true } }
    let r := mkRec s e true false false e.rel
    let s := writeRec r s
    let s := zeroise s
    let s := { s with boot := s.boot.upd (fun b => { b with phase := .failed, cause := cause, running := false }) }
    { s with err := { s.err with crash := some (takeCrash s r words) } }

/-- The watchdog of the handler trips (R632): a fatal error with code WATCHDOG. -/
def watchdogTrip (info : Nat) (s : State) : State := fatalStop (err0 5 0x0054 info) 7 s

/-- Queue or suspend a handling under R630; a class 1 or 2 one without room is abandoned and counted, a class 3 or 4 one trips
the watchdog. -/
def enqueue (h : Hdl) (s : State) : State :=
  if queueRoom s.err.queue h.rec_.cls then { s with err := { s.err with queue := s.err.queue ++ [h] } }
  else if h.rec_.cls ≤ 2 then bump (ctrNode 0x0C) s
  else watchdogTrip 3 s

/-- The record that R620 counts this error into, if any. -/
def coalesceWith (s : State) (e : ErrIn) : Option Rec :=
  if e.cls ≤ 2 then
    match (s.err.log.reverse).find? (fun r => r.code == e.code && r.sva == (mkRec s e false false false 0).sva && r.loc == e.loc) with
    | some r => if s.clk < r.at_ + 1000000 then some r else none
    | none => none
  else none

/-- An error of class 0 to 4 is detected, its containment applied (R616): its record is written or coalesced, and the handler
takes, queues or drops it (R620, R630, R631). -/
def report (e : ErrIn) (s : State) : State :=
  if s.err.fatal then countAfterFatal s
  else match coalesceWith s e with
  | some r =>
    bump (ctrNode 0x08) { s with err := { s.err with
      log := s.err.log.map (fun x => if x.eseq = r.eseq then { x with cnt := satAdd32 x.cnt 1 } else x) } }
  | none =>
    if e.cls = 0 ∨ e.cls = 5 ∨ e.audit then writeRec (mkRec s e false false false e.rel) s
    else match s.err.active with
    | none =>
      let r := mkRec s e false false false e.rel
      let s := writeRec r s
      { s with err := { s.err with active := some { rec_ := r, suspended := false, work := stepsOf s e } } }
    | some h =>
      if e.cls ≤ h.rec_.cls then
        let room := queueRoom s.err.queue e.cls
        let r := mkRec s e false false (!room && e.cls ≤ 2) e.rel
        let s := writeRec r s
        enqueue { rec_ := r, suspended := false, work := stepsOf s e } s
      else
        let r0 := mkRec s e false false false e.rel
        let esc := contains r0 h.rec_.code h.rec_.cls h.rec_.tdv h.rec_.sva
        let r := mkRec s e false esc false (if esc then h.rec_.eseq else e.rel)
        let s := writeRec r s
        let s := bump (ctrNode 0x10) s
        let s := { s with err := { s.err with active := some { rec_ := r, suspended := false, work := stepsOf s e } } }
        if esc then bump (ctrNode 0x14) s else enqueue { h with suspended := true } s

/-- Floor plan change in service: code 0b11 for a resource, FPGEN increments (R601). -/
def fenceCode (f : Floor → Floor) (s : State) : State :=
  { s with floor := if s.floor.published then { f s.floor with gen := s.floor.gen + 1 } else f s.floor }

/-- One nanosecond passes with no command waiting: the clocks that run advance. -/
def tick (s : State) : State :=
  if s.pwr.powered then
    let s := { s with clk := s.clk + 1 }
    let s := if s.boot.running then { s with boot := { s.boot with t := s.boot.t + 1 } } else s
    if s.boot.phase == .released || s.now != 0 then { s with now := s.now + 1 } else s
  else s

end Sys2Proof.Machine
end

