-- ==== Sys2Proof/Machine/Operands.lean ====
section
/-! DEFINITION. Operand forms: integer fields of bytes in both orders (R553, R392), region keys and SVAs (R33, R59), message
headers (R553), CRC-32 (R584, R589), and the records that commands carry. -/

namespace Sys2Proof.Machine

/-! ### Bytes -/

def byteAt (bs : List Byte) (i : Nat) : Nat := (bs.getD i 0).toNat

/-- Little-endian integer of n bytes at offset o. -/
def le (bs : List Byte) (o : Nat) : Nat → Nat
  | 0 => 0
  | n + 1 => byteAt bs o + 256 * le bs (o + 1) n

/-- Big-endian integer of n bytes at offset o. -/
def beGo (bs : List Byte) (o : Nat) : Nat → Nat → Nat
  | 0, acc => acc
  | n + 1, acc => beGo bs (o + 1) n (acc * 256 + byteAt bs o)
def be (bs : List Byte) (o n : Nat) : Nat := beGo bs o n 0

def leBytes (v : Nat) : Nat → List Byte
  | 0 => []
  | n + 1 => BitVec.ofNat 8 v :: leBytes (v / 256) n

def beBytes (v n : Nat) : List Byte := (leBytes v n).reverse

/-- Bytes [o, o+n). -/
def slice (bs : List Byte) (o n : Nat) : List Byte := (bs.drop o).take n

/-- n bytes, padded with zeros or cut. -/
def fit (bs : List Byte) (n : Nat) : List Byte := (bs ++ List.replicate (n - bs.length) 0).take n

def zeros (n : Nat) : List Byte := List.replicate n 0

def allZero (bs : List Byte) : Bool := bs.all (· == 0)

/-! ### CRC-32, IEEE 802.3 polynomial (R584, R589) -/

def crcBit (c : BitVec 32) : Nat → BitVec 32
  | 0 => c
  | n + 1 => crcBit (if c.getLsbD 0 then (c >>> 1) ^^^ 0xEDB88320#32 else c >>> 1) n

def crc32 (bs : List Byte) : BitVec 32 :=
  ~~~ (bs.foldl (fun c b => crcBit (c ^^^ b.zeroExtend 32) 8) 0xFFFFFFFF#32)

/-! ### SVAs and keys (R33, R59) -/

structure Sva where
  td : Nat
  seqn : Nat
  layer : Nat
  head : Nat
  tpage : Nat
  off : Nat
  deriving DecidableEq, Repr

def Sva.ofNat (w : Nat) : Sva :=
  { td := nbits w 63 58, seqn := nbits w 57 40, layer := nbits w 39 32, head := nbits w 31 26, tpage := nbits w 25 16, off := nbits w 15 0 }

def Sva.toNat (a : Sva) : Nat :=
  a.td * 2 ^ 58 + a.seqn * 2 ^ 40 + a.layer * 2 ^ 32 + a.head * 2 ^ 26 + a.tpage * 2 ^ 16 + a.off

/-- The 24-bit page index SVA[39:16] (R33). -/
def pageIx (layer head tpage : Nat) : Nat := layer * 0x10000 + head * 0x400 + tpage
def pixLayer (p : Nat) : Nat := p / 0x10000
def pixHead (p : Nat) : Nat := p / 0x400 % 0x40
def pixT (p : Nat) : Nat := p % 0x400

/-- SVA of a page of a sequence, offset zero. -/
def svaOf (td seqn pix : Nat) : Nat := td * 2 ^ 58 + seqn * 2 ^ 40 + pix * 2 ^ 16

/-- The region key of a sequence (R59). -/
def rkeyOf (d : SeqD) : Nat := d.kidx * 0x10000 + d.sgen

/-! ### Serial arithmetic (R10) -/

/-- a is below b at width w. -/
def serLt (w a b : Nat) : Bool :=
  let diff := (b + 2 ^ w - a % 2 ^ w) % 2 ^ w
  decide (0 < diff ∧ diff < 2 ^ (w - 1))

/-! ### Mailbox messages (R553) -/

structure Msg where
  cmd : Nat
  ver : Nat
  rsp : Nat
  fence : Bool
  td : Nat
  tag : Nat
  status : Nat
  blen : Nat
  rsvZero : Bool
  body : List Byte
  deriving DecidableEq, Repr

def Msg.ofBytes (bs : List Byte) : Msg :=
  let w0 := le bs 0 8
  let w1 := le bs 8 8
  let blen := nbits w1 43 32
  { cmd := nbits w0 63 48, ver := nbits w0 47 44, rsp := nbits w0 43 43, fence := nbits w0 42 42 == 1, td := nbits w0 37 32,
    tag := nbits w0 31 0, status := nbits w1 63 48, blen := blen,
    rsvZero := nbits w0 41 38 == 0 && nbits w1 47 44 == 0 && nbits w1 31 31 == 0 && nbits w1 30 0 == 0,
    body := fit (bs.drop 16) blen }

/-- A response message: header with RSP set, STATUS, REKEYED, then the body. -/
def respBytes (code td tag status : Nat) (rekeyed : Bool) (body : List Byte) : List Byte :=
  leBytes (code * 2 ^ 48 + 2 ^ 44 + 2 ^ 43 + td * 2 ^ 32 + tag) 8
    ++ leBytes (status * 2 ^ 48 + body.length * 2 ^ 32 + b2n rekeyed * 2 ^ 31) 8 ++ body

/-! ### Statuses (R106, R162, R367, R477, R529, R567) -/

def stOk : Nat := 0x0000

/-! ### The extent descriptor and other records -/

/-- Bits set in a byte string, numbered as in R473: bit j of byte i is number 8i + j. -/
def bitsSet (bs : List Byte) : List Nat :=
  (nats (8 * bs.length)).filter (fun k => (bs.getD (k / 8) 0).getLsbD (k % 8))

/-- n bits from a list of numbers. -/
def bitsBytes (l : List Nat) (n : Nat) : List Byte :=
  (nats n).map (fun i => BitVec.ofNat 8 ((nats 8).foldl (fun acc j => acc + if l.contains (8 * i + j) then 2 ^ j else 0) 0))

end Sys2Proof.Machine
end

