-- ==== Sys2Proof/Machine/Crypto.lean ====
section
/-! DEFINITION. The published functions that the spec names: SHA3-384 and SHAKE256 (FIPS 202; R509, R515, R519, R524), AES-256 (FIPS 197), GMAC and
AES-256-GCM (SP 800-38D; R396, R410, R499), AES-256-XTS (IEEE 1619; R306, R307). Byte strings are lists, their first byte first; a bit vector's first
byte is its highest. -/

namespace Sys2Proof.Machine

/-! ### Keccak (FIPS 202) -/

/-- Rotation offsets of the lanes, lane x + 5 y at its index. -/
def keccakRot : List Nat :=
  [0, 1, 62, 28, 27, 36, 44, 6, 55, 20, 3, 10, 43, 25, 39, 41, 45, 15, 21, 8, 18, 2, 61, 56, 14]

/-- Round constants. -/
def keccakRc : List W64 :=
  [0x0000000000000001, 0x0000000000008082, 0x800000000000808A, 0x8000000080008000,
   0x000000000000808B, 0x0000000080000001, 0x8000000080008081, 0x8000000000008009,
   0x000000000000008A, 0x0000000000000088, 0x0000000080008009, 0x000000008000000A,
   0x000000008000808B, 0x800000000000008B, 0x8000000000008089, 0x8000000000008003,
   0x8000000000008002, 0x8000000000000080, 0x000000000000800A, 0x800000008000000A,
   0x8000000080008081, 0x8000000000008080, 0x0000000080000001, 0x8000000080008008]

/-- One round on the 25 lanes: theta, rho and pi, chi, iota. -/
def keccakRound (a : List W64) (rc : W64) : List W64 :=
  let c := (nats 5).map (fun x => a.getD x 0 ^^^ a.getD (x + 5) 0 ^^^ a.getD (x + 10) 0 ^^^ a.getD (x + 15) 0 ^^^ a.getD (x + 20) 0)
  let t := (nats 25).map (fun i => a.getD i 0 ^^^ c.getD ((i + 4) % 5) 0 ^^^ (c.getD ((i + 1) % 5) 0).rotateLeft 1)
  let b := (nats 25).map (fun j => let k := (j % 5 + 3 * (j / 5)) % 5 + 5 * (j % 5); (t.getD k 0).rotateLeft (keccakRot.getD k 0))
  let e := (nats 25).map (fun i => b.getD i 0 ^^^ (~~~ b.getD ((i + 1) % 5 + i / 5 * 5) 0 &&& b.getD ((i + 2) % 5 + i / 5 * 5) 0))
  (e.getD 0 0 ^^^ rc) :: e.drop 1

def keccakF (a : List W64) : List W64 := keccakRc.foldl keccakRound a

/-- A block of bytes is taken into the state. -/
def keccakAbsorb (a : List W64) (block : List Byte) : List W64 :=
  keccakF ((nats 25).map (fun i => a.getD i 0 ^^^ BitVec.ofNat 64 (le block (8 * i) 8)))

/-- Blocks of output. -/
def keccakSqueeze (rate : Nat) : Nat → List W64 → List Byte
  | 0, _ => []
  | n + 1, a => (a.flatMap (fun v => leBytes v.toNat 8)).take rate ++ keccakSqueeze rate n (keccakF a)

/-- The sponge at a rate in bytes: the message with its domain bits and padding, then n bytes of output. -/
def sponge (rate dom : Nat) (msg : List Byte) (n : Nat) : List Byte :=
  let q := rate - msg.length % rate
  let m := msg ++ if q = 1 then [BitVec.ofNat 8 (dom + 0x80)] else BitVec.ofNat 8 dom :: zeros (q - 2) ++ [0x80]
  let a := (nats (m.length / rate)).foldl (fun a i => keccakAbsorb a (slice m (rate * i) rate)) (List.replicate 25 0)
  (keccakSqueeze rate (n / rate + 1) a).take n

/-- SHA3-384 of a byte string. -/
def sha3_384 (msg : List Byte) : BitVec 384 := BitVec.ofNat 384 (be (sponge 104 0x06 msg 48) 0 48)

/-- SHAKE256: n bytes of output. -/
def shake256 (msg : List Byte) (n : Nat) : List Byte := sponge 136 0x1F msg n

/-! ### AES-256 (FIPS 197) -/

/-- The S-box by rows of 32 entries, entry 0 of a row highest. -/
def aesRows : List Nat :=
  [0x637c777bf26b6fc53001672bfed7ab76ca82c97dfa5947f0add4a2af9ca472c0,
   0xb7fd9326363ff7cc34a5e5f171d8311504c723c31896059a071280e2eb27b275,
   0x09832c1a1b6e5aa0523bd6b329e32f8453d100ed20fcb15b6acbbe394a4c58cf,
   0xd0efaafb434d338545f9027f503c9fa851a3408f929d38f5bcb6da2110fff3d2,
   0xcd0c13ec5f974417c4a77e3d645d197360814fdc222a908846eeb814de5e0bdb,
   0xe0323a0a4906245cc2d3ac629195e479e7c8376d8dd54ea96c56f4ea657aae08,
   0xba78252e1ca6b4c6e8dd741f4bbd8b8a703eb5664803f60e613557b986c11d9e,
   0xe1f8981169d98e949b1e87e9ce5528df8ca1890dbfe6426841992d0fb054bb16]

def subByte (b : Byte) : Byte := BitVec.ofNat 8 (aesRows.getD (b.toNat / 32) 0 / 256 ^ (31 - b.toNat % 32))

/-- Multiplication by x in GF(2^8). -/
def xtime (b : Byte) : Byte := (b <<< 1) ^^^ (if b.getLsbD 7 then 0x1B#8 else 0#8)

def xorBytes (a b : List Byte) : List Byte := List.zipWith (· ^^^ ·) a b

/-- Word i of the expanded key from the words before it, newest first. -/
def aesWord (ws : List (List Byte)) (i : Nat) : List Byte :=
  let prev := ws.getD 0 []
  let t := if i % 8 = 0 then xorBytes ((prev.drop 1 ++ prev.take 1).map subByte) (BitVec.ofNat 8 (2 ^ (i / 8 - 1)) :: zeros 3)
    else if i % 8 = 4 then prev.map subByte
    else prev
  xorBytes (ws.getD 7 []) t

/-- The 15 round keys. -/
def aesKeys (key : BitVec 256) : List (List Byte) :=
  let k := beBytes key.toNat 32
  let ws := ((nats 52).foldl (fun ws i => aesWord ws (i + 8) :: ws) ((nats 8).map (fun i => slice k (4 * i) 4)).reverse).reverse
  (nats 15).map (fun r => (slice ws.flatten (16 * r) 16))

/-- SubBytes and ShiftRows on the 16 bytes of a state, column by column. -/
def aesShift (b : List Byte) : List Byte := (nats 16).map (fun i => subByte (b.getD ((i + 4 * (i % 4)) % 16) 0))

/-- MixColumns. -/
def aesMix (b : List Byte) : List Byte :=
  (nats 16).map (fun i =>
    let x := fun k => b.getD (i / 4 * 4 + (i + k) % 4) 0
    xtime (x 0) ^^^ xtime (x 1) ^^^ x 1 ^^^ x 2 ^^^ x 3)

/-- The cipher under round keys, on a block of 16 bytes. -/
def aesBlock (ks : List (List Byte)) (b : List Byte) : List Byte :=
  let s := (nats 13).foldl (fun s r => xorBytes (aesMix (aesShift s)) (ks.getD (r + 1) [])) (xorBytes b (ks.getD 0 []))
  xorBytes (aesShift s) (ks.getD 14 [])

/-- Blocks of 16 bytes, the last perhaps short. -/
def blocks16 (bs : List Byte) : List (List Byte) := (nats ((bs.length + 15) / 16)).map (fun i => slice bs (16 * i) 16)

/-! ### GCM (SP 800-38D) with a 96-bit IV -/

/-- Multiplication in GF(2^128): bit 127 is the coefficient of 1. -/
def gmul (x y : BitVec 128) : BitVec 128 :=
  ((nats 128).foldl (fun (a : BitVec 128 × BitVec 128) i =>
    (if x.getLsbD (127 - i) then a.1 ^^^ a.2 else a.1, (a.2 >>> 1) ^^^ (if a.2.getLsbD 0 then 0xE1#128 <<< 120 else 0#128))) (0, y)).1

/-- GHASH of blocks, each filled with zeros. -/
def ghash (h : BitVec 128) (bs : List (List Byte)) : BitVec 128 :=
  bs.foldl (fun y b => gmul (y ^^^ BitVec.ofNat 128 (be (fit b 16) 0 16)) h) 0

/-- Counter block i of an IV. -/
def gcmCounter (iv : BitVec 96) (i : Nat) : List Byte := beBytes (iv.toNat * 2 ^ 32 + i % 2 ^ 32) 16

/-- The 128-bit tag over additional data and ciphertext; with no ciphertext, the GMAC. -/
def gcmTag (key : BitVec 256) (iv : BitVec 96) (aad ct : List Byte) : BitVec 128 :=
  let ks := aesKeys key
  let h := BitVec.ofNat 128 (be (aesBlock ks (zeros 16)) 0 16)
  let y := ghash h (blocks16 aad ++ blocks16 ct ++ [beBytes (8 * aad.length) 8 ++ beBytes (8 * ct.length) 8])
  y ^^^ BitVec.ofNat 128 (be (aesBlock ks (gcmCounter iv 1)) 0 16)

/-- Encryption and decryption: bytes under the key stream from counter 2 on. -/
def gcmCrypt (key : BitVec 256) (iv : BitVec 96) (bs : List Byte) : List Byte :=
  let ks := aesKeys key
  ((blocks16 bs).zipIdx).flatMap (fun b => xorBytes b.1 (aesBlock ks (gcmCounter iv (b.2 + 2))))

/-! ### XTS (IEEE 1619) on whole blocks -/

/-- Multiplication of a tweak by the primitive element: byte 0 is the lowest. -/
def xtsDouble (t : List Byte) : List Byte :=
  let v := 2 * le t 0 16
  leBytes ((v % 2 ^ 128) ^^^ (if v < 2 ^ 128 then 0 else 0x87)) 16

/-- Blocks of a data unit from its tweak on. -/
def xtsBlocks (ks : List (List Byte)) : List (List Byte) → List Byte → List Byte
  | [], _ => []
  | b :: bs, t => xorBytes (aesBlock ks (xorBytes b t)) t ++ xtsBlocks ks bs (xtsDouble t)

/-- Encryption of a data unit, whose length is a multiple of 16, under the data key and the tweak key, in this order. -/
def xts (key : BitVec 512) (tweak unit : List Byte) : List Byte :=
  xtsBlocks (aesKeys (key.extractLsb' 256 256)) (blocks16 unit) (aesBlock (aesKeys (key.extractLsb' 0 256)) tweak)

end Sys2Proof.Machine
end

