-- ==== Sys2Proof/Machine/Mail.lean ====
section
/-! DEFINITION. Shared operations of the mailboxes (chapter 16): the command table and its checks (R554, R558, R563), starting a
command in its channel's order (R550, R551), completing it, and resetting a channel. -/

namespace Sys2Proof.Machine

/-- A row of the command tables (R558, R563): code, channels P V S F, and the listed bytes of the request body as ranges. -/
structure CmdRow where
  code : Nat
  p : Bool
  v : Bool
  s : Bool
  f : Bool
  fields : List (Nat × Nat)
  deriving DecidableEq, Repr

def row (code : Nat) (p v s f : Bool) (fields : List (Nat × Nat)) : CmdRow :=
  { code := code, p := p, v := v, s := s, f := f, fields := fields }

def sref : List (Nat × Nat) := [(0, 12)]

/-- The command set (R558, R563). -/
def cmdRows : List CmdRow :=
  [ row 0x0101 true true true true [(0, 8)],
    row 0x0102 true false true false [(0, 4)],
    row 0x0103 false false true false [(0, 8)],
    row 0x0201 true false false true [(0, 1), (8, 120)],
    row 0x0202 true false false true [(0, 1), (4, 8), (16, 4080)],
    row 0x0203 true false false true [(0, 64)],
    row 0x0204 true false false true [],
    row 0x0205 true false false true [],
    row 0x0301 true true false true [(0, 12), (16, 24)],
    row 0x0302 true true false true sref,
    row 0x0303 true true false true (sref ++ [(16, 20)]),
    row 0x0304 true true false true (sref ++ [(16, 20)]),
    row 0x0305 true true false true sref,
    row 0x0306 true true false true (sref ++ [(16, 17)]),
    row 0x0307 true true false true sref,
    row 0x0308 false true false false [(0, 64)] ]
  ++
  [ row 0x0401 true true false true [(0, 1), (16, 1040)],
    row 0x0402 true true false true (sref ++ [(16, 24), (32, 4080)]),
    row 0x0403 true true false true (sref ++ [(16, 17), (18, 20), (32, 4080)]),
    row 0x0404 true true false true [(0, 16)],
    row 0x0501 true true false true [(0, 19)],
    row 0x0502 true true false true [(0, 4)],
    row 0x0503 false true false false [(0, 12)],
    row 0x0504 true true false false [(0, 2), (8, 24)],
    row 0x0505 true true false false [(0, 1)],
    row 0x0601 true false false true [(0, 192)],
    row 0x0602 true true false true [(0, 2)],
    row 0x0603 true false false true [(0, 4)],
    row 0x0604 true true false true (sref ++ [(16, 24)]),
    row 0x0605 true true false true (sref ++ [(16, 29), (32, 56)]),
    row 0x0606 true true false true [(0, 10), (16, 20), (24, 29), (32, 56)] ]
  ++
  [ row 0x0701 true true false true [(0, 5), (16, 48)],
    row 0x0702 true true false true [(0, 8)],
    row 0x0703 true true false true [(0, 5), (8, 16)],
    row 0x0704 true true false true [(0, 4), (8, 16), (48, 4080)],
    row 0x0705 true true false true [],
    row 0x0706 true true false true [(0, 5), (8, 12)],
    row 0x0707 true true false true [(0, 4)],
    row 0x0708 true false false false [(0, 64)],
    row 0x0709 true false true false [] ]

def cmdRow? (code : Nat) : Option CmdRow := cmdRows.find? (fun r => r.code == code)

/-- Commands of channel 72 that need no release (R554, R557). -/
def earlyCmd (code : Nat) : Bool := code == 0x0101 || code == 0x0102 || code == 0x0103 || code == 0x0709

-- DEDUCED, unsafe, log entry 21.
/-- Unlisted bytes of the body are reserved and zero; the body ends within the layout, rounded up to its last word. -/
def bodyOk (r : CmdRow) (body : List Byte) : Bool :=
  let top := r.fields.foldl (fun m x => max m x.2) 0
  decide (body.length ≤ (top + 7) / 8 * 8) &&
    (nats body.length).all (fun i => (r.fields.any (fun x => x.1 ≤ i && i < x.2)) || byteAt body i == 0)

/-- The channel's class (R539). -/
def chanAllowed (r : CmdRow) (c : Nat) : Bool :=
  if c < 8 then r.p else if c < 72 then r.v else if c = 72 then r.s else decide (c < 77) && r.f

/-- The TD field agrees with the channel (R541). -/
def chanTd (c td : Nat) : Bool :=
  if c < 8 then true else if c < 72 then td == c - 8 else if c = 72 then td == 0 else true

/-- The checks of R554 in their order; zero when all pass. -/
def msgCheck (s : State) (c : Nat) (m : Msg) : Nat :=
  match cmdRow? m.cmd with
  | none => 0x0001
  | some r =>
    if m.ver ≠ 1 ∨ m.rsp ≠ 0 ∨ m.status ≠ 0 ∨ !m.rsvZero ∨ 4080 < m.blen ∨ !bodyOk r m.body then 0x0001
    else if !chanAllowed r c || !chanTd c m.td then 0x0003
    else if s.up then 0 else if c = 72 ∧ earlyCmd m.cmd then 0 else 0x0065

/-! ### Commands taken -/

def setCmds (f : List Cmd → List Cmd) (s : State) : State := { s with mbx := { s.mbx with cmds := f s.mbx.cmds } }

def cmd? (s : State) (id : Nat) : Option Cmd := s.mbx.cmds.find? (fun c => c.id == id)

def updCmd (id : Nat) (f : Cmd → Cmd) (s : State) : State :=
  setCmds (fun l => l.map (fun c => if c.id = id then f c else c)) s

/-- Commands taken and not yet answered (R544), the response in the buffer among them. -/
def nout (s : State) (c : Nat) : Nat :=
  (s.mbx.cmds.filter (fun x => x.ch == c && !x.discard)).length + b2n (chan s c).rfull

/-- Complete a command: status, REKEYED and response body (R548). A discarded one leaves no response. Statuses with a counter
are counted for the domain (R538, R663). -/
def finish (id status : Nat) (rekeyed : Bool) (rsp : List Byte) (s : State) : State :=
  match cmd? s id with
  | none => s
  | some c =>
    let s := if status = 0x0007 then bump (ctrTd c.td 0x008) s else s
    let s := if status = 0x0008 then bump (ctrTd c.td 0x00C) s else s
    let s := if status = 0x0054 then bump (ctrTd c.td 0x148) s else s
    let c' := { c with stage := .done, status := status, rekeyed := rekeyed, rsp := rsp }
    setCmds (fun l => l.filter (fun x => x.id != id) ++ (if c.discard then [] else [c'])) s

def finishOk (id : Nat) (rsp : List Byte) (s : State) : State := finish id 0 false rsp s
def finishErr (id status : Nat) (s : State) : State := finish id status false [] s

-- DEDUCED, unsafe, log entry 22.
/-- Objects a command names (R550): kind 1 sequence, 2 extent, 3 configuration of a domain. -/
def cmdObjs (c : Cmd) : List (Nat × Nat) :=
  let a := Sva.ofNat (le c.body 0 8)
  let sq := [(1, seqKey a.td a.seqn)]
  if c.code = 0x0301 ∨ c.code = 0x0606 then sq ++ [(2, le c.body 8 2)]
  else if 0x0302 ≤ c.code ∧ c.code ≤ 0x0307 ∨ c.code = 0x0402 ∨ c.code = 0x0403 ∨ c.code = 0x0604 ∨ c.code = 0x0605 then sq
  else if c.code = 0x0308 then let b := Sva.ofNat (le c.body 8 8); [(1, seqKey b.td b.seqn)]
  else if c.code = 0x0601 then [(2, nbits (le c.body 0 8) 63 52)]
  else if c.code = 0x0602 ∨ c.code = 0x0603 then [(2, le c.body 0 2)]
  else if 0x0201 ≤ c.code ∧ c.code ≤ 0x0205 then [(3, c.td)]
  else []

/-- An earlier command that a later one of the same object must follow: one not started, or a publication that runs. -/
def blocks (a b : Cmd) : Bool :=
  (a.stage == .waiting || (a.stage == .running && a.code == 0x0402)) && (cmdObjs a).any (fun o => (cmdObjs b).contains o)

/-- The oldest waiting command of a channel, when it carries this code and may start now (R550, R551). -/
def nextCmd (s : State) (c code : Nat) : Option Cmd :=
  match s.mbx.cmds.find? (fun x => x.ch == c && x.stage == .waiting) with
  | none => none
  | some x =>
    let before := s.mbx.cmds.filter (fun y => decide (y.id < x.id))
    if x.code = code ∧ (x.fence = true → before.all (fun y => y.ch != c || y.stage == .done) = true)
        ∧ before.all (fun y => !blocks y x) = true ∧ (s.up = true ∨ (c = 72 ∧ earlyCmd code = true)) then some x else none

/-- Run a command's effect on the command that starts. -/
def runCmd (c code : Nat) (f : Cmd → State → State) (s : State) : State :=
  match nextCmd s c code with
  | some x => f x s
  | none => s

/-- Keep a command running. -/
def keepRunning (id : Nat) (s : State) : State := updCmd id (fun c => { c with stage := .running }) s

/-! ### Doorbells -/

def setDb (c : Nat) (bit : Nat) (on : Bool) (s : State) : State :=
  updChan c (fun x => { x with db := if on then x.db ||| BitVec.ofNat 32 (2 ^ bit) else x.db &&& ~~~ BitVec.ofNat 32 (2 ^ bit) }) s

/-- Bits of MBX_DB and MBX_MASK that exist (R543). -/
def dbBits : W32 := 0xC0000F03

/-- A channel window the owner can reach: released, or channel 72 with the responder ready (R539, R554, R690). -/
def reachable (s : State) (c : Nat) : Bool :=
  if c < 72 then s.up else c == 72 && s.pwr.sbReady && !s.pwr.testEn

/-- The channel is reset (R543, "When a channel is reset"): responses, replies and completions of what was taken are discarded,
buffers and registers cleared, work queues destroyed, which ends a WQ_DESTROY that runs, RST set. -/
def channelReset (c : Nat) (s : State) : State :=
  let s := setCmds (fun l => (l.filter (fun x => !(x.ch == c && (x.stage == .done || (x.stage == .running && x.code == 0x0505))))).map
    (fun x => if x.ch = c then { x with discard := true } else x)) s
  let lose := fun (x : Sender) => match x with
    | .wq k _ _ => if k = c then Sender.gone else x
    | _ => x
  let s := { s with att := { s.att with
    reqs := s.att.reqs.map (fun (r : Req) => { r with sender := lose r.sender })
    handoffHeld := s.att.handoffHeld.map (fun (r : HeldReq) => { r with sender := lose r.sender }) } }
  let s := { s with mbx := { s.mbx with dma := s.mbx.dma.map (fun d => (d.1, match d.2 with
    | .wqEntry k q i => if k = c then .goneEntry c else .wqEntry k q i
    | .wqDescriptor k q i td n => if k = c then .goneDescriptor c td n else .wqDescriptor k q i td n
    | u => u)) } }
  let old := chan s c
  mbxEvent c 4 (setChan c { Chan.reset with evt := old.evt, evtSeq := old.evtSeq } s)

/-- RACK taken (R548): the response buffer is free. -/
def takeRack (c : Nat) (s : State) : State :=
  if dbTaken (chan s c) 1 then updChan c (fun x => { x with rfull := false }) (setDb c 1 false s) else s

/-- RESET taken. -/
def takeReset (c : Nat) (s : State) : State := if dbTaken (chan s c) 30 then channelReset c s else s

end Sys2Proof.Machine
end

