-- ==== Sys2Proof/Machine/Net.lean ====
section
/-! DEFINITION. Shared operations of ports, egress, sessions and queue pairs (chapters 11 to 13): frame layout and tags, routing,
queueing and the gust level, building messages, acknowledgements and refusals, and a queue pair's way into ERROR. -/

namespace Sys2Proof.Machine

/-! ### Ports (R385, R400, R401) -/

def PortState.code : PortState → Nat
  | .disabled => 0 | .training => 1 | .checking => 2 | .up => 3 | .degraded => 4 | .retraining => 5 | .fenced => 6

/-- Fields [15:0] of FAB_PSTAT (R401). -/
def pstatFlags (p : Port) : Nat :=
  p.state.code * 0x2000 + p.pol * 0x800 + b2n p.rev * 0x400 + p.lfen * 0x100 + p.ldead * 0x40 + p.fault * 8

/-- Change a port: SEQ increments when a field of [15:0] changes. -/
def Port.upd (p : Port) (f : Port → Port) : Port :=
  let p' := f p
  if pstatFlags p' = pstatFlags p then p' else { p' with seq := p'.seq.bump }

/-- The port admits frames. -/
def Port.carries (p : Port) : Bool := p.state == .up || p.state == .degraded || p.state == .retraining

/-- The port carries on one lane (R391, R454). -/
def Port.oneLane (p : Port) : Bool := p.state == .degraded || p.state == .retraining || p.peerOut.isSome

/-! ### Frames (R392, R396) -/

/-- The header, most significant byte first. -/
def headerBytes (f : Frame) : List Byte :=
  beBytes (f.uver * 2 ^ 60 + f.ftype * 2 ^ 56 + f.td * 2 ^ 50 + b2n f.mgmt * 2 ^ 49 + b2n f.final * 2 ^ 48 + f.src * 2 ^ 24 + f.dst) 8
  ++ beBytes (f.qpn * 2 ^ 40 + f.psn * 2 ^ 16 + f.rsv1 * 2 ^ 13 + f.plen) 8
  ++ beBytes (f.tstamp * 2 ^ 32 + f.msn * 2 ^ 8 + f.gust * 2 ^ 4 + b2n f.fence * 8 + b2n f.solicit * 4 + f.rsv2) 8
  ++ beBytes f.fcnt 8 ++ beBytes f.addr 8 ++ beBytes (f.rkey * 2 ^ 32 + f.alen) 8

/-- The integrity tag of R396 under a session key. -/
def frameTag (key : BitVec 256) (f : Frame) : W64 :=
  (gcmTag key (BitVec.ofNat 96 (f.src * 2 ^ 72 + f.fcnt * 2 ^ 8)) (headerBytes f ++ f.payload) []).extractLsb' 64 64

def nodeId (s : State) : Nat := s.fab.nodeid.toNat % 2 ^ 18

def sess? (s : State) (mgmt : Bool) (td peer : Nat) : Option Sess :=
  s.net.sess.find? (fun x => x.mgmt == mgmt && x.td == (if mgmt then 0 else td) && x.peer == peer)

def updSess (mgmt : Bool) (td peer : Nat) (f : Sess → Sess) (s : State) : State :=
  { s with net := { s.net with sess := s.net.sess.map (fun x =>
    if x.mgmt = mgmt ∧ x.td = (if mgmt then 0 else td) ∧ x.peer = peer then f x else x) } }

/-! ### Requester hosts, budgets and load (R445, R459 to R462) -/

/-- Requester host of an endpoint (R445). -/
def hostOf (s : State) (id : Nat) : Nat :=
  let w := lookD 0x3FF#32 s.fab.hmap (id / 4096 % 4096)
  if bitOf w 31 then fld w 9 0 else 1023

def budgetOf (s : State) (h : Nat) : Nat := (lookD 0 s.fab.bud h).toNat % 0x10000

/-- The budget bucket in bytes now (R459): depth BUDGET × 1 ms, refilled at BUDGET bytes per ns. -/
def budgetLevel (s : State) (h : Nat) : Int :=
  let b := budgetOf s h
  match look s.fab.budget h with
  | some (v, t) => min (Int.ofNat (b * 1000000)) (v + Int.ofNat (b * (s.now - t)))
  | none => Int.ofNat (b * 1000000)

/-- The host may issue work (R461). -/
def budgetOk (s : State) (h : Nat) : Bool := budgetOf s h == 0 || decide (0 ≤ budgetLevel s h)

/-- Channel, unit and slot of a DRAM frame code (R49): stack, local channel, bank pair, frame slot. -/
def frChan (f : Nat) : Nat := 32 * (f / 2 ^ 25) + f / 2 ^ 20 % 32
def frUnit (f : Nat) : Nat := 9 * frChan f + f / 2 ^ 16 % 16
def frSlot (f : Nat) : Nat := f % 2 ^ 16
def frDie (f : Nat) : Nat := if frChan f < 384 then 0 else 1
/-- The code of a frame slot of a unit (R49, R599). -/
def frameOf (unit slot : Nat) : Nat := unit / 288 * 2 ^ 25 + unit % 288 / 9 * 2 ^ 20 + unit % 9 * 2 ^ 16 + slot

def leafChan? (l : Option Leaf) : Option Nat :=
  match l with
  | some l => match l.tier with
    | .dram => some (frChan l.frame)
    | _ => none
  | none => none

/-- Same page of the same request. -/
def samePage (a b : PageRef) : Bool := a.rid == b.rid && a.k == b.k && a.tpage == b.tpage

/-- Fetches queued: pages of fused attention commands not yet fetched, and of Zephyr's recovery work that stand in no page buffer; none of a page
found poisoned (R188). -/
def pendingFetches (s : State) : List PageRef :=
  (s.att.gcmds.flatMap (fun g => g.share.flatMap (·.2))
    ++ (s.att.reqs.flatMap (·.zphLeft)).filter (fun p => !(s.att.zph0.buf ++ s.att.zph1.buf).any (fun t => samePage p t.page))).filter
      (fun p => match p.leaf with | some l => !l.psn | none => true)

/-- An operation on a unit's queue counts as pending (R321): a copy that moves a page does not. -/
def countsPending (s : State) (o : UnitOp) : Bool :=
  match o with
  | .copy i => s.mem.chgs.any (fun c => c.id == i && c.kind == .cow)
  | _ => true

/-- Page operations pending on a channel (R321). -/
def pendingOn (s : State) (c : Nat) : Nat :=
  ((nats 9).foldl (fun n b => n + ((lookD [] s.att.units (9 * c + b)).filter (countsPending s)).length) 0)
    + ((pendingFetches s).filter (fun p => leafChan? p.leaf == some c)).length

/-- Channels of the domain's placement list: those of its ACTIVE extents, not fenced (R318, R319, R474). -/
def placeChans (s : State) (td : Nat) : List Nat :=
  let l := s.cmp.exts.flatMap (fun e => if e.2.td = td ∧ e.2.state = .active then e.2.chan else [])
  (l.filter (fun c => codeChan s c == .good)).mergeSort (fun a b => decide (a ≤ b))

/-- Page operations pending for a domain. -/
def pendingOf (s : State) (td : Nat) : Nat := (domChans s td).foldl (fun n c => n + pendingOn s c) 0

def qmaxOf (w : W32) : Nat := max 0x40 (fld w 27 16)

/-- Frames queued on a port, ACK and NAK apart (R455). -/
def queued (p : Port) : Nat := p.expedite.length + p.queues.foldl (fun n q => n + q.2.length) 0

/-- The gust level of R462: the largest of the egress, domain, budget and ingress parts. -/
def gustEgress (p : Port) : Nat := min 15 (16 * queued p / max 1 p.qmax)
def gustDomain (s : State) (td : Nat) : Nat :=
  let c := (domChans s td).length
  let v := if c = 0 then 0 else min 15 (pendingOf s td / (2 * c))
  if s.att.reqs.any (fun r => r.td == td && r.stage == .queueHeld) then max 8 v else v
def gustBudget (s : State) (h : Nat) : Nat :=
  let b := budgetOf s h
  let v := budgetLevel s h
  let g := if b = 0 ∨ 0 ≤ v then 0 else min 15 (8 + 7 * v.natAbs / (b * 1000000))
  if lookD [] s.fab.held h ≠ [] then max 8 g else g
def gustIngress (s : State) (h : Nat) : Nat :=
  match look s.fab.lastRed h with
  | some t => if s.now ≤ t + 100000 then 12 else
      (match look s.fab.lastYellow h with | some y => if s.now ≤ y + 100000 then 6 else 0 | none => 0)
  | none => match look s.fab.lastYellow h with | some y => if s.now ≤ y + 100000 then 6 else 0 | none => 0

def gust (s : State) (p td h : Nat) (mgmt : Bool) : Nat :=
  if mgmt then gustEgress (port s p)
  else max (max (gustEgress (port s p)) (gustDomain s td)) (max (gustBudget s h) (gustIngress s h))

/-! ### Egress (R380, R381, R447 to R455) -/

def flatMode (s : State) : Bool := bitOf s.fab.schCtl 31

/-- Ports a frame to `dst` may use: permitted and carrying (R380). -/
def usable (s : State) (dst : Nat) : List Nat :=
  let mask := (lookD 0 s.fab.route (dst / 4096 % 4096)).toNat
  (nats 4).filter (fun p => mask.testBit p && (port s p).carries)

/-- Service class of a frame: 1 reply, 2 bulk, 3 management in hierarchical mode; S1 to S3 in flat-priority mode; 0 unshaped. -/
def classOf (flat : Bool) (f : TxFrame) : Nat :=
  if flat then
    if f.cls = .ackNak then 0 else if f.retx then 2 else if f.cls = .mgmt ∨ f.cls = .owner then 1 else if f.cls = .reply then 3 else 0
  else match f.cls with
    | .ackNak => 0
    | .reply | .readResp => 1
    | .bulk => 2
    | .mgmt | .owner => 3

/-- Queue of a frame (R447). -/
def queueKey (s : State) (f : TxFrame) : Nat :=
  if flatMode s then (if classOf true f = 0 then 100 + f.td else classOf true f)
  else 4 * hostOf s f.dst + (classOf false f - 1)

/-- A class of the port has a frame waiting. -/
def classWaits (flat : Bool) (p : Port) (c : Nat) : Bool :=
  p.expedite.any (fun f => classOf flat f == c) ||
    (if flat then lookD [] p.queues c != [] else p.queues.any (fun q => q.1 % 4 + 1 == c && q.2 != []))

/-- IDLE and HICRED of SCH_SHP (R453, R454, R469), in eightieths of a byte per ns and eightieths of a byte. -/
def idleOf (s : State) (pn c : Nat) : Nat :=
  min (fld (lookD 0x40#32 s.fab.shp (4 * pn + c)) 31 19) (if (port s pn).oneLane then 4000 else 8000)
def hicredOf (s : State) (pn c : Nat) : Nat :=
  let v := fld (lookD 0x40#32 s.fab.shp (4 * pn + c)) 15 0
  (if v = 0 then 5 else v) * 81920

-- DEDUCED, unsafe, log entry 122.
/-- Bring the shapers' credits up to now (R453): a class that waits gains at IDLE up to its ceiling, one that does not gains up to zero. -/
def settleCredit (pn : Nat) (s : State) : State :=
  let p := port s pn
  let flat := flatMode s
  let one := fun (t : List (Nat × Int)) (c : Nat) =>
    let v := lookD 0 t c + Int.ofNat (idleOf s pn c * (s.now - p.creditAt))
    putD 0 t c (if classWaits flat p c then min v (Int.ofNat (hicredOf s pn c)) else min v 0)
  updPort pn (fun p => { p with credit := [1, 2, 3].foldl one p.credit, creditAt := s.now }) s

/-- Put a frame into a port's queues. A retransmission goes to the head of its own service queue in hierarchical mode. -/
def enqueueOn (s : State) (f : TxFrame) (p : Port) : Port :=
  if f.cls = .ackNak then { p with ackq := p.ackq ++ [f] }
  else if f.expedite then { p with expedite := p.expedite ++ [f] }
  else
    let k := queueKey s f
    let q := lookD [] p.queues k
    { p with queues := put p.queues k (if f.retx && !flatMode s then f :: q else q ++ [f]) }

/-- The port that a frame to `dst` for queue pair `qpn` leaves by (R380). -/
def routePort (s : State) (dst qpn : Nat) : Option Nat :=
  match usable s dst with
  | [] => none
  | ps => some (ps.getD (Config.egressHash (dst * 2 ^ 24 + qpn) % ps.length) 0)

-- DEDUCED, unsafe, log entry 170.
/-- A block that builds frames, the transport or the one for management responses, has a frame waiting for room on the port that its next frame would
leave by: it makes none meanwhile (R455). -/
def builderWaits (s : State) (mgmt : Bool) (dst qpn : Nat) : Bool :=
  match routePort s dst qpn with
  | some pn => (port s pn).waiting.any (fun f => f.mgmt == mgmt)
  | none => false

/-- Hand a frame to egress: route it (R380, R381), stamp its gust level (R463), queue it, or let it wait for room (R455). -/
def sendFrame (f : TxFrame) (s : State) : State :=
  match routePort s f.dst f.qpn with
  | none => bump (ctrNode 0x60) s
  | some pn =>
    let s := settleCredit pn s
    let p : Port := { port s pn with qmax := qmaxOf s.fab.schCtl }
    let s := setPort pn p s
    let f := { f with gust := gust s pn f.td (hostOf s f.dst) f.mgmt }
    if f.cls = FClass.ackNak ∨ (queued p < p.qmax ∧ p.waiting = []) then updPort pn (enqueueOn s f) s
    else bump (ctrPort pn 11) (updPort pn (fun p => { p with waiting := p.waiting ++ [f] }) s)

/-- The frame on the wire: counter under the session key, tag (R396, R398). Answers none without a session. -/
def wire (f : TxFrame) (s : State) : Option (Frame × State) :=
  match sess? s f.mgmt f.td f.dst with
  | none => none
  | some x =>
    let fr : Frame := {
      uver := 1, ftype := f.ftype, td := if f.mgmt then 0 else f.td, mgmt := f.mgmt, final := f.final, src := nodeId s
      dst := f.dst, qpn := f.qpn, psn := f.psn, rsv1 := 0, plen := f.payload.length, tstamp := f.tstamp, msn := f.msn
      gust := f.gust, fence := false, solicit := false, rsv2 := 0, fcnt := x.fcnt, addr := f.addr, rkey := f.rkey, alen := f.alen
      payload := f.payload, tag := 0, sof := 56 + f.payload.length }
    some ({ fr with tag := frameTag x.frameKey fr }, updSess f.mgmt f.td f.dst (fun x => { x with fcnt := x.fcnt + 1 }) s)

/-! ### Queue pairs: acknowledgements and refusals (R433 to R435) -/

/-- Half the PSN circle: a PSN is ahead of another when their distance is below it (R10, R432). -/
def psnHalf : Nat := 8388608

def psnAdd (a n : Nat) : Nat := (a + n) % 2 ^ 24
def psnSub (a b : Nat) : Nat := (a + 2 ^ 24 - b % 2 ^ 24) % 2 ^ 24

/-- A frame of the node to the queue pair's peer. -/
def txTo (q : Qp) (ftype : Nat) (cls : FClass) : TxFrame :=
  { ftype := ftype, cls := cls, td := q.td, mgmt := false, final := false, dst := q.peer, qpn := q.pqpn, psn := 0, msn := 0,
    addr := 0, rkey := 0, alen := 0, payload := [], expedite := false, retx := false, own := q.qpn, gust := 0, tstamp := 0 }

/-- The ACK body of R433. -/
def ackBody (q : Qp) : List Byte :=
  leBytes (q.epsn * 2 ^ 40 + q.apsn * 2 ^ 16) 8 ++ leBytes (q.echo * 2 ^ 32 + q.epsnf * 2 ^ 8) 8 ++ zeros 16 ++ bitsBytes q.rbits 128

/-- APSN has passed a PSN. -/
def Qp.passed (q : Qp) (psn : Nat) : Bool := decide (0 < psnSub q.apsn psn ∧ psnSub q.apsn psn < psnHalf)

/-- APSN has passed a FINAL frame that no ACK has reported yet (R432). -/
def finalDue (s : State) (qpn : Nat) : Bool := (qp? s qpn).any (fun q => q.finals.any q.passed)

-- DEDUCED, unsafe, log entry 121.
/-- Send an ACK (R435). -/
def sendAck (qpn : Nat) (s : State) : State :=
  match qp? s qpn with
  | none => s
  | some q =>
    let s := updQp qpn (fun q => { q with sinceAck := 0, firstUnacked := none, tlast := s.now, finals := q.finals.filter (fun p => !q.passed p) }) s
    sendFrame { txTo q 0x5 .ackNak with payload := ackBody q, tstamp := s.now % 2 ^ 32 } s

/-- An ACK is due later: after 16 frames, or 1 µs after the first (R435). -/
def ackSoon (qpn : Nat) (s : State) : State :=
  let s := updQp qpn (fun q => { q with sinceAck := q.sinceAck + 1
                                        firstUnacked := some (q.firstUnacked.getD s.now) }) s
  match qp? s qpn with
  | some q => if 16 ≤ q.sinceAck then sendAck qpn s else s
  | none => s

/-- NAK codes (R434). -/
def nakStale : Nat := 1
def nakRange : Nat := 2
def nakAccess : Nat := 3
def nakPoison : Nat := 4
def nakNoframe : Nat := 5
def nakRevoked : Nat := 6
def nakRedirect : Nat := 7
def nakQperr : Nat := 8

/-- Send a NAK (R434). -/
def sendNak (qpn psn code info : Nat) (s : State) : State :=
  match qp? s qpn with
  | none => s
  | some q =>
    let s := bump (ctrTd q.td 0xE0) (updQp qpn (fun q => { q with tlast := s.now }) s)
    let s := if code = nakStale then bump (ctrTd q.td 0xE4) s else s
    sendFrame { txTo q 0x6 .ackNak with
      payload := leBytes (psn * 2 ^ 40 + code * 2 ^ 32 + info) 8 ++ zeros 8, tstamp := s.now % 2 ^ 32 } s

/-! ### Messages of the node's own (R425, R427, R436) -/

/-- Cut bytes into pieces of n. -/
def chunks (n : Nat) : Nat → List Byte → List (List Byte)
  | 0, _ => []
  | fuel + 1, bs => if bs.length ≤ n then [bs] else bs.take n :: chunks n fuel (bs.drop n)

/-- Add FINAL to the last frame. -/
def markFinal : List TxFrame → List TxFrame
  | [] => []
  | [f] => [{ f with final := true }]
  | f :: g :: t => f :: markFinal (g :: t)

/-- Put a message of frames into the queue pair's send stream under the next message number. -/
def sendMsg (qpn : Nat) (frames : List TxFrame) (owner : MsgOwner) (s : State) : State :=
  updQp qpn (fun q =>
    let m := q.msns
    { q with
      msns := (m + 1) % 2 ^ 24
      sendq := q.sendq ++ [{ msn := m, frames := (markFinal frames).map (fun f => { f with msn := m }), owner := owner, firstPsn := none, finalPsn := none, nak := none }] }) s

/-- A remote write of bytes to an address under a key, as frames of 4,096 B. -/
def writeFrames (q : Qp) (cls : FClass) (addr key : Nat) (bs : List Byte) : List TxFrame :=
  let cs := chunks 4096 (bs.length / 4096 + 1) bs
  (cs.zipIdx).map (fun c => { txTo q 0x2 cls with addr := addr + 4096 * c.2, rkey := key, payload := c.1 })

/-! ### On-node contexts (R408, R474) -/

/-- On-node slots of a domain: QPQ of its ACTIVE and DRAINING extents. -/
def slotsOf (s : State) (td : Nat) : Nat :=
  s.cmp.exts.foldl (fun n e => if e.2.td = td ∧ (e.2.state = .active ∨ e.2.state = .draining) then n + e.2.qpq else n) 0

/-- Slots in use: contexts on-node, and those being fetched. -/
def onNode (s : State) (td : Nat) : Nat :=
  (s.net.qps.filter (fun q => q.td == td && (q.onNode || s.net.fetches.any (fun f => f.qpn == q.qpn)))).length

/-- A reply that cannot be delivered (chapter 3): the record is discarded, logged with TAG and counted. -/
def replyLost (rid info : Nat) (s : State) : State :=
  match look s.att.replies rid with
  | none => s
  | some (td, tag) =>
    let s := { s with att := { s.att with replies := rem s.att.replies rid } }
    let s := bump (ctrTd td 0x010) s
    report { err0 0 0x0002 info with td := some td, tag := tag } s

-- DEDUCED, unsafe, log entry 28.
/-- An export that fails leaves CKEP and sets again every changed bit it cleared (R500); its command completes with ABORTED. -/
def abortExport (td seqn : Nat) (s : State) : State :=
  match seq? s td seqn with
  | none => s
  | some d => match d.exp with
    | none => s
    | some e =>
      let s := updSeq td seqn (fun d => { d with exp := none, chgExp := d.chgExp ++ e.cleared.filter (fun p => !d.chgExp.contains p) }) s
      finishErr e.cmd 0x0062 s

/-- Exports that run under a session whose keys go (R500, R528). -/
def abortExportsOf (td : Nat) (peer : Option Nat) (s : State) : State :=
  s.seqs.foldl (fun s x => match x.2.exp with
    | some e => if x.2.td = td ∧ (peer = none ∨ peer = some e.speer) then abortExport td x.2.seqn s else s
    | none => s) s

/-- The owner of a message learns that its queue pair failed. -/
def ownerFailed (o : MsgOwner) (s : State) : State :=
  match o with
  | .reply rid => replyLost rid 0xFF s
  | .exportEnd td seqn => abortExport td seqn s
  | _ => s

/-- A queue pair enters ERROR with its record (R406, R618): frames held for it are discarded. -/
def qpError (qpn info : Nat) (s : State) : State :=
  match qp? s qpn with
  | none => s
  | some q =>
    if q.state = .error then s
    else
      let s := updQp qpn (fun q => { q with
        state := .error, ordered := [], att := [], reads := [], sendq := [], sent := [], ownReads := [], unapplied := [], finals := [], owner := [] }) s
      let s := { s with net := { s.net with fetches := s.net.fetches.filter (fun f => f.qpn != qpn) } }
      let s := bump (ctrTd q.td 0xF0) s
      let s := q.sendq.foldl (fun s m => ownerFailed m.owner s) s
      report { err0 0 0x0003 info with td := some q.td, lkind := 7, loc := qpn } s

end Sys2Proof.Machine
end

