-- ==== Sys2Proof/Machine/Power.lean ====
section
/-! DEFINITION. Power, bring-up, release and resets (chapters 17 and 21, R24, R27, R210 to R213, R293, R682 to R686). -/

namespace Sys2Proof.Machine

/-! ### Resets -/

/-- Everything at its reset value but the model's own record and clock. -/
def wipe (s : State) : State :=
  { State.reset with pending := s.pending, free := s.free, draws := s.draws, out := s.out, clk := s.clk }

/-- A node reset (R612, R614, R670): settings, memories and keys are lost, the crash snapshot is kept. A reset with debug
unlock armed runs with debug unlocked. -/
def nodeReset (s : State) : State :=
  let t := wipe s
  { t with
    pwr := { s.pwr with throttled := [], temps := [], pkg := 0 }
    side := s.side
    err := { t.err with crash := s.err.crash }
    sec := { t.sec with debug := s.sec.debugArmed } }

/-- The fields of a bring-up error record (R618): BRINGUP_FAIL with the cause. -/
def bringupFail (cause : Nat) (s : State) : State := fatalStop (err0 5 0x0055 cause) cause s

-- DEDUCED, unsafe, log entry 11.
/-- t = 0 of bring-up (R576): straps sampled (R676), test mode holds every island in reset (R675), the core clock is
checked (R686). -/
def startBringup (sbSel sbAddr : Nat) (testEn refclkOk : Bool) (s : State) : State :=
  if s.pwr.thermTrip then s
  else
    let s := { s with pwr := { s.pwr with sbSel := sbSel, sbAddr := sbAddr, testEn := testEn } }
    if testEn ∨ !s.pwr.orderOk ∨ s.side.boundary then s
    else if refclkOk then { s with boot := { s.boot with running := true, t := 0 } }
    else { s with boot := s.boot.upd (fun b => { b with phase := .failed, cause := 4 }) }

/-- POWER_ON (R578, R579): the rail groups rise in the order given; a violation of the order is FAILED with cause 0x01 until
power is removed. -/
def execPowerOn (groups : List Nat) (s : State) : Res :=
  if s.pwr.powered then .next s
  else
    let t := wipe s
    let ok := decide (groups = [1, 2, 3, 4, 5])
    let t := { t with clk := 0, pwr := { t.pwr with powered := true, orderOk := ok } }
    .next (if ok then t else bringupFail 1 t)

/-- PWR_OK_ASSERT (R576): with PERST# and NODE_RST_N deasserted, this is t = 0. -/
def execPwrOkAssert (sbSel sbAddr : Nat) (testEn refclkOk : Bool) (s : State) : Res :=
  if !s.pwr.powered || s.pwr.pwrOk then .next s
  else .next (startBringup sbSel sbAddr testEn refclkOk
    { s with pwr := { s.pwr with pwrOk := true, perst := false, nodeRst := false } })

/-- RESET_RELEASED (R576): the last of PERST# and NODE_RST_N is deasserted while PWR_OK is high. -/
def execResetReleased (sbSel sbAddr : Nat) (testEn refclkOk : Bool) (s : State) : Res :=
  if !s.pwr.pwrOk || !(s.pwr.perst || s.pwr.nodeRst) then .next s
  else .next (startBringup sbSel sbAddr testEn refclkOk { s with pwr := { s.pwr with perst := false, nodeRst := false } })

-- DESIGN CHOICE, unsafe, log entry 19.
/-- RAIL_FAULT (R680): every island in reset, nothing kept, no crash snapshot. A rail out of tolerance must rise again in
order; PWR_OK falling alone leaves the rails up, and a violated order stays FAILED (R579). -/
def execRailFault (pwrOkFell : Bool) (s : State) : Res :=
  if !s.pwr.powered then .next s
  else
    let t := wipe s
    if pwrOkFell then
      .next (if s.pwr.orderOk then
          { t with pwr := { t.pwr with powered := true, orderOk := true, sbReady := s.pwr.sbReady, thermTrip := s.pwr.thermTrip } }
        else { s with pwr := { s.pwr with pwrOk := false } })
    else .next { t with clk := 0 }

/-- A node reset leaves FAILED, but not the FAILED of a violated rail order (R579, R605). -/
def assertReset (f : Pwr → Pwr) (s : State) : State :=
  if !s.pwr.powered then s
  else if !s.pwr.orderOk then { s with pwr := f s.pwr }
  else let t := nodeReset s; { t with pwr := f t.pwr, side := { t.side with boundary := false } }

/-- NODE_RST_N (R612). -/
def execNodeRstN (s : State) : Res := .next (assertReset (fun p => { p with nodeRst := true }) s)

/-- PERST (R612). -/
def execPerst (s : State) : Res := .next (assertReset (fun p => { p with perst := true }) s)

-- DESIGN CHOICE, safe, log entry 9.
/-- Bring-up runs and has reached this phase. -/
def bringingUp (s : State) (p : Phase) : Bool := s.outOfReset && s.boot.running && s.boot.phase == p

/-- Bring-up runs and the control processor has started (R576): the parallel rows may run. -/
def controlRuns (s : State) : Bool :=
  s.outOfReset && s.boot.running && decide (3 ≤ s.boot.phase.code ∧ s.boot.phase.code ≤ 9)

def setPhase (p : Phase) (s : State) : State := { s with boot := s.boot.upd (fun b => { b with phase := p }) }

/-- FUSE_LOAD (R582, R514): the fuses are loaded, UDS is read once and locked, the defect map marks what is fused off (R583). -/
def execFuseLoad (f : Fuses) (s : State) : Res :=
  if !bringingUp s .rails then .next s
  else if !f.correctable then .next (bringupFail 2 s)
  else
    let off := fun (l : List (Nat × Code)) (ks : List Nat) => ks.foldl (fun l k => put l k Code.fusedOff) l
    let s := { s with
      floor := { s.floor with clus := off s.floor.clus f.defClus, unit := off s.floor.unit f.defUnit, chan := off s.floor.chan f.defChan }
      boot := { s.boot with fuses := some f, udsLocked := true } }
    .next (setPhase .fuses s)

/-! ### The boot device (R584 to R590) -/

/-- n bytes of the boot device from an offset on: those of the run that holds the offset. -/
def bootRead (d : BootDevice) (off n : Nat) : List Byte :=
  match d.runs.find? (fun r => decide (r.1 ≤ off ∧ off < r.1 + r.2.length)) with
  | some r => slice r.2 (off - r.1) n
  | none => []

/-- The directory, its 32 B at offset 0 (R584). -/
def bootDir (d : BootDevice) : List Byte := fit (bootRead d 0 32) 32

/-- A slot at an offset (R585): header, body of the header's LEN, signature. -/
def bootSlotAt (d : BootDevice) (off : Nat) : BootSlot :=
  let h := fit (bootRead d off 128) 128
  { header := h, body := bootRead d (off + 128) (le h 8 4), signature := bootRead d (off + 128 + le h 8 4) 29792 }

/-- The slots, the board description and the certificate section, where the directory says (R584, R589, R516). -/
def bootSlotA (d : BootDevice) : BootSlot := bootSlotAt d (le (bootDir d) 12 4)
def bootSlotB (d : BootDevice) : BootSlot := bootSlotAt d (le (bootDir d) 8 4)
def bootBoard (d : BootDevice) : List Byte := fit (bootRead d (le (bootDir d) 20 4) 64) 64
def bootCerts (d : BootDevice) : List Byte := bootRead d (le (bootDir d) 16 4) (le (bootDir d) 28 4)

/-- The directory's CRC and MAGIC are correct (R584, check 1 of R586); an SFDP read without a valid signature fails it too (R696). -/
def directoryOk (d : BootDevice) : Bool :=
  let x := bootDir d
  d.sfdpOk && le x 4 4 == 0x58444952 && le x 24 4 == (crc32 (slice x 0 24 ++ slice x 28 4)).toNat

-- DEDUCED, unsafe, log entry 15.
/-- Fuses set in the security version floor (R513). -/
def svnFloor (w : W64) : Nat := ((nats 64).filter (fun i => w.getLsbD i)).length

-- DESIGN CHOICE, unsafe, log entry 16.
/-- A digest as bytes, first byte first. -/
def digestBytes (d : BitVec 384) : List Byte := beBytes d.toNat 48

/-- A slot passes checks 2 to 6 of R586, in order. -/
def slotOk (f : Fuses) (x : BootSlot) : Bool :=
  let w0 := le x.header 0 8
  let len := le x.header 8 4
  let svn := le x.header 12 4
  w0 / 2 ^ 32 == 0x49544642 && nbits w0 31 16 == 1 && decide (len ≤ 0x2000000)
    && decide (svnFloor f.svnf ≤ svn)
    && sha3_384 (slice x.header 64 64) == f.rooth
    && x.body.length == len && digestBytes (sha3_384 x.body) == slice x.header 16 48
    && x.signature.length == 29792 && Config.slhVerify256s (slice x.header 64 64) (x.header ++ x.body) x.signature

/-- The board description is valid (R589, R590). -/
def boardOk (b : List Byte) : Bool :=
  le b 4 4 == 0x42445343 && le b 2 2 == 1 && le b 24 4 == (crc32 (slice b 0 24 ++ slice b 28 36)).toNat
    && (nbits (le b 8 8) 55 52 == 4 || nbits (le b 8 8) 55 52 == 8)
    && (le b 20 4 == 156250 || le b 20 4 == 312500) && le b 16 4 == 100000

def boardOf (b : List Byte) : Board :=
  { flanes := byteAt b 15, pciw := nbits (le b 8 8) 55 52, frefKhz := le b 20 4, crefKhz := le b 16 4, tgt := (nats 32).map (fun k => byteAt b (32 + k)) }

/-- The board description in force: as read, or the defaults of R590 with BDINV set and an error record. -/
def readBoard (f : Fuses) (b : List Byte) (s : State) : State :=
  if boardOk b then { s with boot := { s.boot with board := boardOf b, pcieWidth := min s.boot.pcieWidth (boardOf b).pciw } }
  else
    let s := { s with boot := s.boot.upd (fun x => { x with
      bdinv := true
      board := { Board.reset with pciw := 4, frefKhz := f.frefKhz, crefKhz := f.crefKhz }
      pcieWidth := min x.pcieWidth 4 }) }
    report (err0 0 (Config.boardCode % 0x10000) 0) s

-- DEDUCED, unsafe, log entry 13.
-- DEDUCED, unsafe, log entry 14.
/-- BOOT_SLOT_VERIFY (R586, R587): slot A, then slot B if A fails; FAILED with cause 0x03 if both fail. -/
def execBootSlotVerify (d : BootDevice) (s : State) : Res :=
  match s.boot.fuses with
  | none => .next s
  | some f =>
    if !bringingUp s .fuses then .next s
    else
      let s := setPhase .bootImage s
      let take := fun (x : BootSlot) (s : State) =>
        { s with boot := { s.boot with imageOk := true, svn := le x.header 12 4, fwdig := sha3_384 x.body, certs := bootCerts d } }
      let dir := directoryOk d
      if dir && slotOk f (bootSlotA d) then .next (readBoard f (bootBoard d) (take (bootSlotA d) s))
      else
        let s := { s with boot := s.boot.upd (fun b => { b with afail := true }) }
        if dir && slotOk f (bootSlotB d) then
          let s := { s with boot := s.boot.upd (fun b => { b with slotb := true }) }
          .next (readBoard f (bootBoard d) (take (bootSlotB d) s))
        else .next (bringupFail 3 s)

/-! ### Keys (R514 to R517) -/

def ascii (s : String) : List Byte := s.toList.map (fun c => BitVec.ofNat 8 c.toNat)

/-- Order of the P-384 group, for the scalar of R515. -/
def p384n : Nat :=
  0xFFFFFFFFFFFFFFFFFFFFFFFFFFFFFFFFFFFFFFFFFFFFFFFFC7634D81F4372DDF581A0DB248B0A77AECEC196ACCC52973

/-- KEY_DERIVATION (R515, R516): keys from UDS, or from the fixed debug value with debug unlocked, and the verified image; the
control processor starts; the identity certificate is checked. -/
def execKeyDerivation (s : State) : Res :=
  match s.boot.fuses with
  | none => .next s
  | some f =>
    if !(bringingUp s .bootImage && s.boot.imageOk) then .next s
    else
      let uds := beBytes (if s.sec.debug then Config.debugValue else f.uds).toNat 32
      let did := shake256 (ascii "RELORN-DID-1" ++ uds) 96
      let spdm := shake256 (ascii "RELORN-SPDM-1" ++ uds) 64
      let cdi := shake256 (ascii "RELORN-CDI-1" ++ uds ++ digestBytes s.boot.fwdig ++ leBytes s.boot.svn 4) 32
      let alias_ := shake256 (ascii "RELORN-ALIAS-1" ++ cdi) 96
      let s := { s with sec := { s.sec with didSeed := did, aliasSeed := alias_, spdmKey := be spdm 0 64 % (p384n - 1) + 1 } }
      let s := setPhase .controlStart s
      if Config.certKey s.boot.certs ≠ Config.slhPublic256s did then .next (report (err0 5 0x0050 1) s)
      else if !Config.certSigned s.boot.certs f.rooth then .next (report (err0 5 0x0050 2) s)
      else .next { s with sec := { s.sec with identity := true } }

/-- ALIAS_CERTIFICATE_SIGN (R517): serial number, alias public key, FWDIG and SVN, signed with the identity key. -/
def execAliasCertificateSign (s : State) : Res :=
  if !controlRuns s || s.boot.aliasSigned then .next s
  else
    let content := leBytes Config.serial.toNat 8 ++ Config.slhPublic256f s.sec.aliasSeed ++ digestBytes s.boot.fwdig ++ leBytes s.boot.svn 4
    .next { s with
      boot := { s.boot with aliasSigned := true }
      sec := { s.sec with aliasCert := Config.aliasCert content (Config.slhSign256s s.sec.didSeed content) } }

/-! ### Flash format (R293, R294, R306) -/

/-- FLASH_FORMAT: the key is drawn; an ONFI channel whose targets do not match the board description, or do not pass, is
fenced and logged; FLS_CAP is computed from the good blocks of the others. -/
def execFlashFormat (targets : List FlashTarget) (s : State) : Res :=
  if !controlRuns s || s.boot.flashDone then .next s
  else
    let (key, s) := draw 512 s
    let named := fun k j => (BitVec.ofNat 8 (s.boot.board.tgt.getD k 0)).getLsbD j
    let found := fun k j => targets.find? (fun t => t.chan == k && t.tgt == j)
    let bad := fun k => (nats 8).any (fun j => match found k j with
      | some t => !(named k j && t.ok)
      | none => named k j)
    let populated := fun k => (nats 8).any (fun j => named k j || (found k j).isSome)
    let fenced := (nats 32).filter (fun k => populated k && bad k)
    let inService := (nats 32).filter (fun k => populated k && !bad k)
    let good := targets.filter (fun t => inService.contains t.chan && decide (t.tgt < 8))
    let s := fenced.foldl (fun s k => report { err0 0 0x0005 k with lkind := 5, loc := k * 2 ^ 25 } s) s
    let (ts, s) := good.foldl (fun (acc : List (Nat × FTarget) × State) t =>
      (put acc.1 (8 * t.chan + t.tgt) {
        blocks := t.blocks, perBlock := t.blockBytes, blk := [], queue := [], sinceLow := 0
        timeouts := 0, order := acc.2.draws, open_ := none }, { acc.2 with draws := acc.2.draws + t.blocks })) ([], s)
    let bytes := good.foldl (fun n t => n + t.blocks * t.blockBytes) 0
    .next { s with
      mem := { s.mem with flashKey := BitVec.ofNat 512 key, fenced := fenced, targets := ts, flsCap := min (2 ^ 30) (93 * bytes / (100 * 69632)) }
      boot := { s.boot with flashDone := true }
      floor := { s.floor with
        flsch := inService.foldl (fun n k => n + 2 ^ k) 0
        targets := inService.map (fun k => (k, (good.filter (fun t => t.chan == k)).length)) } }

/-! ### Waves, training, clearing, broadcast, qualification (R591 to R597, R210 to R213) -/

-- DESIGN CHOICE, unsafe, log entry 8.
/-- POWER_WAVE (R591, R592): six stack waves, then thirteen cluster waves. -/
def execPowerWave (s : State) : Res :=
  if !(bringingUp s .controlStart || bringingUp s .waves) then .next s
  else
    let s := setPhase .waves s
    if s.boot.stackWaves < 6 then .next { s with boot := { s.boot with stackWaves := s.boot.stackWaves + 1 } }
    else if s.boot.clusWaves < 13 then .next { s with boot := { s.boot with clusWaves := s.boot.clusWaves + 1 } }
    else .next s

/-- Mark resources that are still good with a code. -/
def markFailed (l : List (Nat × Code)) (ks : List Nat) : List (Nat × Code) :=
  ks.foldl (fun l k => if lookD .good l k = .good then put l k Code.failed else l) l

/-- Channels and units of a stack (R599). -/
def stackChans (st : Nat) : List Nat := (nats 32).map (fun c => 32 * st + c)
def stackUnits (st : Nat) : List Nat := (nats 288).map (fun u => 288 * st + u)

/-- STACK_PORT_TRAINING (R593): `failed` gives failed lanes per stack, `d2dFailed` the mask of failed die-to-die lanes. -/
def execStackPortTraining (failed : List (Nat × Nat)) (d2dFailed : Nat) (s : State) : Res :=
  match s.boot.fuses with
  | none => .next s
  | some f =>
    if !(bringingUp s .waves && s.boot.stackWaves == 6 && s.boot.clusWaves == 13) then .next s
    else
      let s := setPhase .training s
      let spare := fun st => f.stackSpares.getD st 0
      let dead := (nats 24).filter (fun st => spare st < lookD 0 failed st)
      let used := (nats 24).filterMap (fun st =>
        let n := lookD 0 failed st
        if 0 < n ∧ n ≤ spare st then some (st, n) else none)
      let s := { s with
        boot := { s.boot with portsTrained := true, stackSparesUsed := used }
        floor := { s.floor with
          chan := markFailed s.floor.chan (dead.flatMap stackChans)
          unit := markFailed s.floor.unit (dead.flatMap stackUnits) } }
      let n := ((nats 64).filter (fun i => d2dFailed.testBit i)).length
      if n ≤ f.d2dSpares then .next { s with boot := { s.boot with d2dSparesUsed := n } }
      else .next (fatalStop (err0 5 0x0052 d2dFailed) 5 s)

/-- CHANNEL_TRAINING (R594): a channel that fails its test twice is recorded as failed. -/
def execChannelTraining (fail1 fail2 : List Nat) (s : State) : Res :=
  if !(bringingUp s .training && s.boot.portsTrained) then .next s
  else .next { s with
    boot := { s.boot with chansTrained := true }
    floor := { s.floor with chan := markFailed s.floor.chan (fail1.filter (fail2.contains ·)) } }

/-- BRINGUP_ZERO_FILL (R595): every frame, side block and table area of the good channels reads zero, with valid check bits. -/
def execBringupZeroFill (s : State) : Res :=
  if !(bringingUp s .training && s.boot.chansTrained) then .next s
  else .next (setPhase .clearing { s with mem := { s.mem with dram := [], chk := [], frames := [] } })

/-- The firmware image's items of a kind, and all that the broadcast loads (R521, R597). -/
def fwItems (kind n : Nat) : List FwItem :=
  (nats n).map (fun i => let x := Config.fwItem kind i; { kind := kind, idx := i, size := x.1, isvn := x.2.1, dig := x.2.2 })
def fwImage : List FwItem := fwItems 0x01 4 ++ fwItems 0x02 Config.kernels ++ fwItems 0x03 1 ++ fwItems 0x11 1 ++ fwItems 0x12 1

/-- FIRMWARE_BROADCAST (R597, R588, R122): every store is written with its item; a unit or cluster whose digest fails twice is recorded as failed; the xSPI pins go to high
impedance. -/
def execFirmwareBroadcast (units1 units2 clus1 clus2 : List Nat) (s : State) : Res :=
  if !bringingUp s .clearing then .next s
  else .next (setPhase .broadcast { s with
    boot := { s.boot with xspiHighZ := true, loaded := fwImage }
    floor := { s.floor with
      unit := markFailed s.floor.unit (units1.filter (units2.contains ·))
      clus := markFailed s.floor.clus (clus1.filter (clus2.contains ·)) } })

/-- Change a Zephyr: SEQ increments when GOOD, FENCED or RECOV changes (R666). -/
def Zph.upd (z : Zph) (f : Zph → Zph) : Zph :=
  let z' := f z
  if z'.good = z.good ∧ z'.fenced = z.fenced ∧ z'.recov = z.recov then z' else { z' with seq := z'.seq.bump }

def zph (s : State) (die : Nat) : Zph := if die = 0 then s.att.zph0 else s.att.zph1
def updZph (die : Nat) (f : Zph → Zph) (s : State) : State :=
  if die = 0 then { s with att := { s.att with zph0 := s.att.zph0.upd f } }
  else { s with att := { s.att with zph1 := s.att.zph1.upd f } }

def countGood (l : List (Nat × Code)) (n : Nat) : Nat := n - (l.filter (fun e => e.1 < n && e.2 != .good)).length

-- DESIGN CHOICE, safe, log entry 17.
/-- One power-up draw of a placement key per domain (R317, R518), and the first decay tick (R268). -/
def drawPlaces : Nat → State → State
  | 0, s => s
  | n + 1, s =>
    let s := drawPlaces n s
    let (k, s) := draw 128 s
    updDom n (fun d => { d with place := { d.place with key := BitVec.ofNat 128 k }, nextDecay := d.halfNow * 100000000 }) s

/-- BRINGUP_WATCHDOG (R606). -/
def execBringupWatchdog (w : BootWatch) (s : State) : Res :=
  let due := match w with
    | .heartbeat => controlRuns s
    | .timeout => s.outOfReset && s.boot.running && decide (24000000000 ≤ s.boot.t)
  .next (if due then bringupFail 7 s else s)

/-! ### PCI Express -/

/-- Width that the working lanes give (R596, R696): x8, or x4 on either whole half. -/
def pcieWidthOf (lanes : Nat) : Nat :=
  if lanes % 256 = 255 then 8 else if lanes % 16 = 15 ∨ lanes / 16 % 16 = 15 then 4 else 0

-- DEDUCED, unsafe, log entry 154.
/-- The width that the board description and the fuse options leave of a trained width (R581, R589, R638). -/
def widthWithin (s : State) (w : Nat) : Nat :=
  let w := if s.boot.board.pciw = 0 then w else min w s.boot.board.pciw
  match s.boot.fuses with
  | some f => if f.widths.contains w then w else if w = 8 ∧ f.widths.contains 4 then 4 else 0
  | none => w

/-- PCIE_LINK_TRAINING (R596, R696, R590): no link without the reference clock, x4 with one whole half only. -/
def execPcieLinkTraining (lanes : Nat) (refclk : Bool) (s : State) : Res :=
  if !s.outOfReset then .next s
  else
    let w := widthWithin s (if refclk then pcieWidthOf lanes else 0)
    .next { s with boot := { s.boot with pcieUp := decide (0 < w), pcieWidth := w } }

-- DEDUCED, unsafe, log entry 174.
/-- CONFIGURATION_REQUEST (R596, R603, R605): Request Retry Status until release, normal completion in FAILED and afterwards. -/
def execConfigurationRequest (s : State) : Res :=
  if !(s.outOfReset && s.boot.pcieUp) then .next s
  else
    let ok := s.boot.phase == .released || s.boot.phase == .failed
    .next (emit (.cfgCompletion ok) { s with boot := { s.boot with cfgDefault := s.boot.cfgDefault && !ok } })

def Snap.reset : Snap := { seq := 0, busy := false, captured := [], capturedT := 0, holding := [], t := 0 }

/-- The views of virtual function n return to reset (R670): its snapshots and its SEC_TDST. -/
def resetVfView (n : Nat) (s : State) : State :=
  let s := { s with regs := { s.regs with
    snaps := rem s.regs.snaps n, latch := rem s.regs.latch n, low := s.regs.low.filter (fun k => k.1 / 2 ^ 28 != n) } }
  updDom n (fun d => { d with tdstSeq := { d.tdstSeq with alt := 0 } }) s

-- DEDUCED, unsafe, log entry 20.
/-- HOST_INTERFACE_RESET (R612, R613, R670): before release, link training alone starts again; afterwards configuration space,
channels 0 to 71, IDE, SPDM and TDIs return to their initial states. -/
def execHostInterfaceReset (s : State) : Res :=
  if !s.outOfReset then .next s
  else if s.boot.phase ≠ .released then .next { s with boot := { s.boot with pcieUp := false, pcieWidth := 0 } }
  else
    let s := (nats 72).foldl (fun s c => channelReset c s) s
    let s := (nats 64).foldl (fun s n =>
      resetVfView n (updDom n (fun d => d.upd (fun d => { d with tdi := .unlocked, qpTab := none })) s)) s
    .next { s with
      boot := { s.boot with cfgDefault := true }
      sec := { s.sec with ide := [], spdm := .start, handshake := false, secured := false } }

/-- VF_FUNCTION_LEVEL_RESET (R532, R670). -/
def execVfFunctionLevelReset (vf : Nat) (s : State) : Res :=
  if !s.up || decide (64 ≤ vf) then .next s
  else
    let s := channelReset (8 + vf) s
    .next (resetVfView vf (updDom vf (fun d => d.upd (fun d => { d with tdi := .unlocked })) s))

/-! ### Clocks, links, temperatures -/

/-- CLOCK_LOCK_LOSS (R24). -/
def execClockLockLoss (island : Nat) (s : State) : Res :=
  .next (if s.outOfReset then fatalStop (err0 5 0x0051 island) 4 s else s)

/-- D2D_LINK_FAILURE (R27): INFO holds the lane mask (R618). -/
def execD2dLinkFailure (lanes : Nat) (s : State) : Res :=
  .next (if s.outOfReset && s.boot.portsTrained then fatalStop (err0 5 0x0052 lanes) 5 s else s)

/-- Throttling point of sensor k: 95 °C for a stack, 100 °C for a die (R682). -/
def throttlePoint (k : Nat) : Nat := if k < 24 then 95 else 100
/-- Trip point of sensor k (R682). -/
def tripPoint (k : Nat) : Nat := if k < 24 then 105 else 115

/-- THERMAL_THROTTLE (R683): sensor k is above its throttling point, or no longer is. -/
def execThermalThrottle (sensor temp : Nat) (s : State) : Res :=
  if !s.outOfReset then .next s
  else
    let l := s.pwr.throttled.filter (· != sensor)
    .next { s with pwr := { s.pwr with throttled := if throttlePoint sensor < temp then sensor :: l else l } }

/-- THERMAL_TRIP (R684): THERM_TRIP_N is asserted until power is removed, every island held in reset, nothing kept. -/
def execThermalTrip (sensor temp : Nat) (s : State) : Res :=
  if !s.outOfReset || temp < tripPoint sensor then .next s
  else
    let t := wipe s
    .next { t with pwr := { t.pwr with powered := true, orderOk := s.pwr.orderOk, pwrOk := s.pwr.pwrOk, perst := s.pwr.perst,
                                       nodeRst := s.pwr.nodeRst, thermTrip := true, sbReady := s.pwr.sbReady } }

/-- POWER_MONITOR_REFRESH (R667): package power and the hottest sensor of each group; HOT marks a stack above 85 °C. -/
def execPowerMonitorRefresh (power : Nat) (temps : List Nat) (s : State) : Res :=
  if !s.outOfReset then .next s
  else .next { s with pwr := { s.pwr with
    pkg := min power 0xFFFF
    temps := (nats 26).map (fun k => let t := min (temps.getD k 0) 255; (k, (decide (k < 24 ∧ 85 < t), t))) } }

/-- SIDEBAND_RESPONDER_READY (R690): 1 ms after VDD_IO is in regulation. -/
def execSidebandResponderReady (s : State) : Res :=
  .next (if s.pwr.powered && decide (1000000 ≤ s.clk) then { s with pwr := { s.pwr with sbReady := true } } else s)

end Sys2Proof.Machine
end

