-- ==== Sys2Proof/Machine/CmdNode.lean ====
section
/-! DEFINITION. Node and tenant domain commands (R558 to R561, R598, R621, R614, R508 to R512). -/

namespace Sys2Proof.Machine

/-! ### FLP_READ (R598 to R602) -/

def Code.bits : Code → Nat | .good => 0 | .fusedOff => 1 | .failed => 2 | .fenced => 3

/-- Status bytes of n resources, two bits each (R599). -/
def statusBytes (l : List (Nat × Code)) (n : Nat) : List Byte :=
  (nats (n / 4)).map (fun i => BitVec.ofNat 8 ((nats 4).foldl (fun acc j => acc + (lookD .good l (4 * i + j)).bits * 4 ^ j) 0))

/-- Usable page frames of a channel: 23,040 less the frames retired (R40, R599). -/
def usableFrames (s : State) (c : Nat) : Nat := if codeChan s c = .good then 23040 - lookD 0 s.floor.retired c else 0

/-- The floor plan record (R598, R599). -/
def floorPlan (s : State) : List Byte :=
  let f := s.floor
  leBytes (0x464C5052 * 2 ^ 32 + 2 ^ 16) 8 ++ leBytes (3648 * 2 ^ 32 + f.gen) 8 ++ leBytes Config.serial.toNat 8
  ++ leBytes (b2n s.boot.slotb * 2 ^ 56 + s.boot.svn) 8
  ++ leBytes (countGood f.clus 208 * 2 ^ 48 + countGood f.unit 6912 * 2 ^ 32 + countGood f.chan 768 * 2 ^ 16 + s.boot.board.flanes * 2 ^ 8 + f.fgood) 8
  ++ leBytes (s.mem.flsCap * 2 ^ 32 + f.flsch) 8
  ++ leBytes (f.pciw * 2 ^ 56 + b2n s.boot.belowmin * 2 ^ 55 + b2n f.zph0 * 2 ^ 54 + b2n f.zph1 * 2 ^ 53) 8 ++ leBytes 0 8
  ++ statusBytes f.clus 208 ++ zeros 12 ++ statusBytes f.chan 768
  ++ (nats 768).flatMap (fun c => leBytes (usableFrames s c) 2)
  ++ statusBytes f.unit 6912
  ++ (nats 32).map (fun k => BitVec.ofNat 8 (lookD 0 f.targets k))
  ++ (nats 24).map (fun k => BitVec.ofNat 8 (lookD 0 s.boot.stackSparesUsed k))
  ++ leBytes s.boot.d2dSparesUsed 2 ++ zeros 6

/-- A range of a record: TOTAL, LEN and the bytes from byte 16 (R558). -/
def readRange (rec_ : List Byte) (body : List Byte) : List Byte :=
  let off := le body 0 4
  let len := min (le body 4 4) 4064
  let bs := slice rec_ off len
  leBytes rec_.length 4 ++ leBytes bs.length 4 ++ zeros 8 ++ bs

/-- FLP_READ (R558, R602): before publication TOTAL is 0. A LEN above 4,064 breaks the layout. -/
def execFlpRead (ch : Nat) (s : State) : Res :=
  .next (runCmd ch 0x0101 (fun c s =>
    if 4064 < le c.body 4 4 then finishErr c.id 0x0001 s
    else finishOk c.id (readRange (if s.floor.published then floorPlan s else []) c.body) s) s)

/-! ### ERR_READ (R617, R621) -/

/-- An error record as bytes (R617). -/
def recBytes (r : Rec) : List Byte :=
  leBytes (r.eseq * 2 ^ 32 + r.cls * 2 ^ 29 + b2n r.fatal * 2 ^ 28 + b2n r.esc * 2 ^ 27 + b2n r.qfull * 2 ^ 26 + b2n r.audit * 2 ^ 25
    + b2n r.tdv * 2 ^ 24 + r.code) 8
  ++ leBytes r.time 8 ++ leBytes r.sva 8 ++ leBytes (r.lkind * 2 ^ 56 + r.loc) 8 ++ leBytes (r.tag * 2 ^ 32 + r.cnt) 8
  ++ leBytes (r.rel * 2 ^ 32 + r.epoch) 8 ++ leBytes r.info 8 ++ zeros 8

/-- Records at or above FIRST, oldest first, 63 at most, and the number overwritten from FIRST on (R621). -/
def errRead (s : State) (first : Nat) : List Rec × Nat :=
  match s.err.log.head? with
  | none => ([], 0)
  | some o =>
    let l := if first = 0 then s.err.log else s.err.log.filter (fun r => !serLt 32 r.eseq first)
    (l.take 63, if first ≠ 0 ∧ serLt 32 first o.eseq then (o.eseq + 2 ^ 32 - first) % 2 ^ 32 else 0)

/-- ERR_READ (R621). -/
def execErrRead (ch : Nat) (s : State) : Res :=
  .next (runCmd ch 0x0102 (fun c s =>
    let (l, ovf) := errRead s (le c.body 0 4)
    finishOk c.id (leBytes l.length 4 ++ leBytes ovf 4 ++ zeros 8 ++ l.flatMap recBytes) s) s)

/-! ### CRASH_READ (R614, R634, R635) -/

/-- The crash snapshot as bytes (R634). -/
def crashBytes (k : Crash) : List Byte :=
  let recs := fun (l : List Rec) n => fit (l.flatMap recBytes) (64 * n)
  leBytes (0x43525348 * 2 ^ 32 + 2 ^ 16) 8 ++ leBytes (10752 * 2 ^ 32 + k.eseq) 8 ++ leBytes k.time 8
  ++ leBytes (k.bootStat.toNat * 2 ^ 32 + k.errStat.toNat) 8 ++ leBytes (k.fpgen * 2 ^ 32 + min k.after 0xFFFFFFFF) 8 ++ zeros 24
  ++ recs k.log 64 ++ recs k.hdl 68 ++ (nats 280).flatMap (fun i => leBytes (k.islands.getD i 0) 8)

/-- CRASH_READ (R614). -/
def execCrashRead (ch : Nat) (s : State) : Res :=
  .next (runCmd ch 0x0103 (fun c s =>
    if 4064 < le c.body 4 4 then finishErr c.id 0x0001 s
    else finishOk c.id (readRange (match s.err.crash with | some k => crashBytes k | none => []) c.body) s) s)

/-! ### Configuration of a tenant domain (R36 to R38, R229, R242 to R245, R263, R559 to R561) -/

/-- Element size in bits of a format code (R229). -/
def fmtBits (f : Nat) : Nat :=
  match f with
  | 0 | 1 | 5 | 11 | 12 => 8
  | 2 | 3 | 6 => 6
  | 4 | 7 | 14 => 4
  | 8 | 9 | 13 => 16
  | 10 => 32
  | _ => 0

/-- Formats that may be stored (R229). -/
def storedFmt (f : Nat) : Bool := decide (f ≤ 9) || f == 11 || f == 14

/-- Tokens per page, head width, value and key format of a geometry word (R36). -/
def geomT (g : W64) : Nat := 2 ^ (fld g 31 28 + 6)
def geomW (g : W64) : Nat := 32 * fld g 23 16
def geomV (g : W64) : Nat := fld g 11 8
def geomK (g : W64) : Nat := fld g 3 0

def fmtWord (fmt : List W64) (i : Nat) : W64 := fmt.getD i 0
def fmtKqs (fmt : List W64) : F32 := (fmtWord fmt 0).extractLsb' 32 32
def fmtVqs (fmt : List W64) : F32 := (fmtWord fmt 0).extractLsb' 0 32
def fmtVbias (fmt : List W64) : Nat := fld (fmtWord fmt 1) 63 56
def fmtKhead (fmt : List W64) : Nat := fld (fmtWord fmt 1) 51 48
def fmtNoc (fmt : List W64) : Nat := fld (fmtWord fmt 1) 47 44
def fmtRotmode (fmt : List W64) : Bool := bitOf (fmtWord fmt 1) 40
def fmtRdim (fmt : List W64) : Nat := fld (fmtWord fmt 1) 39 30
/-- Outlier channel i (R242). -/
def fmtOch (fmt : List W64) (i : Nat) : Nat := fld (fmtWord fmt (2 + i / 4)) (63 - 16 * (i % 4)) (48 - 16 * (i % 4)) % 512

/-- Finite and greater than zero. -/
def posFinite (x : F32) : Bool := !bitOf x 31 && x.toNat != 0 && fld x 30 23 != 255

/-- The last test of R243, on both kinds of write. -/
def sideFits (g : W64) (fmt : List W64) : Bool := decide (geomT g * geomW g / 16 + fmtNoc fmt * 2 * geomT g ≤ 4096)

/-- A geometry word the node accepts (R36, R37, R229, R243). -/
def geomOk (g : W64) (fmt : List W64) : Bool :=
  decide (fld g 31 28 < 5) && decide (0 < fld g 23 16 ∧ fld g 23 16 ≤ 16) && storedFmt (geomK g) && storedFmt (geomV g)
    && decide (geomT g * geomW g * fmtBits (geomK g) / 8 ≤ 32768) && decide (geomT g * geomW g * fmtBits (geomV g) / 8 ≤ 32768)
    && sideFits g fmt

def ascending : List Nat → Bool
  | a :: b :: t => decide (a < b) && ascending (b :: t)
  | _ => true

/-- A format record the node accepts under a geometry (R243). -/
def fmtOk (g : W64) (fmt : List W64) : Bool :=
  let noc := fmtNoc fmt
  posFinite (fmtKqs fmt) && posFinite (fmtVqs fmt) && fmtVbias fmt != 128 && decide (fmtKhead fmt ≤ 7) && decide (noc ≤ 8)
    && decide (fmtRdim fmt % 2 = 0 ∧ fmtRdim fmt ≤ geomW g)
    && ascending ((nats noc).map (fmtOch fmt)) && (nats noc).all (fun i => decide (fmtOch fmt i < geomW g))
    && (nats 8).all (fun i => decide (i < noc) || fmtOch fmt i == 0) && sideFits g fmt

/-- A tier record the node accepts (R263). -/
def tierOk (t : List W64) : Bool :=
  let w := t.getD 0 0
  fld w 63 62 != 3 && fld w 55 52 != 0 && fld w 47 32 != 0 && decide (fld w 15 8 < fld w 7 0) && fld (t.getD 1 0) 63 56 != 0

/-- Words of a record, reserved bits dropped. -/
def wordsOf (bs : List Byte) (o : Nat) (masks : List Nat) : List W64 :=
  masks.zipIdx.map (fun m => BitVec.ofNat 64 (le bs (o + 8 * m.2) 8) &&& BitVec.ofNat 64 m.1)

def geomMask : Nat := 0x00000000F0FF0F0F
def fmtMasks : List Nat := [0xFFFFFFFFFFFFFFFF, 0xFF0FF1FFC0000000, 0x01FF01FF01FF01FF, 0x01FF01FF01FF01FF, 0, 0, 0, 0]
def tierMasks : List Nat := [0xC0F0FFFFFFFFFFFF, 0xFF00000000000000, 0, 0]

/-- The domain holds a sequence (R38, R244): one whose descriptor is not FREE. -/
def holdsSeq (s : State) (td : Nat) : Bool := s.seqs.any (fun x => x.2.td == td)

def wordsBytes (ws : List W64) : List Byte := ws.flatMap (fun w => leBytes w.toNat 8)

/-- The four records in force, from byte 8 (R558). -/
def configBytes (d : Dom) : List Byte :=
  zeros 8 ++ wordsBytes [d.geom] ++ wordsBytes d.fmt ++ wordsBytes d.tier ++ wordsBytes [d.policy]

/-- TD_CONFIG (R560): every selected part is checked before any is applied. -/
def execTdConfig (ch : Nat) (s : State) : Res :=
  .next (runCmd ch 0x0201 (fun c s =>
    let d := dom s c.td
    let part := fun i => (byteAt c.body 0).testBit i
    let g := if part 0 then BitVec.ofNat 64 (le c.body 8 8 &&& geomMask) else d.geom
    let f := if part 1 then wordsOf c.body 16 fmtMasks else d.fmt
    let t := if part 2 then wordsOf c.body 80 tierMasks else d.tier
    let p := if part 3 then BitVec.ofNat 64 (le c.body 112 8 &&& 0x83) else d.policy
    if d.sealed then finishErr c.id 0x0050 s
    else if (part 0 || part 1) && holdsSeq s c.td then finishErr c.id 0x0060 s
    else if part 0 && !geomOk g f || part 1 && !fmtOk g f || part 2 && !tierOk t || part 3 && decide (2 ≤ fld p 1 0) then finishErr c.id 0x0002 s
    else
      let d' := { d with geom := g, fmt := f, tier := t, policy := p }
      finishOk c.id (configBytes d') (setDom c.td d' s)) s)

/-- SHA3-384 of a rotary table (R245, R521), its frequencies least significant byte first. -/
def rotDigest (r : List F32) : BitVec 384 := sha3_384 (r.flatMap (fun x => leBytes x.toNat 4))

-- DEDUCED, unsafe, log entry 26.
/-- TD_TABLE (R561, R244, R510): NFREQ equals RDIM / 2, or 0 to unload. -/
def execTdTable (ch : Nat) (s : State) : Res :=
  .next (runCmd ch 0x0202 (fun c s =>
    let d := dom s c.td
    let n := le c.body 4 4
    if byteAt c.body 0 ≠ 0x10 ∨ n ≠ 0 ∧ c.body.length < 16 + 4 * n then finishErr c.id 0x0001 s
    else if d.sealed then finishErr c.id 0x0050 s
    else if holdsSeq s c.td then finishErr c.id 0x0060 s
    else if n ≠ 0 ∧ n ≠ fmtRdim d.fmt / 2 then finishErr c.id 0x0002 s
    else
      let r := (nats n).map (fun i => BitVec.ofNat 32 (le c.body (16 + 4 * i) 4))
      let dig := if n = 0 then none else some (rotDigest r)
      finishOk c.id (match dig with | some x => digestBytes x | none => zeros 48)
        (setDom c.td { d with rotary := r, rotDig := dig } s)) s)

/-- TD_ADMKEY (R558, R510). -/
def execTdAdmkey (ch : Nat) (s : State) : Res :=
  .next (runCmd ch 0x0203 (fun c s =>
    let d := dom s c.td
    let k := fit c.body 64
    if d.sealed then finishErr c.id 0x0050 s
    else finishOk c.id [] (setDom c.td { d with admKey := if allZero k then [] else k } s)) s)

/-- CFGDIG (R509). -/
def cfgDigest (td : Nat) (d : Dom) : BitVec 384 :=
  sha3_384 (ascii "RELORN-CFG-1" ++ leBytes td 1 ++ wordsBytes [d.geom] ++ wordsBytes d.fmt ++ wordsBytes d.tier
    ++ wordsBytes [d.policy] ++ fit d.admKey 64 ++ (match d.rotDig with | some x => digestBytes x | none => zeros 48))

-- DEDUCED, unsafe, log entry 27.
/-- TD_SEAL (R509, R512, R561). -/
def execTdSeal (ch : Nat) (s : State) : Res :=
  .next (runCmd ch 0x0204 (fun c s =>
    let d := dom s c.td
    if d.sealed then finishOk c.id (digestBytes d.cfgdig) s
    else if d.rotary.length ≠ fmtRdim d.fmt / 2 then finishErr c.id 0x0002 s
    else
      let dig := cfgDigest c.td d
      finishOk c.id (digestBytes dig) (setDom c.td (d.upd (fun d => { d with sealed := true, cfgdig := dig })) s)) s)

/-- Free report slots (R523, R533): report, key and upload area are zeroised; a command that still waits for the slot's signature
is answered with REPORT_INVALID. -/
def freeSlots (p : Nat × Slot → Bool) (s : State) : State :=
  let gone := s.sec.slots.filter p
  let s := { s with sec := { s.sec with slots := s.sec.slots.filter (fun x => !p x) } }
  gone.foldl (fun s x => match x.2.signing with
    | some id => finishErr id 0x0053 s
    | none => s) s

/-- TD_UNSEAL (R511, R512): sessions and report slots of the domain zeroised, its READY queue pairs in ERROR with INFO 5, its TDI in
ERROR, the domain OPEN. -/
def execTdUnseal (ch : Nat) (s : State) : Res :=
  .next (runCmd ch 0x0205 (fun c s =>
    if !(dom s c.td).sealed then finishOk c.id [] s
    else
      let s := abortExportsOf c.td none s
      let s := dropSessions (fun x => !x.mgmt && x.td == c.td) s
      let s := freeSlots (fun x => x.2.td == c.td) s
      let s := (s.net.qps.filter (fun q => q.td == c.td)).foldl (fun s q => qpError q.qpn 5 s) s
      finishOk c.id [] (updDom c.td (fun d => d.upd (fun d => { d with sealed := false, tdi := .error })) s)) s)

end Sys2Proof.Machine
end

