-- ==== Sys2Proof/Machine/Num.lean ====
section
/-! DEFINITION. Number formats and arithmetic (chapter 7): element encodings, rounding, packing and block scales, and the bounds of
R117 with exact rationals. -/

namespace Sys2Proof.Machine

/-! ### Values and formats (R229, R230) -/

/-- A value an element holds: NaN, an infinity, or a sign and a magnitude. -/
inductive FV where
  | nan
  | inf (neg : Bool)
  | fin (neg : Bool) (mag : Rat)
  deriving DecidableEq, Repr

/-- A floating-point format: exponent bits, mantissa bits, bias, pattern of the largest finite magnitude, and whether it has
infinities; `nan` is the pattern of its quiet NaN, if it has one. -/
structure FSpec where
  eb : Nat
  mb : Nat
  bias : Nat
  top : Nat
  infs : Bool
  nan : Option Nat
  deriving DecidableEq, Repr

def specF32 : FSpec := { eb := 8, mb := 23, bias := 127, top := 0x7F7FFFFF, infs := true, nan := some 0x7FC00000 }
def specBf16 : FSpec := { eb := 8, mb := 7, bias := 127, top := 0x7F7F, infs := true, nan := some 0x7FC0 }
def specFp16 : FSpec := { eb := 5, mb := 10, bias := 15, top := 0x7BFF, infs := true, nan := some 0x7E00 }
def specE4m3 : FSpec := { eb := 4, mb := 3, bias := 7, top := 0x7E, infs := false, nan := some 0x7F }
def specE5m2 : FSpec := { eb := 5, mb := 2, bias := 15, top := 0x7B, infs := true, nan := some 0x7E }
def specE3m2 : FSpec := { eb := 3, mb := 2, bias := 3, top := 0x1F, infs := false, nan := none }
def specE2m3 : FSpec := { eb := 2, mb := 3, bias := 1, top := 0x1F, infs := false, nan := none }
def specE2m1 : FSpec := { eb := 2, mb := 1, bias := 1, top := 0x7, infs := false, nan := none }

/-- The floating-point format of a format code; none for an integer format (R229). -/
def fspec? (code : Nat) : Option FSpec :=
  match code with
  | 0 | 5 => some specE4m3
  | 1 => some specE5m2
  | 2 => some specE3m2
  | 3 | 6 => some specE2m3
  | 4 | 7 => some specE2m1
  | 8 => some specBf16
  | 9 => some specFp16
  | 10 => some specF32
  | _ => none

/-- 2 to an integer power. -/
def pow2 (e : Int) : Rat := if 0 ≤ e then (2 : Rat) ^ e.toNat else 1 / (2 : Rat) ^ (-e).toNat

/-- The value of a pattern (R230, R234). -/
def FSpec.dec (f : FSpec) (p : Nat) : FV :=
  let neg := p.testBit (f.eb + f.mb)
  let a := p % 2 ^ (f.eb + f.mb)
  let e := a / 2 ^ f.mb
  let m := a % 2 ^ f.mb
  if f.infs && e == 2 ^ f.eb - 1 then (if m = 0 then .inf neg else .nan)
  else if !f.infs && f.nan == some a then .nan
  else if e = 0 then .fin neg (m * pow2 (1 - (f.bias : Int) - f.mb))
  else .fin neg ((2 ^ f.mb + m : Nat) * pow2 ((e : Int) - f.bias - f.mb))

/-- The exponent of the leading bit of a positive rational. -/
def log2q (v : Rat) : Int :=
  let e : Int := (Nat.log2 v.num.natAbs : Int) - Nat.log2 v.den
  if v < pow2 e then e - 1 else e

/-- Nearest integer to a non-negative rational, ties to even (R231). -/
def roundQ (v : Rat) : Nat :=
  let q := v.num.natAbs / v.den
  let r := v - q
  if r < 1 / 2 then q else if (1 / 2 : Rat) < r then q + 1 else if q % 2 = 0 then q else q + 1

/-- Magnitude pattern of a non-negative rational, rounded; it may exceed `top`. -/
def FSpec.mag (f : FSpec) (v : Rat) : Nat :=
  if v = 0 then 0
  else
    let emin : Int := 1 - (f.bias : Int)
    let e := max (log2q v) emin
    (e - emin).toNat * 2 ^ f.mb + roundQ (v / pow2 (e - f.mb))

def FSpec.signed (f : FSpec) (neg : Bool) (a : Nat) : Nat := a + b2n neg * 2 ^ (f.eb + f.mb)

/-- Rounding to a format that overflows to infinity (FP32, and BF16 and FP16 outside quantisation). -/
def FSpec.enc (f : FSpec) (v : FV) : Nat :=
  match v with
  | .nan => f.nan.getD 0
  | .inf s => f.signed s (f.top + 1)
  | .fin s x => f.signed s (min (f.mag x) (f.top + 1))

/-- Rounding that saturates (R232): pattern, and whether it saturated. -/
def FSpec.encSat (f : FSpec) (s : Bool) (x : Rat) : Nat × Bool :=
  let a := f.mag x
  (f.signed s (min a f.top), decide (f.top < a))

/-! ### Integer formats -/

/-- Width of an integer format, and whether it is signed. -/
def intSpec (code : Nat) : Nat × Bool :=
  match code with
  | 11 => (8, true)
  | 12 => (8, false)
  | 13 => (16, true)
  | _ => (4, true)

def ratFV (v : Rat) : FV := .fin (decide (v < 0)) |v|

/-- Two's complement or unsigned value of a pattern. -/
def intVal (bits : Nat) (signed : Bool) (p : Nat) : Int :=
  if signed && p.testBit (bits - 1) then (p : Int) - 2 ^ bits else p

/-- The value of an element of any format. -/
def decElem (code p : Nat) : FV :=
  match fspec? code with
  | some f => f.dec p
  | none => let (b, s) := intSpec code; ratFV (intVal b s p)

-- DEDUCED, safe, log entry 73.
/-- Saturating conversion to a stored format (R232, R233). -/
def encSat (code : Nat) (s : Bool) (x : Rat) : Nat × Bool :=
  match fspec? code with
  | some f => f.encSat s x
  | none =>
    let (b, _) := intSpec code
    let top := 2 ^ (b - 1) - 1
    let n := roundQ x
    let m := min n top
    (if s && m != 0 then 2 ^ b - m else m, decide (top < n))

/-! ### FP32 arithmetic, rounded to nearest even (R231, R257) -/

def dec32 (x : F32) : FV := specF32.dec x.toNat
def enc32 (v : FV) : F32 := BitVec.ofNat 32 (specF32.enc v)

/-- Signed value of a finite one. -/
def FV.val : FV → Rat
  | .fin s x => if s then -x else x
  | _ => 0

def FV.isFin : FV → Bool
  | .fin _ _ => true
  | _ => false

def FV.neg? : FV → Bool
  | .fin s _ => s
  | .inf s => s
  | .nan => false

def FV.negate : FV → FV
  | .nan => .nan
  | .inf s => .inf (!s)
  | .fin s x => .fin (!s) x

def fmulV (a b : FV) : FV :=
  match a, b with
  | .fin s x, .fin t y => .fin (s != t) (x * y)
  | .inf s, .fin t y => if y = 0 then .nan else .inf (s != t)
  | .fin s x, .inf t => if x = 0 then .nan else .inf (s != t)
  | .inf s, .inf t => .inf (s != t)
  | _, _ => .nan

def faddV (a b : FV) : FV :=
  match a, b with
  | .fin s x, .fin t y =>
    let v := FV.val (.fin s x) + FV.val (.fin t y)
    if v = 0 then .fin (s && t) 0 else ratFV v
  | .inf s, .inf t => if s = t then .inf s else .nan
  | .inf s, .fin _ _ => .inf s
  | .fin _ _, .inf t => .inf t
  | _, _ => .nan

def fdivV (a b : FV) : FV :=
  match a, b with
  | .fin s x, .fin t y => if y = 0 then (if x = 0 then .nan else .inf (s != t)) else .fin (s != t) (x / y)
  | .inf s, .fin t _ => .inf (s != t)
  | .fin s _, .inf t => .fin (s != t) 0
  | _, _ => .nan

def fmul (a b : F32) : F32 := enc32 (fmulV (dec32 a) (dec32 b))
def fadd (a b : F32) : F32 := enc32 (faddV (dec32 a) (dec32 b))
def fsub (a b : F32) : F32 := enc32 (faddV (dec32 a) (dec32 b).negate)
def fdiv (a b : F32) : F32 := enc32 (fdivV (dec32 a) (dec32 b))

def nan32 : F32 := 0x7FC00000
def ninf32 : F32 := 0xFF800000
def one32 : F32 := 0x3F800000
def isNan32 (x : F32) : Bool := dec32 x == .nan
def isFin32 (x : F32) : Bool := (dec32 x).isFin
def val32 (x : F32) : Rat := (dec32 x).val
def round32 (v : Rat) : F32 := enc32 (ratFV v)

/-! ### Packing (R235) -/

/-- Bytes of a block of 32 elements. -/
def blkBytes (code : Nat) : Nat := 4 * fmtBits code

/-- Element i of a block given as a little-endian number. -/
def blkGet (code blk i : Nat) : Nat := blk / 2 ^ (fmtBits code * i) % 2 ^ fmtBits code

def blkSet (code blk i p : Nat) : Nat :=
  let b := fmtBits code
  blk - blkGet code blk i * 2 ^ (b * i) + p % 2 ^ b * 2 ^ (b * i)

/-- Elements packed as R235 packs them, n of them from byte o. -/
def unpack (code : Nat) (bs : List Byte) (o n : Nat) : List Nat :=
  let b := fmtBits code
  (nats n).map (fun i => le bs (o + b * i / 8) (b / 8 + 2) / 2 ^ (b * i % 8) % 2 ^ b)

/-! ### Block scales (R236 to R240) -/

/-- A stored element under scale byte e (R236). -/
def scaled (e : Nat) (v : FV) : FV :=
  if e = 0xFF then .nan else match v with
  | .fin s x => .fin s (x * pow2 ((e : Int) - 127))
  | v => v

def isMx (code : Nat) : Bool := decide (5 ≤ code ∧ code ≤ 7)
def emaxOf (code : Nat) : Int := if code = 5 then 8 else 2

/-- The format has a NaN in which a non-finite element is stored (R704). -/
def hasNan (code : Nat) : Bool := code == 0 || code == 1 || code == 8 || code == 9

/-- An element on its way into storage (R246): FP32, whether it was not finite after step 1, whether it saturated on the way. -/
structure AElem where
  nonfin : Bool
  v : F32
  sat : Bool
  deriving DecidableEq, Repr

/-- Step 1 of R246. -/
def aElem (code p : Nat) : AElem :=
  let v := decElem code p
  { nonfin := !v.isFin, v := if code = 10 then BitVec.ofNat 32 p else
      match v with
      | .nan => BitVec.ofNat 32 (0x7FC00000 + b2n (p.testBit (fmtBits code - 1)) * 2 ^ 31)
      | v => enc32 v, sat := false }

-- DESIGN CHOICE, safe, log entry 74.
/-- A result of step 2 or 3: an infinity there takes the largest finite magnitude and is counted (R703). A NaN that a non-finite
partner makes of a finite element is a value the spec leaves open: free value k. -/
def aStep (k : Nat) (a : AElem) (r : F32) : AElem :=
  if a.nonfin then a
  else match dec32 r with
    | .inf s => { a with v := BitVec.ofNat 32 (specF32.signed s specF32.top), sat := true }
    | .nan => let w := Config.freeValue k; { nonfin := !isFin32 w, v := w, sat := a.sat }
    | _ => { a with v := r }

/-- A value that the spec fixes up to bounds: the free one if it lies within them, else the rounding of their mean. -/
def inBound (c : F32) (lo hi : Rat) : F32 := if isFin32 c && decide (lo ≤ val32 c ∧ val32 c ≤ hi) then c else round32 ((lo + hi) / 2)

/-- π to 60 digits. -/
def piQ : Rat := 314159265358979323846264338327950288419716939937510582097494 / 10 ^ 59

/-- An angle less the nearest multiple of 2π, to 2^−40. -/
def reduceAngle (x : Rat) : Rat := ((x - 2 * piQ * (x / (2 * piQ) + 1 / 2).floor) * 2 ^ 40).floor / 2 ^ 40

/-- Alternating series 1 − x² / ((n + 1)(n + 2)) (1 − …), of which cos x is the one from 0 on and sin x is x times the one from 1 on. -/
def trigSeries (x : Rat) : Nat → Nat → Rat
  | 0, _ => 1
  | f + 1, n => 1 - x * x / (((n + 1) * (n + 2) : Nat) : Rat) * trigSeries x f (n + 2)

/-- The error of R247 in the function, with the enclosure's own, and in the angle where it is reduced at all. -/
def rotErr (phi : Rat) : Rat := (if |phi| ≤ piQ then 0 else pow2 (-24)) + pow2 (-22) + pow2 (-38)

/-- cos and sin of the rotary angle p θ: FP32 values within the errors of R247 of a reduced angle and of each function, and 2^−38 for the
enclosure itself. An angle that is no number gives the opaque value. -/
def rotCos (p : Nat) (th : F32) : F32 :=
  let x := trigSeries (reduceAngle (p * val32 th)) 13 0
  if isFin32 th then inBound (Config.cosRot p th) (x - rotErr (p * val32 th)) (x + rotErr (p * val32 th)) else Config.cosRot p th

def rotSin (p : Nat) (th : F32) : F32 :=
  let a := reduceAngle (p * val32 th)
  let x := a * trigSeries a 13 1
  if isFin32 th then inBound (Config.sinRot p th) (x - rotErr (p * val32 th)) (x + rotErr (p * val32 th)) else Config.sinRot p th

/-- Steps 2 and 3 of R246 on a key vector: the rotation of the first RDIM channels at position p, then the division by KQS. -/
def rotateKey (fmt : List W64) (tab : List F32) (p k : Nat) (v : List AElem) : List AElem :=
  let rd := fmtRdim fmt
  let half := rd / 2
  let z : AElem := { nonfin := false, v := 0, sat := false }
  v.zipIdx.map (fun e =>
    let c := e.2
    if rd ≤ c then e.1
    else
      let second := if fmtRotmode fmt then decide (half ≤ c) else c % 2 == 1
      let i := if fmtRotmode fmt then c % half else c / 2
      let ca := if fmtRotmode fmt then i else 2 * i
      let cb := if fmtRotmode fmt then i + half else 2 * i + 1
      let xa := (v.getD ca z).v
      let xb := (v.getD cb z).v
      let th := tab.getD i 0
      let co := rotCos p th
      let si := rotSin p th
      aStep (k + c) e.1 (if second then fadd (fmul xa si) (fmul xb co) else fsub (fmul xa co) (fmul xb si)))

def divideAll (k : Nat) (q : F32) (v : List AElem) : List AElem :=
  v.zipIdx.map (fun e => aStep (k + e.2) e.1 (fdiv e.1.v q))

/-- The largest magnitude among the finite elements (R238, R239, R705). -/
def amax (l : List AElem) : Rat := l.foldl (fun m a => if a.nonfin then m else max m |val32 a.v|) 0

/-- The scale byte of a value block appended whole (R237, R238). -/
def valueScale (code : Nat) (l : List AElem) : Nat :=
  if !isMx code then 0x7F
  else
    let m := amax l
    if m = 0 then 0 else (max (-127) (min 127 (log2q m - emaxOf code)) + 127).toNat

/-- The scale of a key block without one (R239): 0x00 while every element written is zero. -/
def keyScaleNew (code khead : Nat) (l : List AElem) : Nat :=
  if !isMx code then 0x7F
  else
    let m := amax l
    if m = 0 then 0 else (max (-126) (min 127 (log2q m - emaxOf code + khead)) + 127).toNat

/-- An element of a block quantised at a scale byte (R246 step 6, R704): pattern, saturated, non-finite. -/
def quant (code e : Nat) (a : AElem) : Nat × Bool × Bool :=
  if a.nonfin then
    (match fspec? code with
     | some f => if hasNan code then f.signed (a.v.getLsbD 31) (f.nan.getD 0) else 0
     | none => 0, false, true)
  else
    let r := encSat code (a.v.getLsbD 31) (|val32 a.v| / pow2 ((e : Int) - 127))
    (r.1, r.2 || a.sat, false)

/-- An outlier element in BF16 (R246 step 4). -/
def quantOutlier (a : AElem) : Nat × Bool × Bool :=
  if a.nonfin then (specBf16.signed (a.v.getLsbD 31) 0x7FC0, false, true)
  else let r := specBf16.encSat (a.v.getLsbD 31) |val32 a.v|; (r.1, r.2 || a.sat, false)

-- DEDUCED, unsafe, log entry 160.
/-- A key block after an APPEND of elements (slot within the block, element): new block, new scale byte (R237, R239, R240, R704, R705). -/
def keyBlock (code khead blk e : Nat) (l : List (Nat × AElem)) : Nat × Nat :=
  let els := l.map (·.2)
  let qe := if isMx code then (if e = 0 ∨ e = 0xFF then keyScaleNew code khead els else e) else 0x7F
  let poison := !hasNan code && els.any (·.nonfin)
  let e' := if e = 0xFF ∨ poison then 0xFF else if isMx code then qe else 0x7F
  (l.foldl (fun b x => blkSet code b x.1 (quant code qe x.2).1) blk, e')

/-- A value block written whole (R237, R238, R704, R705). A scale byte 0xFF of a block appended again is taken anew. -/
def valueBlock (code : Nat) (l : List AElem) : Nat × Nat :=
  let qe := valueScale code l
  let poison := !hasNan code && l.any (·.nonfin)
  (l.zipIdx.foldl (fun b x => blkSet code b x.2 (quant code qe x.1).1) 0, if poison then 0xFF else qe)

/-! ### Enclosures of the exponential (R117) -/

/-- Taylor sum of exp at x with n terms from term k on. -/
def taylor (x : Rat) : Nat → Nat → Rat
  | 0, _ => 0
  | n + 1, k => 1 + x / (k + 1 : Nat) * taylor x n (k + 1)

/-- Bounds of exp x for x ≤ 0: the alternating series at x / 256, raised to the 256th power; below −200 the value is between 0
and 2^−280. -/
def expLo (x : Rat) : Rat := if x < -200 then 0 else taylor (x / 256) 16 0 ^ 256
def expHi (x : Rat) : Rat := if x < -200 then pow2 (-280) else taylor (x / 256) 17 0 ^ 256

-- DESIGN CHOICE, safe, log entry 75.
/-- Value k within [lo, hi], else the rounding of the mean: a result that the spec fixes up to a bound. -/
def within (k : Nat) (lo hi : Rat) : F32 := inBound (Config.freeValue k) lo hi

/-- Bisection for ln l on [a, b] with a < b. -/
def lnGo (l : Rat) : Nat → Rat → Rat → Rat
  | 0, a, b => (a + b) / 2
  | n + 1, a, b =>
    let c := (a + b) / 2
    if l * expHi (-c) < 1 then lnGo l n a c else lnGo l n c b

/-- ln l for 1 ≤ l < 2^128. -/
def lnQ (l : Rat) : Rat := if l ≤ 1 then 0 else lnGo l 50 0 100

end Sys2Proof.Machine
end

