-- ==== Sys2Proof/Machine/Pages.lean ====
section
/-! DEFINITION. Pages: the codeword code (R312, R313), page bytes in DRAM, the walk (R48 to R54, R82), the pool and placement
(R80, R318, R700), table space, references to shared pages, poisoning and freeing (R83, R357, R366). -/

namespace Sys2Proof.Machine

/-! ### The codeword code (R312, R313) -/

/-- Product in GF(2^8) by the polynomial x^8 + x^4 + x^3 + x^2 + 1. -/
def gfMulGo : Nat → Nat → Nat → Nat → Nat
  | 0, _, _, acc => acc
  | n + 1, a, b, acc =>
    let a' := if a < 128 then 2 * a else (2 * a) ^^^ 0x11D
    gfMulGo n a' (b / 2) (if b % 2 = 1 then acc ^^^ a else acc)
def gfMul (a b : Nat) : Nat := gfMulGo 8 a b 0

def gfPow (a : Nat) : Nat → Nat
  | 0 => 1
  | n + 1 => gfMul a (gfPow a n)

/-- Check bytes c32 to c35 of 32 data bytes: division by x^4 + 15 x^3 + 54 x^2 + 120 x + 64, the product of R312. -/
def ecc (bs : List Byte) : List Byte :=
  let r := bs.foldl (fun (r : Nat × Nat × Nat × Nat) b =>
    let fb := b.toNat ^^^ r.1
    (r.2.1 ^^^ gfMul fb 15, r.2.2.1 ^^^ gfMul fb 54, r.2.2.2 ^^^ gfMul fb 120, gfMul fb 64)) (0, 0, 0, 0)
  [r.1, r.2.1, r.2.2.1, r.2.2.2].map (BitVec.ofNat 8)

/-- Syndrome S_j of a codeword of 36 bytes. -/
def syndrome (c : List Byte) (j : Nat) : Nat := c.foldl (fun acc b => gfMul acc (gfPow 2 j) ^^^ b.toNat) 0

/-- What a decoder makes of a codeword (R313). -/
inductive CwState where
  | clean | corrected | bad
  deriving DecidableEq, Repr

/-- The decoder of R313: the data bytes delivered, and how. -/
def cwDecode (c : List Byte) : List Byte × CwState :=
  let s := (nats 4).map (syndrome c)
  let e := s.getD 0 0
  if s.all (· == 0) then (c.take 32, .clean)
  else match (nats 36).find? (fun i => (nats 4).all (fun j => s.getD j 0 == gfMul e (gfPow (gfPow 2 j) (35 - i)))) with
    | some i =>
      if e ≠ 0 ∧ (e < 16 ∨ e % 16 = 0) then ((c.modify i (· ^^^ BitVec.ofNat 8 e)).take 32, .corrected) else (c.take 32, .bad)
    | none => (c.take 32, .bad)

/-- The codeword at an aligned physical address: check byte i of it lies at address / 8 + i of the check memory. -/
def cwAt (m : Mem) (a : Nat) : List Byte × CwState :=
  if (m.dram.any (fun c => a ≤ c.1 && c.1 < a + 32)) || (m.chk.any (fun c => a / 8 ≤ c.1 && c.1 < a / 8 + 4))
  then cwDecode (rdBytes m.dram a 32 ++ rdBytes m.chk (a / 8) 4)
  else (zeros 32, .clean)

def cwWrite (m : Mem) (a : Nat) (bs : List Byte) : Mem :=
  { m with dram := wrBytes m.dram a bs, chk := wrBytes m.chk (a / 8) (ecc bs) }

/-! ### Page bytes -/

def frameIx (f : Nat) : Nat := frUnit f * 2560 + frSlot f
/-- Physical address of a frame; its side block follows its 64 KiB (R40, R41). -/
def pageAddr (f : Nat) : Nat := frameIx f * 69632

/-- Read n bytes at offset off of a frame; offsets from 65,536 on lie in the side block. -/
def rdPage (m : Mem) (f off n : Nat) : PRead :=
  let base := pageAddr f
  let lo := off / 32
  let hi := (off + n + 31) / 32
  let r := (nats (hi - lo)).foldl (fun (acc : PRead) i =>
    let a := base + 32 * (lo + i)
    let (bs, st) := cwAt m a
    { bytes := acc.bytes ++ (if st = .bad then zeros 32 else bs),
      corr := if st = .corrected then acc.corr ++ [a] else acc.corr,
      bad := if st = .bad then acc.bad ++ [a] else acc.bad }) { bytes := [], corr := [], bad := [] }
  { r with bytes := slice r.bytes (off - 32 * lo) n }

/-- Write bytes at an offset of a frame: a codeword written in part is read first, and left unwritten when it is uncorrectable
(R136, R144, R316). Answers the addresses left unwritten. -/
def wrPage (m : Mem) (f off : Nat) (bs : List Byte) : Mem × List Nat :=
  let base := pageAddr f
  let n := bs.length
  let lo := off / 32
  let hi := (off + n + 31) / 32
  (nats (hi - lo)).foldl (fun (acc : Mem × List Nat) i =>
    let o := 32 * (lo + i)
    let whole := decide (off ≤ o ∧ o + 32 ≤ off + n)
    let (old, st) := if whole then (zeros 32, CwState.clean) else cwAt acc.1 (base + o)
    if st = .bad then (acc.1, acc.2 ++ [base + o])
    else (cwWrite acc.1 (base + o) ((nats 32).map (fun k =>
      if off ≤ o + k ∧ o + k < off + n then bs.getD (o + k - off) 0 else old.getD k 0)), acc.2))
    ({ m with decoded := modify m.decoded (frameIx f) (fun d => { d with
      written := d.written ++ ((nats (hi - lo)).map (lo + ·)).filter (fun i => decide (i < 2048) && !d.written.contains i) }) }, [])

/-- Zero-fill a frame and its side block. -/
def zeroFrame (m : Mem) (ix : Nat) : Mem :=
  { m with dram := clrBytes m.dram (ix * 69632) ((ix + 1) * 69632), chk := clrBytes m.chk (ix * 8704) ((ix + 1) * 8704), decoded := rem m.decoded ix }

def chanOfAddr (a : Nat) : Nat := a / 69632 / 2560 / 9

/-- Count corrections and uncorrectable codewords of a read (R142, R314, R315); corrected ones wait for their write-back. -/
def noteRead (r : PRead) (s : State) : State :=
  let s := r.corr.foldl (fun s a => bump (ctrChan (chanOfAddr a) 0) s) s
  let s := { s with att := { s.att with writeback := s.att.writeback ++ r.corr.filter (fun a => !s.att.writeback.contains a) } }
  r.bad.foldl (fun s a => bump (ctrChan (chanOfAddr a) 1) s) s

/-- Codewords written since their read are not written back. -/
def dropWriteback (lo hi : Nat) (s : State) : State :=
  { s with att := { s.att with writeback := s.att.writeback.filter (fun a => a < lo || hi ≤ a) } }

/-! ### Samples of Lull that a change voids (R223, R226) -/

def sampleDone (die : Nat) (x : Sample) (ctr off : Nat) (s : State) : State :=
  let s := updZph die (fun z => { z with
    samples := z.samples.filter (fun y => y.key != x.key), active := if z.active = some x.key then none else z.active }) s
  bump (ctrDie die ctr) (bump (ctrTd x.td off) s)

/-- LULL_SOFT (R223): 1 transient mismatch, 2 unconfirmed. -/
def lullSoft (die : Nat) (x : Sample) (info : Nat) (s : State) : State :=
  let s := updZph die (fun z => { z with
    samples := z.samples.filter (fun y => y.key != x.key), active := if z.active = some x.key then none else z.active }) s
  let (k, l) := match x.cluster with | some c => (4, c) | none => (3, x.unit)
  report { err0 0 0x0006 info with
    td := some x.td, sva := svaOf x.td x.req.seqn (pageIx x.req.layer x.page.head x.page.tpage), lkind := k, loc := l, tag := x.tag } s

/-- The page of a sample was written, or its leaf entry changed. -/
def voidSample (die : Nat) (x : Sample) (s : State) : State :=
  if x.state = .retrying then lullSoft die x 2 s else sampleDone die x 3 0x16C s

def samplesOf (s : State) (die : Nat) : List Sample := (zph s die).samples

def voidIf (p : Sample → Bool) (s : State) : State :=
  [0, 1].foldl (fun s d => ((samplesOf s d).filter p).foldl (fun s x => voidSample d x s) s) s

/-- Samples that a release, a truncation or a revocation closes as voided, whatever their state (R226). -/
def closeIf (p : Sample → Bool) (s : State) : State :=
  [0, 1].foldl (fun s d => ((samplesOf s d).filter p).foldl (fun s x => sampleDone d x 3 0x16C s) s) s

def sampleOn (td seqn pix : Nat) (x : Sample) : Bool :=
  x.td == td && x.req.seqn == seqn && pageIx x.req.layer x.page.head x.page.tpage == pix

def voidPage (td seqn pix : Nat) (s : State) : State :=
  voidIf (sampleOn td seqn pix) s

/-! ### The walk (R48 to R54, R82, R354) -/

def lhOf (pix : Nat) : Nat := pix / 0x400

/-- A page record by its index (R351, R352). -/
def groupAt (s : State) (td ix : Nat) : Option Group :=
  s.pfx.groups.find? (fun g => g.td == td && decide (g.sidx + 2 ≤ ix ∧ ix < g.sidx + 2 + (g.nlayer + 1) * (g.nhead + 1)))

def record? (s : State) (td ix : Nat) : Option PRec := (groupAt s td ix).bind (fun g => look g.recs ix)

/-- The leaf entry of a page, by way of levels 1 and 2, its run expanded (R51, R52). -/
def leafOf (d : SeqD) (pix : Nat) : Option Leaf :=
  match (look d.l1 (pixLayer pix)).bind (fun _ => look d.l2 (lhOf pix)) with
  | none => none
  | some e =>
    if 64 * (e.len + 1) ≤ pixT pix then none
    else match e.run with
      | some (f, g, c) => some { tier := .flash, tdc := d.td, gen := g, heat := 0, cmp := c, shr := false, psn := false, frame := f + pixT pix }
      | none => look d.leaves pix

/-- The page has a position in the held range (R82). -/
def heldPage (t : Nat) (d : SeqD) (pix : Nat) : Bool := decide (d.base < (pixT pix + 1) * t ∧ pixT pix * t < d.hend)

/-- What a walk answers. `page` gives the leaf entry and the entry in force, which a shared page's record supplies. -/
inductive WalkR where
  | unmapped
  | absent
  | zero
  | page (leaf eff : Leaf)
  | tcheck (tdc : Nat)
  deriving DecidableEq, Repr

/-- The channel is the domain's, is being released from it (R480), or was its when it was fenced in service (R53). -/
def ownedChan (s : State) (td c : Nat) : Bool := (domChans s td).contains c || (ch s c).releasing == some td || (ch s c).fencedOwner == some td

def tokT (s : State) (td : Nat) : Nat := geomT (dom s td).geom

def walk (s : State) (d : SeqD) (pix : Nat) : WalkR :=
  match leafOf d pix with
  | none => if heldPage (tokT s d.td) d pix then .absent else .unmapped
  | some l =>
    if l.tdc ≠ d.td then .tcheck l.tdc
    else match l.tier with
      | .absent => if heldPage (tokT s d.td) d pix then .absent else .unmapped
      | .zero => .zero
      | .shared => match record? s d.td l.frame with
        | none => .page l { l with psn := true, tier := .flash }
        | some r =>
          let e := { r.leaf with gen := l.gen, shr := true, psn := r.bad || l.psn }
          if r.leaf.tdc ≠ d.td then .tcheck r.leaf.tdc
          else if r.leaf.tier = .dram ∧ !ownedChan s d.td (frChan e.frame) then .tcheck r.leaf.tdc
          else .page l e
      | .dram => if ownedChan s d.td (frChan l.frame) then .page l l else .tcheck l.tdc
      | .flash => .page l l

/-- A failed tenant check (R54, R618). -/
def tcheckError (d : SeqD) (pix tdc tag : Nat) (s : State) : State :=
  report { err0 4 0x0040 tdc with td := some d.td, sva := svaOf d.td d.seqn pix, tag := tag } s

/-! ### Tables: leaf entries and their space (R48, R51, R57, R349, R351) -/

/-- An entry that points to a table in DRAM (R48, R49): slot 0 is the level-1 table, 1 + layer a level-2 table, 0x200 + the layer and head
a leaf. -/
def tabEntry (td seqn tchan slot len : Nat) : TabE :=
  { tier := .dram, tdc := td, gen := 0, len := len, cmp := 0, psn := false, frame := Config.tableFrame (td * 2 ^ 18 + seqn) tchan slot % 2 ^ 30 }

/-- The entry of a LOST sequence's ROOT: no bit is set (R627). -/
def TabE.zero : TabE := { tier := .dram, tdc := 0, gen := 0, len := 0, cmp := 0, psn := false, frame := 0 }

/-- ROOT of a sequence (R56), and its entry for a leaf in DRAM. -/
def rootEntry (td seqn tchan : Nat) : TabE := tabEntry td seqn tchan 0 0
def leafTable (d : SeqD) (lh len : Nat) : TabE := tabEntry d.td d.seqn d.tchan (0x200 + lh) len

/-- Write a level-2 entry, its level-1 entry in place. -/
def setL2 (lh : Nat) (e : TabE) (d : SeqD) : SeqD :=
  { d with l1 := if (look d.l1 (lh / 64)).isSome then d.l1 else put d.l1 (lh / 64) (tabEntry d.td d.seqn d.tchan (1 + lh / 64) 0), l2 := put d.l2 lh e }

/-- The tables of a sequence in another table area (R699). -/
def renumber (tchan : Nat) (d : SeqD) : SeqD :=
  { d with
    tchan := tchan
    root := rootEntry d.td d.seqn tchan
    l1 := d.l1.map (fun e => (e.1, tabEntry d.td d.seqn tchan (1 + e.1) 0))
    l2 := d.l2.map (fun e => (e.1, if e.2.tier = .flash then e.2 else tabEntry d.td d.seqn tchan (0x200 + e.1) e.2.len)) }

/-- Expansion of a collapsed run (R52). -/
def expandRun (lh : Nat) (d : SeqD) : SeqD :=
  match look d.l2 lh with
  | none => d
  | some e => match e.run with
    | none => d
    | some (f, g, c) =>
      let d := setL2 lh (leafTable d lh e.len) d
      { d with leaves := (nats (64 * (e.len + 1))).foldl (fun t i => put t (lh * 0x400 + i)
        { tier := .flash, tdc := d.td, gen := g, heat := 0, cmp := c, shr := false, psn := false, frame := f + i }) d.leaves }

/-- Length code that reaches a token page. -/
def lenFor (t : Nat) : Nat := t / 64

/-- Write a leaf entry, its tables in place. -/
def putLeaf (pix : Nat) (l : Leaf) (d : SeqD) : SeqD :=
  let lh := lhOf pix
  let d := expandRun lh d
  let d := match look d.l2 lh with
    | some e => if e.len < lenFor (pixT pix) then setL2 lh { e with len := lenFor (pixT pix) } d else d
    | none => setL2 lh (leafTable d lh (lenFor (pixT pix))) d
  { d with leaves := put d.leaves pix l }

/-- Space in units of 512 B: a level-1 table 4, a level-2 table 1, a leaf LEN + 1, none for a collapsed run. -/
def seqUnits (d : SeqD) : Nat :=
  4 + d.l1.length + d.l2.foldl (fun n e => if e.2.run.isSome then n else n + e.2.len + 1) 0

def blockOf (key : Nat) : Nat := key / 64

/-- Descriptor blocks in use in a domain (R57). -/
def blocksOf (s : State) (td : Nat) : List Nat :=
  (((s.seqs.map (·.1)) ++ (s.freeDesc.map (·.1)) ++ s.unusable).filter (fun k => k / 0x40000 == td)).map blockOf |>.eraseDups

-- DEDUCED, unsafe, log entry 61.
/-- Bytes of the domain's table areas in use: tables, descriptor blocks, key history, directory copies, sharing directory. -/
def tableUsed (s : State) (td : Nat) : Nat :=
  (s.seqs.foldl (fun n d => if d.2.td = td then n + 512 * seqUnits d.2 else n) 0)
    + 4096 * (blocksOf s td).length + 128 * (s.keyHist.filter (fun h => h.1 / 4096 == td)).length
    + 32 * (lookD [] s.pfx.copies td).length
    + (s.pfx.groups.filter (fun g => g.td == td)).foldl (fun n g => n + 16 * (2 + (g.nlayer + 1) * (g.nhead + 1))) 0

def tableCap (s : State) (td : Nat) : Nat := 6 * 2 ^ 20 * ((domChans s td).filter (fun c => codeChan s c == .good)).length

def tableRoom (s : State) (td n : Nat) : Bool := decide (tableUsed s td + n ≤ tableCap s td)

/-- Bytes of tables that writing a leaf entry for this page would add (R82). -/
def growth (d : SeqD) (pix : Nat) : Nat :=
  match look d.l2 (lhOf pix) with
  | some e => if e.run.isSome then 512 * (max e.len (lenFor (pixT pix)) + 1) else 512 * (lenFor (pixT pix) - e.len)
  | none => 512 * (lenFor (pixT pix) + 1) + (if (look d.l1 (pixLayer pix)).isSome then 0 else 512)

/-- Table space can be had for every table that writing the page's leaf entry must create or lengthen (R82). -/
def spaceFor (s : State) (d : SeqD) (pix : Nat) : Bool := growth d pix == 0 || tableRoom s d.td (growth d pix)

/-- Bytes of tables that writing leaf entries for some pages would add (R57, R82). -/
def growthOf (d : SeqD) (ps : List Nat) : Nat :=
  let blank : Leaf := { tier := .absent, tdc := d.td, gen := 0, heat := 0, cmp := 0, shr := false, psn := false, frame := 0 }
  512 * (seqUnits (ps.foldl (fun d p => putLeaf p blank d) d) - seqUnits d)

/-! ### The pool (R265, R318, R700) -/

/-- The frame cannot be allocated: it holds a page, or is under test (R218). -/
def FrameUse.inUse : FrameUse → Bool
  | .used | .testing _ => true
  | .dirty | .retired => false

/-- Frames of the domain's channels, and those that can be allocated. -/
def poolFrames (s : State) (td : Nat) : Nat := (domChans s td).foldl (fun n c => n + usableFrames s c) 0
def busyFrames (s : State) (td : Nat) : Nat :=
  let l := (domChans s td).filter (fun c => codeChan s c == .good)
  (s.mem.frames.filter (fun e => FrameUse.inUse e.2 && l.contains (e.1 / 2560 / 9))).length
def freeFrames (s : State) (td : Nat) : Nat := poolFrames s td - busyFrames s td

/-- A slot of a pair: pre-zeroed, else the lowest free one (R318). -/
def slotIn (s : State) (u : Nat) : Option Nat :=
  match (nats 2560).find? (fun k => (look s.mem.frames (u * 2560 + k)).isNone) with
  | some k => some k
  | none => (nats 2560).find? (fun k => look s.mem.frames (u * 2560 + k) == some .dirty)

/-- The placement procedure of R318: the frame, or none. -/
def place (s : State) (td seqn pix : Nat) (exclude : Option Nat) : Option Nat :=
  let l := placeChans s td
  let n := l.length
  let h := Config.placeHash (dom s td).place.key (svaOf td seqn pix) % 2 ^ 64
  let i := nbits h 63 32 * n / 2 ^ 32
  let b0 := h % 2 ^ 16 % 9
  let pairs := (nats n).flatMap (fun j =>
    let c := l.getD ((i + j) % n) 0
    if exclude = some c then [] else (nats 9).map (fun k => 9 * c + (b0 + k) % 9))
  let try_ := fun (us : List Nat) => us.findSome? (fun u => (slotIn s u).map (frameOf u))
  match try_ (pairs.filter (fun u => codeUnit s u == .good)) with
  | some f => some f
  | none => try_ pairs

/-- Take operations off the units' queues. -/
def dropOps (p : UnitOp → Bool) (s : State) : State :=
  { s with att := { s.att with units := (s.att.units.map (fun u => (u.1, u.2.filter (fun o => !p o)))).filter (fun u => u.2 != []) } }

-- DEDUCED, unsafe, log entry 81.
/-- Put an operation on a unit's queue (R18). -/
def enqueueUnit (u : Nat) (op : UnitOp) (s : State) : State :=
  { s with att := { s.att with units := put s.att.units u (lookD [] s.att.units u ++ [op]) } }

/-- Zero fills waiting for frames that they need not fill any more. -/
def dropZero (p : Nat → Bool) (s : State) : State := dropOps (fun o => match o with | .zero f => p f | _ => false) s

/-- A frame returns to the pool, and its zero fill waits on its unit (R700); none of a channel fenced in service (R53). -/
def giveFrame (f : Nat) (s : State) : State :=
  if codeChan s (frChan f) = .good then
    enqueueUnit (frUnit f) (.zero f) { s with mem := { s.mem with frames := put s.mem.frames (frameIx f) .dirty } }
  else s

/-- The frame is under test (R218). -/
def FrameUse.tested : FrameUse → Bool
  | .testing _ => true
  | _ => false

/-- The memory tests of a domain end where fewer than 64 of its frames are free (R218): those frames return to the pool. -/
def endTests (td : Nat) (s : State) : State :=
  let l := (s.mem.frames.filter (fun e => e.2.tested && (domChans s td).contains (e.1 / 2560 / 9))).map (·.1)
  if l != [] && decide (freeFrames s td < 64) then l.foldl (fun s ix => giveFrame (frameOf (ix / 2560) (ix % 2560)) s) s else s

/-- Take a frame: one whose zero fill waits on its unit is filled first (R80, R700). -/
def takeFrame (f : Nat) (s : State) : State :=
  let ix := frameIx f
  let s := if look s.mem.frames ix = some .dirty then
      let m := zeroFrame s.mem ix
      dropZero (· == f) { s with mem := { m with frames := put m.frames ix .used } }
    else { s with mem := { s.mem with frames := put s.mem.frames ix .used } }
  match s.cmp.exts.find? (fun e => e.2.chan.contains (frChan f)) with
  | some e => endTests e.2.td s
  | none => s

/-- Changes of leaf entry leave the machine, with the copies queued for them (R129). -/
def dropChgs (p : Chg → Bool) (s : State) : State :=
  let gone := (s.mem.chgs.filter p).map (·.id)
  dropOps (fun o => match o with | .copy i => gone.contains i | _ => false) { s with mem := { s.mem with chgs := s.mem.chgs.filter (fun c => !p c) } }

/-- Changes in progress are abandoned: the source stays, and the new frame returns (R83). -/
def abandon (p : Chg → Bool) (s : State) : State :=
  let hit := fun (c : Chg) => p c && !c.rewritten
  let gone := s.mem.chgs.filter hit
  dropChgs hit (gone.foldl (fun s c => if c.kind = .demote then s else giveFrame c.dst s) s)

-- DEDUCED, unsafe, log entry 91.
/-- Retire a frame from the pool (R315, R218): the floor plan's frame counts change (R601). -/
def retireFrame (ix : Nat) (s : State) : State :=
  let c := ix / 2560 / 9
  let s := dropZero (fun f => frameIx f == ix) s
  fenceCode (fun f => { f with retired := put f.retired c (lookD 0 f.retired c + 1) })
    { s with mem := { s.mem with frames := put s.mem.frames ix .retired } }

/-! ### Leaf entries in the state -/

/-- Every translation cache entry of a page, or of a shared record, is invalidated (R70, R71, R355). -/
def tcDrop (p : TcEntry → Bool) (s : State) : State := { s with att := { s.att with tc := s.att.tc.filter (fun e => !p e) } }

/-- Entries that a domain may have in a stack's translation cache (R67). -/
def tcCap (s : State) (td stack : Nat) : Nat := 256 * ((domChans s td).filter (fun c => c / 32 == stack)).length

/-- A domain whose channels changed keeps what fits its share of each stack's cache: the oldest entries go (R67). -/
def tcTrim (td : Nat) (s : State) : State :=
  let mine := fun (st : Nat) (x : TcEntry) => x.cluster.isNone && x.td == td && x.stack == st
  let kept := s.att.tc.foldr (fun x l => if mine x.stack x && decide (tcCap s td x.stack ≤ (l.filter (mine x.stack)).length) then l else x :: l) []
  { s with att := { s.att with tc := kept } }

/-- Walk-cache entries of a sequence that are no longer as its tables have them are invalidated (R66, R70). -/
def wcSync (td seqn : Nat) (s : State) : State :=
  let now := fun (x : WcEntry) => (seq? s td seqn).bind (fun d => if x.level = 1 then look d.l1 x.key else look d.l2 x.key)
  { s with att := { s.att with wc := s.att.wc.filter (fun x => x.td != td || x.seqn != seqn || now x == some x.entry) } }

def setLeafAt (td seqn pix : Nat) (l : Leaf) (s : State) : State :=
  wcSync td seqn <| tcDrop (fun e => e.td == td && e.seqn == seqn && e.page == pix) (updSeq td seqn (putLeaf pix l) s)

def updLeafAt (td seqn pix : Nat) (f : Leaf → Leaf) (s : State) : State :=
  match (seq? s td seqn).bind (fun d => leafOf d pix) with
  | some l => setLeafAt td seqn pix (f l) s
  | none => s

/-- The page's contents change: samples of it are voided, and it counts as changed for migration and export (R490, R498). -/
def touch (td seqn pix : Nat) (s : State) : State :=
  let add := fun (l : List Nat) => if l.contains pix then l else pix :: l
  updSeq td seqn (fun d => { d with chgMig := add d.chgMig, chgExp := add d.chgExp }) (voidPage td seqn pix s)

/-! ### The directory and shared records (R342, R349, R357, R366) -/

def bankOf (key : BitVec 128) : Nat := key.toNat % 16

/-- Change the entry of a key in the copy, then in its bank. -/
def updEntry (td : Nat) (key : BitVec 128) (f : DirE → DirE) (s : State) : State :=
  let g := fun (e : DirE) => if e.key = key then f e else e
  { s with pfx := { s.pfx with
    copies := modify s.pfx.copies td (·.map g)
    banks := modify s.pfx.banks (bankOf key) (·.map (fun x => (x.1, g x.2))) } }

def dropEntry (td : Nat) (key : BitVec 128) (s : State) : State :=
  { s with pfx := { s.pfx with
    copies := putD [] s.pfx.copies td ((lookD [] s.pfx.copies td).filter (fun e => e.key != key))
    banks := modify s.pfx.banks (bankOf key) (·.filter (fun x => x.2.key != key)) } }

def entryCopy? (s : State) (td : Nat) (key : BitVec 128) : Option DirE := (lookD [] s.pfx.copies td).find? (fun e => e.key == key)

/-- The directory entry of a group: one of its key that names its place in the sharing directory (R351, R366). -/
def groupEntry? (s : State) (g : Group) : Option DirE := (entryCopy? s g.td g.key).filter (fun e => e.sidx == g.sidx)

def updGroup (td sidx : Nat) (f : Group → Group) (s : State) : State :=
  { s with pfx := { s.pfx with groups := s.pfx.groups.map (fun g => if g.td = td ∧ g.sidx = sidx then f g else g) } }

/-- Lower an entry's REF; at zero the entry is removed and the group is freed in the background (R366). -/
def lowerRef (td : Nat) (g : Group) (n : Nat) (s : State) : State :=
  match groupEntry? s g with
  | some e =>
    if e.ref ≤ n ∧ e.st = .live then updGroup td g.sidx (fun g => { g with freeing := true }) (dropEntry td g.key s)
    else updEntry td g.key (fun e => { e with ref := e.ref - n }) s
  | none => if g.recs.all (fun r => r.2.ref == 0) then updGroup td g.sidx (fun g => { g with freeing := true }) s else s

/-- A leaf drops its reference to a page record. -/
def dropRecord (td ix : Nat) (s : State) : State :=
  match groupAt s td ix with
  | none => s
  | some g =>
    let s := updGroup td g.sidx (fun g => { g with recs := modify g.recs ix (fun r => { r with ref := r.ref - 1 }) }) s
    lowerRef td { g with recs := modify g.recs ix (fun r => { r with ref := r.ref - 1 }) } 1 s

def updRecord (td ix : Nat) (f : PRec → PRec) (s : State) : State :=
  match groupAt s td ix with
  | none => s
  | some g => updGroup td g.sidx (fun g => { g with recs := modify g.recs ix f })
      (tcDrop (fun e => e.td == td && e.record == some ix) s)

/-- Samples of a shared page, whose record changes, are voided (R223). -/
def voidRecord (td ix : Nat) (s : State) : State :=
  voidIf (fun x => x.td == td && (match (seq? s td x.req.seqn).bind (fun d => leafOf d (pageIx x.req.layer x.page.head x.page.tpage)) with
    | some l => l.tier == .shared && l.frame == ix
    | none => false)) s

-- DEDUCED, unsafe, log entry 175.
/-- A page record becomes poisoned: a move or tier change of it in progress is abandoned (R83), PSN is set in the group's entry, and its
retention ends (R357). -/
def poisonRecord (td ix : Nat) (s : State) : State :=
  match groupAt s td ix with
  | none => s
  | some g =>
    let s := abandon (fun c => c.td == td && c.record == some ix && c.kind != .cow) s
    let s := updRecord td ix (fun r => { r with bad := true }) (voidRecord td ix s)
    let rtn := match groupEntry? s g with | some e => e.rtn | none => false
    let s := if (groupEntry? s g).isSome then updEntry td g.key (fun e => { e with psn := true, rtn := false }) s else s
    if rtn then lowerRef td { g with recs := modify g.recs ix (fun r => { r with bad := true }) } 1 s else s

/-! ### Poison (R83, R315, R618) -/

/-- Abandon the change of a page's leaf entry in progress (R83). -/
def abandonChg (td seqn pix : Nat) (s : State) : State := abandon (fun c => c.td == td && c.seqn == seqn && c.page == pix) s

/-- Set PSN for a page, in its leaf entry or its page record. -/
def setPsn (td seqn pix : Nat) (s : State) : State :=
  let s := abandonChg td seqn pix s
  match (seq? s td seqn).bind (fun d => leafOf d pix) with
  | some l => if l.tier = .shared then poisonRecord td l.frame s else setLeafAt td seqn pix { l with psn := true } (voidPage td seqn pix s)
  | none => s

/-- An uncorrectable codeword of a page: PSN set, PAGE_POISON logged. -/
def poisonPage (td seqn pix lkind loc info tag : Nat) (s : State) : State :=
  report { err0 2 0x0020 info with td := some td, sva := svaOf td seqn pix, lkind := lkind, loc := loc, tag := tag } (setPsn td seqn pix s)

/-- The first uncorrectable codeword that an access to a page's frame met poisons the page. -/
def poisonFirst (td seqn pix f tag : Nat) (bad : List Nat) (s : State) : State :=
  match bad with
  | [] => s
  | a :: _ => poisonPage td seqn pix 1 f (a - pageAddr f) tag s

/-- After a read or write of a page's frame: counts, and poison at its first uncorrectable codeword. -/
def pageReadDone (td seqn pix f tag : Nat) (r : PRead) (s : State) : State := poisonFirst td seqn pix f tag r.bad (noteRead r s)

/-! ### Freeing (R83, R64, R277) -/

/-- Bytes of a stored page: stream and side block (R285, R286). -/
def storedSize (cmp : Nat) (side : Bool) : Nat := 65536 / 2 ^ cmp + b2n side * 4096

def FBlock.fresh : FBlock := { erases := 0, reads := 0, retired := false, erased := true, invalid := 0 }
def blkAt (t : FTarget) (b : Nat) : FBlock := lookD FBlock.fresh t.blk b
def updBlk (b : Nat) (f : FBlock → FBlock) (t : FTarget) : FTarget := { t with blk := putD FBlock.fresh t.blk b (f (blkAt t b)) }

def target? (s : State) (c t : Nat) : Option FTarget := look s.mem.targets (8 * c + t)
def updTarget (c t : Nat) (f : FTarget → FTarget) (s : State) : State :=
  { s with mem := { s.mem with targets := modify s.mem.targets (8 * c + t) f } }

/-- A logical page is dropped: its space in the block becomes invalid data (R302). -/
def freeFlash (lpn : Nat) (s : State) : State :=
  match look s.mem.pages lpn with
  | none => s
  | some p =>
    let s := updTarget p.chan p.tgt (updBlk p.block (fun k => { k with invalid := k.invalid + storedSize p.cmp p.side.isSome })) s
    { s with mem := { s.mem with pages := rem s.mem.pages lpn, direct := s.mem.direct.filter (· != lpn) } }

/-- Free a page: its frame, flash copy or reference, GEN + 1, poison cleared; → Absent. -/
def freePage (td seqn pix : Nat) (s : State) : State :=
  match (seq? s td seqn).bind (fun d => leafOf d pix) with
  | none => s
  | some l =>
    if l.tier = .absent then s
    else
      let s := match l.tier with
        | .dram => giveFrame l.frame s
        | .flash => freeFlash l.frame s
        | .shared => dropRecord td l.frame s
        | _ => s
      let s := closeIf (sampleOn td seqn pix) s
      setLeafAt td seqn pix { l with tier := .absent, gen := (l.gen + 1) % 2 ^ 16, heat := 0, cmp := 0, shr := false, psn := false, frame := 0 } s

/-! ### Geometry of a page (R42 to R45, R251) -/

def keyOff (g : W64) (j k : Nat) : Nat := (j * geomW g + k) * blkBytes (geomK g)
def valOff (g : W64) (t v : Nat) : Nat := 32768 + (t * (geomW g / 32) + v) * blkBytes (geomV g)
def keyScaleOff (g : W64) (j k : Nat) : Nat := 65536 + j * geomW g + k
def valScaleOff (g : W64) (t v : Nat) : Nat := 65536 + geomT g / 32 * geomW g + t * (geomW g / 32) + v
def outOff (g : W64) (n t : Nat) : Nat := 65536 + geomT g * geomW g / 16 + 2 * geomT g * n + 2 * t

/-- The byte of a page lies in a block of the key or the value region (R37, R45), or in the side block before the end of its last outlier
channel (R251). -/
def inBlocks (g : W64) (fmt : List W64) (off : Nat) : Bool :=
  decide (off < geomT g / 32 * geomW g * blkBytes (geomK g)) || decide (32768 ≤ off ∧ off < 32768 + geomT g * (geomW g / 32) * blkBytes (geomV g))
    || decide (65536 ≤ off ∧ off < outOff g (fmtNoc fmt) 0)

/-- Bytes for an offset of a page: those beyond the last block of a region, or beyond the last outlier channel, are never
written and stay zero (R45, R251). -/
def maskPage (g : W64) (fmt : List W64) (off : Nat) (bs : List Byte) : List Byte :=
  bs.zipIdx.map (fun b => if inBlocks g fmt (off + b.2) then b.1 else 0)

/-- The default side block (R285). -/
def defaultSide (g : W64) : List Byte := fit (List.replicate (geomT g * geomW g / 16) 0x7F#8) 4096

end Sys2Proof.Machine
end

