-- ==== Sys2Proof/Machine/Compute.lean ====
section
/-! DEFINITION. The arithmetic of attention (R92, R107 to R117, R130, R133, R143, R147, R254, R255): page partials, merges and finalisation. A result
that R117 fixes up to a bound is a free value within the bound. -/

namespace Sys2Proof.Machine

/-! ### Rows and masks (R90, R92) -/

/-- Candidate of row n of a head. -/
def candOf (r : Req) (n : Nat) : Nat := n % r.c
def rowsPerHead (r : Req) : Nat := r.g * r.c
/-- Query row n of the k-th selected head. -/
def queryRow (r : Req) (k n : Nat) : List F32 := r.rows.getD (k * rowsPerHead r + n) []

/-- Row of candidate c attends position p (R92). -/
def attends (r : Req) (c p : Nat) : Bool :=
  match r.mask with
  | 0 => true
  | 1 => decide (p ≤ r.qpos + c)
  | _ => decide (p < r.qpos) || (decide (r.qpos ≤ p ∧ p < r.qpos + r.c) && r.tree.testBit (8 * c + (p - r.qpos)))

/-- Positions of a token page that lie in the request's range. -/
def pagePositions (r : Req) (t tp : Nat) : List Nat :=
  let lo := max r.rstart (tp * t)
  let hi := min r.rend ((tp + 1) * t)
  (nats (hi - lo)).map (lo + ·)

/-- A row with no attended position (R112), and a non-finite row (R116). -/
def emptyRow (w : Nat) : RowP := { m := ninf32, l := 0, o := List.replicate w 0, xl := (0, 0), xo := List.replicate w (0, 0, 0) }
def nanRow (w : Nat) : RowP := { m := nan32, l := nan32, o := List.replicate w nan32, xl := (0, 0), xo := List.replicate w (0, 0, 0) }

/-! ### Page bytes that a computation reads (R131, R251) -/

/-- Token blocks in which some row attends a position of the range. -/
def liveBlocks (r : Req) (t tp : Nat) : List Nat :=
  (nats (t / 32)).filter (fun j => (pagePositions r t tp).any (fun p => decide ((p - tp * t) / 32 = j) && (nats (rowsPerHead r)).any (fun n => attends r (candOf r n) p)))

/-- Ranges of a page that the blocks' computation reads: offset and length. -/
def blockRanges (g : W64) (fmt : List W64) (j : Nat) : List (Nat × Nat) :=
  let w := geomW g
  [(keyOff g j 0, w * blkBytes (geomK g)), (valOff g (32 * j) 0, w * blkBytes (geomV g)), (keyScaleOff g j 0, w), (valScaleOff g (32 * j) 0, w)]
    ++ (nats (fmtNoc fmt)).map (fun n => (outOff g n (32 * j), 64))

/-- Codeword addresses of a frame that ranges of its bytes touch, in order. -/
def cwsOf (f : Nat) (rs : List (Nat × Nat)) : List Nat :=
  (rs.flatMap (fun e => (nats ((e.1 + e.2 + 31) / 32 - e.1 / 32)).map (fun i => pageAddr f + 32 * (e.1 / 32 + i)))).eraseDups

-- DEDUCED, unsafe, log entry 134.
/-- A bank unit's read of a page (R130, R131, R143): the codewords of the blocks that some row attends, block by block, up to the first
uncorrectable one, at which it stops. -/
def readFor (s : State) (r : Req) (tp f : Nat) : PRead :=
  let g := (dom s r.td).geom
  let x := rdPage s.mem f 0 69632
  let met := cwsOf f ((liveBlocks r (geomT g) tp).flatMap (blockRanges g (dom s r.td).fmt))
  let before := met.takeWhile (fun a => !x.bad.contains a)
  { x with corr := before.filter (x.corr.contains ·), bad := (met.find? (x.bad.contains ·)).toList }

/-- What a cluster fetch or a Zephyr fetch reads of a page (R181): the whole page, with the side-block codewords of its scales and outlier
channels. -/
def fetchRead (g : W64) (fmt : List W64) (f : Nat) (x : PRead) : PRead :=
  let met := cwsOf f ((0, 65536) :: (nats (geomT g / 32)).flatMap (fun j => (blockRanges g fmt j).drop 2))
  { x with corr := x.corr.filter (met.contains ·), bad := x.bad.filter (met.contains ·) }

/-! ### Scores and sums -/

/-- A key slot's element and scale (R42, R236). -/
def keyElem (g : W64) (img : List Byte) (t c : Nat) : FV :=
  let o := keyOff g (t / 32) c
  let e := byteAt img (keyScaleOff g (t / 32) c)
  scaled e (decElem (geomK g) (blkGet (geomK g) (le img o (blkBytes (geomK g))) (t % 32)))

/-- An outlier element of a slot (R251). -/
def outElem (g : W64) (img : List Byte) (n t : Nat) : FV := specBf16.dec (le img (outOff g n t) 2)

/-- A value element of a slot (R43, R236). -/
def valElem (g : W64) (img : List Byte) (t c : Nat) : FV :=
  let o := valOff g t (c / 32)
  let e := byteAt img (valScaleOff g t (c / 32))
  scaled e (decElem (geomV g) (blkGet (geomV g) (le img o (blkBytes (geomV g))) (c % 32)))

/-- Exact raw score of a query row against a slot, the sum of magnitudes, and whether an operand is not finite. -/
def rawScore (g : W64) (fmt : List W64) (img : List Byte) (q : List F32) (t : Nat) : Rat × Rat × Bool :=
  let terms := (nats (geomW g)).map (fun c => (dec32 (q.getD c 0), keyElem g img t c))
    ++ (nats (fmtNoc fmt)).map (fun n => (dec32 (q.getD (fmtOch fmt n) 0), outElem g img n t))
  (terms.foldl (fun a x => a + x.1.val * x.2.val) 0, terms.foldl (fun a x => a + |x.1.val| * |x.2.val|) 0, terms.any (fun x => !x.1.isFin || !x.2.isFin))

/-- Bounds of p × v from bounds of p. -/
def mulLo (lo hi v : Rat) : Rat := if 0 ≤ v then lo * v else hi * v
def mulHi (lo hi v : Rat) : Rat := if 0 ≤ v then hi * v else lo * v

/-- Query, SSCALE or QSCALE holds a non-finite element. -/
def badQuery (r : Req) (q : List F32) : Bool := q.any (fun x => !isFin32 x) || !isFin32 r.sscale || !isFin32 r.qscale

/-- What scoring a row against a page gives: no attended position, a non-finite row, or the attended positions with the exact raw score and
sum of magnitudes, the node's score and the value elements of each. -/
inductive Scored where
  | empty
  | nonfinite
  | scores (l : List (Rat × Rat × F32 × List FV))
  deriving DecidableEq, Repr

/-- Scores of one row over a page image, from free value k on (R117, R254). A raw score that FP32 cannot hold makes the row non-finite, though
its product with the scales could be held (R116, R252, R257). -/
def scoreRow (g : W64) (fmt : List W64) (r : Req) (img : List Byte) (q : List F32) (cand tp k : Nat) : Scored :=
  let t := geomT g
  let sc := val32 r.sscale * val32 r.qscale
  let ps := (pagePositions r t tp).filter (attends r cand)
  if ps = [] then .empty
  else if badQuery r q then .nonfinite
  else
    let raw := ps.map (fun p => rawScore g fmt img q (p - tp * t))
    let l := (ps.zip raw).zipIdx.map (fun x =>
      let e := |sc| * x.1.2.2.1 * pow2 (-18)
      (x.1.2.1, x.1.2.2.1, within (k + x.2) (sc * x.1.2.1 - e) (sc * x.1.2.1 + e), (nats (geomW g)).map (fun c => valElem g img (x.1.1 - tp * t) c)))
    if raw.any (fun x => x.2.2 || !isFin32 (round32 x.1)) || l.any (fun x => !isFin32 x.2.2.1 || x.2.2.2.any (fun v => !v.isFin)) then .nonfinite else .scores l

/-- The largest score. -/
def maxScore (l : List F32) : F32 := l.foldl (fun (a : F32) x => if val32 a < val32 x then x else a) (l.getD 0 0)

/-- 2^(−VBIAS), by which each value element counts (R255). -/
def vbiasOf (fmt : List W64) : Rat := let vb := fmtVbias fmt; pow2 (if vb < 128 then -(vb : Int) else 256 - (vb : Int))

/-- Value k within [lo, hi] and within the bound [blo, bhi], which goes before. -/
def withinBoth (k : Nat) (lo hi blo bhi : Rat) : F32 :=
  if max lo blo ≤ min hi bhi then within k (max lo blo) (min hi bhi) else within k blo bhi

/-- The bounds that R117 sets for l and for an element of o, from the row's exact sums. -/
def lBound (x : Rat × Rat) (e : Rat) : Rat × Rat := (x.2 * (1 - e), x.1 * (1 + e))
def oBound (x : Rat × Rat × Rat) (e : Rat) : Rat × Rat := (x.2.1 - e * x.2.2, x.1 + e * x.2.2)

/-- Partial of one row over a page image, from free value k on (R117, R254, R255). -/
def pageRow (g : W64) (fmt : List W64) (r : Req) (img : List Byte) (q : List F32) (cand tp k : Nat) : RowP :=
  let w := geomW g
  match scoreRow g fmt r img q cand tp k with
  | .empty => emptyRow w
  | .nonfinite => nanRow w
  | .scores l =>
    let m := maxScore (l.map (·.2.2.1))
    let d := l.map (fun x => val32 x.2.2.1 - val32 m)
    let lo := d.map expLo
    let hi := d.map expHi
    let bias := vbiasOf fmt
    let xl := (lo.sum, hi.sum)
    let xo := (nats w).map (fun c =>
      let tl := (lo.zip (hi.zip l)).map (fun y =>
        let v := (y.2.2.2.2.2.getD c .nan).val * bias
        (mulLo y.1 y.2.1 v, mulHi y.1 y.2.1 v, y.1 * |v|))
      ((tl.map (·.1)).sum, (tl.map (·.2.1)).sum, (tl.map (·.2.2)).sum))
    let x : RowP := {
      m := m
      l := within (k + 1024) (lBound xl (pow2 (-16))).1 (lBound xl (pow2 (-16))).2
      o := xo.zipIdx.map (fun e => within (k + 1025 + e.2) (oBound e.1 (pow2 (-16))).1 (oBound e.1 (pow2 (-16))).2)
      xl := xl
      xo := xo }
    if !isFin32 x.l || x.o.any (fun y => !isFin32 y) then nanRow w else x

/-- SMAG and VABS of a row over a page image (R201), by the same scores as `pageRow` from free value k on: SMAG exact, VABS within the bounds of
its exponentials. -/
def rowSums (g : W64) (fmt : List W64) (r : Req) (img : List Byte) (q : List F32) (cand tp k : Nat) : Rat × List Rat :=
  match scoreRow g fmt r img q cand tp k with
  | .scores l =>
    let m := maxScore (l.map (·.2.2.1))
    let p := l.map (fun x => (expLo (val32 x.2.2.1 - val32 m), expHi (val32 x.2.2.1 - val32 m)))
    (l.foldl (fun a x => max a x.2.1) 0, (nats (geomW g)).map (fun c =>
      let v := l.map (fun x => |(x.2.2.2.getD c .nan).val| * vbiasOf fmt)
      val32 (within (k + 2048 + c) ((p.zip v).foldl (fun a y => a + y.1.1 * y.2) 0) ((p.zip v).foldl (fun a y => a + y.1.2 * y.2) 0))))
  | _ => (0, List.replicate (geomW g) 0)

/-- Free values that a page computation may take. -/
def pageDraws (r : Req) : Nat := 4096 * rowsPerHead r

/-- Partial of an ordinary page (R130, R133). -/
def pagePart (s : State) (r : Req) (p : PageRef) (img : List Byte) : Part :=
  let g := (dom s r.td).geom
  let rows := (nats (rowsPerHead r)).map (fun n => pageRow g (dom s r.td).fmt r img (queryRow r p.k n) (candOf r n) p.tpage (s.free + 4096 * n))
  { head := p.k, tokens := (pagePositions r (geomT g) p.tpage).length, ptokens := 0, pfirst := 0xFFFFFFFF, poison := false,
    nonfinite := rows.any (fun x => isNan32 x.m), rows := rows }

/-- Partial of a page without frame (R147): m = 0, l the attended positions, o = 0. -/
def absentPart (s : State) (r : Req) (p : PageRef) : Part :=
  let g := (dom s r.td).geom
  let w := geomW g
  let ps := pagePositions r (geomT g) p.tpage
  let rows := (nats (rowsPerHead r)).map (fun n =>
    let k := (ps.filter (attends r (candOf r n))).length
    if k = 0 then emptyRow w
    else if badQuery r (queryRow r p.k n) then nanRow w
    else { m := 0, l := round32 k, o := List.replicate w 0, xl := (k, k), xo := List.replicate w (0, 0, 0) })
  { head := p.k, tokens := ps.length, ptokens := 0, pfirst := 0xFFFFFFFF, poison := false, nonfinite := rows.any (fun x => isNan32 x.m), rows := rows }

/-- Partial of a poisoned page (R114, R143): rows empty, its positions counted. -/
def poisonPart (s : State) (r : Req) (p : PageRef) : Part :=
  let g := (dom s r.td).geom
  let ps := pagePositions r (geomT g) p.tpage
  { head := p.k, tokens := ps.length, ptokens := ps.length, pfirst := ps.getD 0 0xFFFFFFFF, poison := true, nonfinite := false,
    rows := List.replicate (rowsPerHead r) (emptyRow (geomW g)) }

/-! ### Merging and finalisation (R107, R109) -/

/-- Sums of a row carried to a larger maximum, d below it: their bounds times exp d. -/
def carryL (d : Rat) (x : Rat × Rat) : Rat × Rat := (expLo d * x.1, expHi d * x.2)
def carryO (d : Rat) (x : Rat × Rat × Rat) : Rat × Rat × Rat := (mulLo (expLo d) (expHi d) x.1, mulHi (expLo d) (expHi d) x.2.1, expLo d * x.2.2)

/-- Merge of two rows (R107): the sums are free values within 2^−21 of the exact merge, and within R117's bounds for every merge order. -/
def mergeRow (w k : Nat) (a b : RowP) : RowP :=
  if isNan32 a.m || isNan32 b.m then nanRow w
  else if a.m = ninf32 ∧ b.m = ninf32 then emptyRow w
  else if a.m = ninf32 then b
  else if b.m = ninf32 then a
  else
    let m := if val32 a.m < val32 b.m then b.m else a.m
    let da := val32 a.m - val32 m
    let db := val32 b.m - val32 m
    let mix := fun (j : Nat) (bd : Rat × Rat) (x y : F32) =>
      let vx := val32 x
      let vy := val32 y
      let lo := mulLo (expLo da) (expHi da) vx + mulLo (expLo db) (expHi db) vy
      let hi := mulHi (expLo da) (expHi da) vx + mulHi (expLo db) (expHi db) vy
      let e := pow2 (-21) * min |lo| |hi|
      withinBoth j (hi - e) (lo + e) bd.1 bd.2
    let xl := ((carryL da a.xl).1 + (carryL db b.xl).1, (carryL da a.xl).2 + (carryL db b.xl).2)
    let xo := (a.xo.zip b.xo).map (fun x => let y := carryO da x.1; let z := carryO db x.2; (y.1 + z.1, y.2.1 + z.2.1, y.2.2 + z.2.2))
    let r : RowP := {
      m := m
      l := mix k (lBound xl (pow2 (-16))) a.l b.l
      o := (nats w).map (fun c => mix (k + 1 + c) (oBound (xo.getD c (0, 0, 0)) (pow2 (-16))) (a.o.getD c 0) (b.o.getD c 0))
      xl := xl
      xo := xo }
    if !isFin32 r.l || r.o.any (fun x => !isFin32 x) then nanRow w else r

/-- Records of one shape (R108). -/
def sameShape (a b : Part) : Bool := a.head == b.head && a.rows.length == b.rows.length

/-- Merge of two partials of a head (R107). -/
def mergePart (w k : Nat) (a b : Part) : Part :=
  let rows := (a.rows.zip b.rows).zipIdx.map (fun x => mergeRow w (k + 1024 * x.2) x.1.1 x.1.2)
  { head := a.head, tokens := a.tokens + b.tokens, ptokens := a.ptokens + b.ptokens, pfirst := min a.pfirst b.pfirst,
    poison := a.poison || b.poison, nonfinite := a.nonfinite || b.nonfinite || rows.any (fun x => isNan32 x.m), rows := rows }

/-- Two partials of one head whose shapes differ (R108): they never merge. -/
def mismatch (l : List Part) (p : Part) : Bool := l.any (fun q => q.head == p.head && !sameShape q p)

/-- Add a partial to those of a list, by head. Each merge takes free values. One of another shape stays by itself. -/
def addPart (w : Nat) (l : List Part) (p : Part) (s : State) : List Part × State :=
  match l.find? (fun q => sameShape q p) with
  | some q => (l.map (fun x => if sameShape x p then mergePart w s.free q p else x), { s with free := s.free + 1024 * p.rows.length })
  | none => (l ++ [p], s)

def mergeAll (w : Nat) (l : List Part) (s : State) : List Part × State :=
  l.foldl (fun (acc : List Part × State) p => addPart w acc.1 p acc.2) ([], s)

/-- Bounds of a quotient of an element's sum by the sum of weights. -/
def quoLo (n : Rat) (x : Rat × Rat) : Rat := if 0 ≤ n then n / x.2 else n / x.1
def quoHi (n : Rat) (x : Rat × Rat) : Rat := if 0 ≤ n then n / x.1 else n / x.2

/-- Finalisation of a row (R109, R117): lse within 2^−15; each output element o / l in FP32, held within 2^−15 of the exact output times the
mean magnitude. -/
def finalRow (w k : Nat) (a : RowP) : RowP :=
  if isNan32 a.m || a.m == ninf32 then a
  else
    let e := pow2 (-15)
    let r : RowP := {
      m := within k (val32 a.m + lnQ a.xl.2 - e) (val32 a.m + lnQ a.xl.1 + e)
      l := one32
      o := a.o.zipIdx.map (fun y =>
        let x := a.xo.getD y.2 (0, 0, 0)
        let t := e * (x.2.2 / a.xl.2)
        let z := fdiv y.1 a.l
        let lo := quoHi x.2.1 a.xl - t
        let hi := quoLo x.1 a.xl + t
        if isFin32 z && decide (lo ≤ val32 z ∧ val32 z ≤ hi) then z else within (k + 1 + y.2) lo hi)
      xl := (1, 1)
      xo := a.xo.map (fun x => (quoLo x.1 a.xl, quoHi x.2.1 a.xl, x.2.2 / a.xl.2)) }
    if !isFin32 r.m || r.o.any (fun x => !isFin32 x) then nanRow w else r

def finalPart (w k : Nat) (p : Part) : Part :=
  let rows := p.rows.zipIdx.map (fun x => finalRow w (k + 1024 * x.2) x.1)
  { p with rows := rows, nonfinite := p.nonfinite || rows.any (fun x => isNan32 x.m) }

end Sys2Proof.Machine
end

