-- ==== Sys2Proof/Machine/Work.lean ====
section
/-! DEFINITION. Handing the pages of a request to units, cluster groups and Zephyr (R99 to R101, R145 to R148, R177 to R180, R187, R191, R196), and
the appends that reads and fences wait for (R150 to R153). -/

namespace Sys2Proof.Machine

def req? (s : State) (rid : Nat) : Option Req := s.att.reqs.find? (fun r => r.id == rid)
/-- The Zephyr that takes a die's recovery work: its own, or the other when it is fenced. -/
def zphFor (s : State) (die : Nat) : Nat := if (zph s die).fenced ∨ !(zph s die).good then 1 - die else die

def dieOfCluster (c : Nat) : Nat := c / 104

/-- A cluster that may take work of a domain: good, assigned and not changing hands (R175, R176, R178). -/
def clusterServes (s : State) (td c : Nat) : Bool :=
  let x := clus s c
  codeClus s c == .good && x.td == some td && !x.leaving && !x.dirty && !x.joining

/-- The domain's cluster group on a die, in rank order (R178). -/
def groupOf (s : State) (td die : Nat) : List Nat := (nats 208).filter (fun c => dieOfCluster c == die && clusterServes s td c)

/-- The domain holds no cluster that serves (R101). -/
def noClusters (s : State) (td : Nat) : Bool := groupOf s td 0 == [] && groupOf s td 1 == []

/-- Nothing of the request's page work is left. -/
def workDone (s : State) (r : Req) : Bool :=
  r.stage == .issued && r.appLeft == [] && r.bankHeld == [] && r.unitLeft == [] && r.grpLeft == [] && r.zphLeft == [] && r.stackParts == []
    && !s.att.gcmds.any (fun g => g.rid == r.id)

/-- Recovery work of a Zephyr waits or runs (R204): pages under R101, and merges under R190. -/
def recovNow (s : State) (die : Nat) : Bool :=
  s.att.reqs.any (fun r => zphFor s r.home == die && (r.zphLeft != [] || (workDone s r && noClusters s r.td)))

/-- Held samples close as expired while Lull is disabled (R227). -/
def lullOff (s : State) : State :=
  if bitOf s.att.lulCtl 31 then s
  else [0, 1].foldl (fun s d => ((samplesOf s d).filter (fun x => x.state == .held)).foldl (fun s x => sampleDone d x 4 0x170 s) s) s

/-- Work on a sample stops when recovery work arrives: it returns to Held, and nothing of it is kept (R223, R225); with EN clear it closes. -/
def sampleBack (die : Nat) (s : State) : State :=
  let z := zph s die
  if z.samples.any (fun x => some x.key == z.active && x.state == .checking) then
    lullOff (updZph die (fun z => { z with
      active := none, td := none, rowStore := [], acc := [], buf := []
      samples := z.samples.map (fun x => if x.state = .checking then { x with state := .held, steps := 0 } else x) }) s)
  else s

/-- RECOV of both Zephyrs follows their work (R666), and a sample in check makes way for it as it arrives (R223). -/
def syncZph (s : State) : State :=
  [0, 1].foldl (fun s d =>
    let s := if recovNow s d then sampleBack d s else s
    if (zph s d).recov = recovNow s d then s else updZph d (fun z => { z with recov := !z.recov }) s) s

/-- Change a request. -/
def updReq (rid : Nat) (f : Req → Req) (s : State) : State :=
  syncZph { s with att := { s.att with reqs := s.att.reqs.map (fun r => if r.id = rid then f r else r) } }

/-- Put a request into a list in order of issue. -/
def insertIssued (r : Req) : List Req → List Req
  | [] => [r]
  | x :: xs => if r.issueNo < x.issueNo then r :: x :: xs else x :: insertIssued r xs

/-- Issued requests in order of issue. -/
def issuedReqs (s : State) : List Req := (s.att.reqs.filter (fun r => r.stage == .issued)).foldl (fun l r => insertIssued r l) []

def headsOf (m : Nat) : List Nat := (nats 64).filter (fun h => m.testBit h)
def headOf (r : Req) (k : Nat) : Nat := (headsOf r.hmask).getD k 0
def refPix (r : Req) (p : PageRef) : Nat := pageIx r.layer p.head p.tpage

/-- Token pages of an append, ascending, and whether a request appends to a token page. -/
def appendPages (t apos napp : Nat) : List Nat := (((nats napp).map (fun i => (apos + i) / t)).eraseDups)
def appendsTo (s : State) (r : Req) (tp : Nat) : Bool := r.app && (appendPages (tokT s r.td) r.apos r.napp).contains tp

/-- Token pages that the range touches. -/
def rangePages (r : Req) (t : Nat) : List Nat :=
  if r.rstart < r.rend then (nats ((r.rend - 1) / t + 1 - r.rstart / t)).map (r.rstart / t + ·) else []

/-- Selected heads and token pages of a request, in order of head and token page. -/
def pagesOf (s : State) (r : Req) : List (Nat × Nat) :=
  (nats (headsOf r.hmask).length).flatMap (fun k => (rangePages r (tokT s r.td)).map (fun tp => (k, tp)))

/-! ### Appends accepted and not applied (R150 to R153, R422) -/

-- DEDUCED, unsafe, log entry 64.
/-- A remote write received and not applied counts as an append: its number among them. -/
def heldWrite (q : Qp) (x : Rcvd) : Nat := 2 ^ 48 + q.qpn * 2 ^ 24 + x.f.psn
def isHeldWrite (x : Rcvd) : Bool := x.f.ftype == 2

/-- A BANK_OP taken and not completed, whose operation writes its destination page (R129, R150), and its number among the appends. -/
def rawWrites (c : Cmd) : Bool := c.code == 0x0308 && c.stage != .done && (let o := le c.body 7 1; decide (o = 1 ∨ o = 2 ∨ o = 3 ∨ o = 4 ∨ o = 5 ∨ o = 7))
def rawNumber (id : Nat) : Nat := 2 ^ 49 + id

/-- Appends of the node not wholly applied: request numbers, held remote writes, and writing raw commands. -/
def liveAppends (s : State) : List Nat :=
  (s.att.reqs.filter (fun r => r.appLeft != [])).map (·.id) ++ s.net.qps.flatMap (fun q => (q.ordered.filter isHeldWrite).map (heldWrite q))
    ++ (s.mbx.cmds.filter rawWrites).map (fun c => rawNumber c.id)

/-- Those of a sequence. -/
def openAppends (s : State) (td seqn : Nat) : List Nat :=
  (s.att.reqs.filter (fun r => r.td == td && r.seqn == seqn && r.app && r.appLeft != [])).map (·.id)
    ++ (s.net.qps.filter (fun q => q.td == td)).flatMap (fun q =>
      (q.ordered.filter (fun x => isHeldWrite x && x.f.addr / 2 ^ 40 % 2 ^ 18 == seqn)).map (heldWrite q))
    ++ (s.mbx.cmds.filter (fun c => rawWrites c && c.td == td && le c.body 8 8 / 2 ^ 40 % 2 ^ 18 == seqn)).map (fun c => rawNumber c.id)

/-- Fences whose appends have been applied are answered (R153). -/
def settleFences (s : State) : State :=
  let live := liveAppends s
  (s.mbx.cmds.filter (fun c => c.stage == .running && c.code == 0x0305)).foldl (fun s c =>
    if c.todo.any (live.contains ·) then s else finishOk c.id [] s) s

/-- With FENCE set, appends accepted before the request are still to be applied (R151). -/
def fenceWaits (s : State) (r : Req) : Bool := r.fence && r.after.any ((liveAppends s).contains ·)

/-- Work on a page waits: for the appends before a fence, or for the request's own append to it (R96, R151, R183). -/
def pageWaits (s : State) (r : Req) (k tpage : Nat) : Bool := fenceWaits s r || r.appLeft.contains (k, tpage)

/-! ### Translation (R54, R66 to R69, R83) -/

/-- The entry that stands for a page whose tenant check failed: its positions count as poisoned (R54). -/
def refusedLeaf (td : Nat) : Leaf := { tier := .flash, tdc := td, gen := 0, heat := 0, cmp := 0, shr := false, psn := true, frame := 0 }

/-- Translate one page of a request: none for a page that reads as zeros. A failed tenant check is logged, and the reply will carry TCHECK. -/
def translatePage (r : Req) (k tp : Nat) (s : State) : PageRef × State :=
  let h := headOf r k
  let pix := pageIx r.layer h tp
  let p := fun (l : Option Leaf) => ({ rid := r.id, k := k, head := h, tpage := tp, leaf := l } : PageRef)
  match (seq? s r.td r.seqn).map (fun d => (d, walk s d pix)) with
  | some (_, .page _ l) => (p (some l), s)
  | some (d, .tcheck x) => (p (some (refusedLeaf r.td)), updReq r.id (fun r => { r with tcheck := true }) (tcheckError d pix x r.tag s))
  | _ => (p none, s)

/-- Translate the pages of a request (R180). -/
def translate (r : Req) (s : State) : List PageRef × State :=
  (pagesOf s r).foldl (fun (acc : List PageRef × State) e => let x := translatePage r e.1 e.2 acc.2; (acc.1 ++ [x.1], x.2)) ([], s)

/-! ### Translation and walk caches (R66 to R70) -/

-- DESIGN CHOICE, safe, log entry 69.
/-- Keep a translation (R67, R68): the oldest entry of the domain's share of the cache goes when it is full. -/
def tcAdd (e : TcEntry) (s : State) : State :=
  let same := fun (x : TcEntry) => x.cluster == e.cluster && (e.cluster.isSome || x.stack == e.stack)
  let l := s.att.tc.filter (fun x => !(same x && x.td == e.td && x.seqn == e.seqn && x.page == e.page))
  let cap := if e.cluster.isSome then 1024 else tcCap s e.td e.stack
  let mine := l.filter (fun x => same x && x.td == e.td)
  let l := if cap ≤ mine.length then (match mine.head? with | some x => l.erase x | none => l) else l
  { s with att := { s.att with tc := l ++ [e] } }

/-- Keep a non-leaf entry in a stack's walk cache of 512 (R66): the oldest one goes when it is full. -/
def wcAdd (e : WcEntry) (s : State) : State :=
  let l := s.att.wc.filter (fun x => !(x.stack == e.stack && x.td == e.td && x.seqn == e.seqn && x.level == e.level && x.key == e.key))
  let mine := l.filter (fun x => x.stack == e.stack)
  let l := if 512 ≤ mine.length then (match mine.head? with | some x => l.erase x | none => l) else l
  { s with att := { s.att with wc := l ++ [e] } }

/-- The non-leaf entries that a walk of a page read. -/
def walked (stack : Nat) (d : SeqD) (pix : Nat) (s : State) : State :=
  let one := fun (level key : Nat) (e : Option TabE) (s : State) => match e with
    | some e => wcAdd { stack := stack, td := d.td, seqn := d.seqn, kidx := d.kidx, level := level, key := key, entry := e } s
    | none => s
  one 2 (lhOf pix) (look d.l2 (lhOf pix)) (one 1 (pixLayer pix) (look d.l1 (pixLayer pix)) s)

/-- A translation of a page in DRAM fills a cluster's cache, or the cache of the frame's stack and its walk cache, if it still holds. -/
def keepTranslation (cluster : Option Nat) (td seqn pix : Nat) (e : Leaf) (s : State) : State :=
  match (seq? s td seqn).map (fun d => (d, walk s d pix)) with
  | some (d, .page l x) =>
    if x ≠ e ∨ e.tier ≠ .dram then s
    else
      let st := frChan e.frame / 32
      tcAdd { cluster := cluster, stack := st, td := td, seqn := seqn, kidx := d.kidx, page := pix, leaf := { e with heat := 0, cmp := 0 }
              record := if l.tier = .shared then some l.frame else none } (if cluster.isSome then s else walked st d pix s)
  | _ => s

/-! ### Cluster groups -/

/-- The page must wait for promotion. -/
def inFlash (p : PageRef) : Bool := match p.leaf with | some l => l.tier == .flash && !l.psn | none => false

/-- The page lies in a frame that a cluster or Zephyr fetches (R187, R188). -/
def needsFetch (p : PageRef) : Bool := match p.leaf with | some l => l.tier == .dram && !l.psn | none => false

/-- The die whose group takes a page: that of its frame, or the home die for a page that has no frame or is refused; the other when that die
has no group (R180, R187, R196). -/
def pageDie (home : Nat) (g0 g1 : Bool) (p : PageRef) : Nat :=
  let want := match p.leaf with
    | some l => if l.tier = .dram then frDie l.frame else home
    | none => home
  if want = 0 then (if g0 then 0 else 1) else (if g1 then 1 else 0)

def GCmd.empty (id rid td die : Nat) (members : List Nat) : GCmd :=
  { id := id, rid := rid, td := td, die := die, members := members, share := members.map (fun c => (c, [])), wait := [], fetched := [],
    arrived := [], done := [], parts := [] }

/-- The cluster that takes the page at a position of the command's page list (R180). -/
def GCmd.at_ (g : GCmd) (pos : Nat) : Option Nat := g.members[pos % g.members.length]?

/-- Put a page into a cluster's share in page-list order: pages that the request appends to come last (R177, R181). -/
def insertPage (late : PageRef → Bool) (p : PageRef) : List PageRef → List PageRef
  | [] => [p]
  | q :: l =>
    let before := (!late p && late q) || (late p == late q && decide (p.k < q.k ∨ (p.k = q.k ∧ p.tpage < q.tpage)))
    if before then p :: q :: l else q :: insertPage late p l

/-- Add a page to the share of a cluster, in page-list order, or to those that wait for promotion there. A share that was computed is so no
more. -/
def GCmd.put_ (g : GCmd) (late : PageRef → Bool) (c : Nat) (p : PageRef) : GCmd :=
  let g := { g with arrived := g.arrived.filter (· != c) }
  if inFlash p then { g with wait := put g.wait c (lookD [] g.wait c ++ [p]) }
  else { g with share := put g.share c (insertPage late p (lookD [] g.share c)) }

/-- Add a page at a position of the page list (R180). -/
def GCmd.add (g : GCmd) (late : PageRef → Bool) (pos : Nat) (p : PageRef) : GCmd :=
  match g.at_ pos with
  | some c => g.put_ late c p
  | none => g

/-- Work of a cluster for a command. -/
def GCmd.busyAt (g : GCmd) (c : Nat) : Bool := lookD [] g.share c != [] || lookD [] g.wait c != [] || lookD [] g.fetched c != []

/-- A cluster whose share is done offers its running partial (R189). -/
def GCmd.offer (g : GCmd) (c : Nat) : GCmd :=
  if g.busyAt c || lookD [] g.parts c == [] then g else { g with arrived := g.arrived.filter (· != c) ++ [c] }

def addG (g : GCmd) (s : State) : State :=
  { s with att := { s.att with gcmds := s.att.gcmds ++ [{ g with id := s.att.nextG }], nextG := s.att.nextG + 1 } }
def updG (id : Nat) (f : GCmd → GCmd) (s : State) : State :=
  { s with att := { s.att with gcmds := s.att.gcmds.map (fun g => if g.id = id then f g else g) } }

/-- The domain's group on some die has 64 commands queued (R171, R179). -/
def groupFull (s : State) (td : Nat) : Bool := [0, 1].any (fun d => decide (64 ≤ (s.att.gcmds.filter (fun g => g.td == td && g.die == d)).length))

/-- Commands of a domain that wait for a place in its groups' queues. -/
def groupWaits (s : State) (td : Nat) : Bool :=
  s.att.gwait.any (fun x => match req? s x.1 with | some r => r.td == td | none => false)

/-- Hand a request's pages to the groups of both dies by one fused attention command each (R177, R180, R191); with no group on either die they
pass to Zephyr (R101). Each group keeps the pages that fall to its die, and those in flash until they land. -/
def handOut (r : Req) (pages : List PageRef) (s : State) : State :=
  let m0 := groupOf s r.td 0
  let m1 := groupOf s r.td 1
  if m0 = [] ∧ m1 = [] then updReq r.id (fun r => { r with
    zephyr := true, zphLeft := r.zphLeft ++ pages, grpLeft := r.grpLeft.filter (fun p => !pages.any (samePage p)) }) s
  else
    let late := fun (p : PageRef) => appendsTo s r p.tpage
    let one := fun (die : Nat) (ms : List Nat) (s : State) =>
      if ms = [] then s
      else addG ((pages.zipIdx).foldl (fun (g : GCmd) e =>
        if inFlash e.1 || pageDie r.home (m0 != []) (m1 != []) e.1 == die then g.add late e.2 e.1 else g) (GCmd.empty 0 r.id r.td die ms)) s
    updReq r.id (fun r => { r with grpLeft := r.grpLeft.filter (fun p => !pages.any (samePage p)) ++ pages }) (one 1 m1 (one 0 m0 s))

/-- Issue a fused attention command for pages of a request. While 64 commands are queued on a group, or others of the domain wait, it
waits (R179). -/
def issueFused (rid : Nat) (pages : List PageRef) (s : State) : State :=
  match req? s rid with
  | none => s
  | some r =>
    if pages = [] then s
    else if groupFull s r.td || groupWaits s r.td then
      updReq rid (fun r => { r with grpLeft := r.grpLeft ++ pages })
        { s with att := { s.att with gwait := s.att.gwait ++ [(rid, pages.map (fun p => (p.k, p.tpage)))] } }
    else handOut r pages s

/-- A page that waits for promotion in a command. -/
def GCmd.waits (g : GCmd) (p : PageRef) : Bool := g.wait.any (fun x => x.2.any (samePage p))

/-- A page that waited lands: it leaves every group's waiting pages and enters the share of the cluster at its position in the group that takes
it (R180, R187). -/
def placeGroupPage (p : PageRef) (s : State) : State :=
  match req? s p.rid with
  | none => s
  | some r =>
    let gs := s.att.gcmds.filter (fun g => g.waits p)
    let die := pageDie r.home (gs.any (fun g => g.die == 0)) (gs.any (fun g => g.die == 1)) p
    match gs.find? (fun g => g.die == die) with
    | none => s
    | some g0 =>
      let late := fun (q : PageRef) => appendsTo s r q.tpage
      { s with att := { s.att with gcmds := s.att.gcmds.map (fun g =>
        if !g.waits p then g
        else
          let c := ((g.wait.find? (fun x => x.2.any (samePage p))).map (·.1)).getD 0
          let g' := { g with wait := put g.wait c ((lookD [] g.wait c).filter (fun q => !samePage p q)) }
          if g.id = g0.id then g'.put_ late c p else g'.offer c) } }

/-! ### Bank path: the stack merge unit and the units (R145 to R149) -/

/-- Stack that supplies the partials of pages without frame (R147). -/
def supplyStack (s : State) (td home : Nat) : Nat :=
  let cs := (domChans s td).mergeSort (fun a b => decide (a ≤ b))
  let onDie := fun d => cs.filter (fun c => decide ((c < 384) = (d = 0)))
  ((onDie home ++ onDie (1 - home)).getD 0 0) / 32

def onStack (st : Nat) (p : PageRef) : Bool := match p.leaf with | some l => l.tier == .dram && frChan l.frame / 32 == st | none => false

/-- Requests whose partials a stack's merge unit holds (R148). -/
def mergeHolders (s : State) (st : Nat) : List Nat :=
  (s.att.reqs.filter (fun r => r.stackParts.any (·.1 == st) || r.unitLeft.any (onStack st))).map (·.id)

/-- The stack's merge unit has no place for a request (R148). -/
def mergeFull (s : State) (st rid : Nat) : Bool := let l := mergeHolders s st; decide (512 ≤ l.length) && !l.contains rid

def unitDone (p : PageRef) (r : Req) : Req := { r with unitLeft := r.unitLeft.filter (fun q => !samePage p q) }
def holdPage (p : PageRef) (r : Req) : Req := { r with bankHeld := r.bankHeld ++ [(p.k, p.tpage)] }

/-- The partial of a page that no unit computes (R145, R147), supplied at a stack. -/
def supply (st : Nat) (p : PageRef) (x : Part) (s : State) : State :=
  if mergeFull s st p.rid then updReq p.rid (holdPage p) s
  else updReq p.rid (fun r => { r with stackParts := r.stackParts ++ [(st, x)] }) s

/-- Hand out one bank-path page: on its unit, supplied by a stack, waiting for promotion, held for a place in the merge unit; answers the pages
that clusters compute since their pair has no good unit (R100). -/
def issuePage (r : Req) (e : Nat × Nat) (s : State) : List PageRef × State :=
  let (p, s) := translatePage r e.1 e.2 s
  let sup := supplyStack s r.td r.home
  match p.leaf with
  | none => ([], supply sup p (absentPart s r p) s)
  | some l =>
    let st := if l.tier = .dram then frChan l.frame / 32 else sup
    if l.psn then ([], supply st p (poisonPart s r p) s)
    else if l.tier ≠ .dram then ([], updReq r.id (fun r => { r with unitLeft := r.unitLeft ++ [p] }) s)
    else if codeUnit s (frUnit l.frame) ≠ .good then ([p], s)
    else if mergeFull s st r.id then ([], updReq r.id (holdPage p) s)
    else ([], keepTranslation none r.td r.seqn (refPix r p) l <| enqueueUnit (frUnit l.frame) (.attend p) (updReq r.id (fun r => { r with unitLeft := r.unitLeft ++ [p] }) s))

/-- Issue the bank-path pages of a request that need wait no longer: those moved off their units by one command (R191). -/
def issueBankPages (rid : Nat) (s : State) : State :=
  match req? s rid with
  | none => s
  | some r =>
    let go := r.bankHeld.filter (fun e => !pageWaits s r e.1 e.2)
    if r.stage ≠ .issued ∨ go = [] then s
    else
      let s := updReq rid (fun r => { r with bankHeld := r.bankHeld.filter (fun e => !go.contains e) }) s
      let x := go.foldl (fun (acc : List PageRef × State) e => let y := issuePage r e acc.2; (acc.1 ++ y.1, y.2)) ([], s)
      issueFused rid x.1 x.2

/-- Bank-path pages of every request that need wait no longer, in order of issue. -/
def issueHeldPages (s : State) : State := (issuedReqs s).foldl (fun s r => if r.bankHeld = [] then s else issueBankPages r.id s) s

/-! ### Pages that land (R275, R188, R297) -/

/-- A page of a request that waits for a flash page to land. -/
def waitsFor (td seqn pix : Nat) (r : Req) (p : PageRef) : Bool := r.td == td && r.seqn == seqn && refPix r p == pix && inFlash p

/-- Pages that wait for one take its new entry: those of units go back to be issued, those of groups to a share. -/
def landAs (td seqn pix : Nat) (l : Leaf) (s : State) : State :=
  let hit := waitsFor td seqn pix
  let set := fun (r : Req) (p : PageRef) => if hit r p then { p with leaf := some l } else p
  let old := s.att.reqs
  let s := { s with att := { s.att with reqs := s.att.reqs.map (fun r => { r with
    bankHeld := r.bankHeld ++ (r.unitLeft.filter (hit r)).map (fun p => (p.k, p.tpage))
    unitLeft := r.unitLeft.filter (fun p => !hit r p)
    grpLeft := r.grpLeft.map (set r)
    zphLeft := r.zphLeft.map (set r) }) } }
  old.foldl (fun s r => (r.grpLeft.filter (hit r)).foldl (fun s p => placeGroupPage { p with leaf := some l } s) s) s

/-- A promoted page lands, or turns out poisoned: requests that wait for it take its entry, and the work is handed out. -/
def landPage (td seqn pix : Nat) (l : Leaf) (s : State) : State := syncZph (issueHeldPages (landAs td seqn pix l s))

/-- A page that requests wait for turns out poisoned: it is computed as such (R188, R297). -/
def landPoison (td seqn pix : Nat) (s : State) : State := landPage td seqn pix (refusedLeaf td) s

end Sys2Proof.Machine
end

