-- ==== Sys2Proof/Machine/RawOp.lean ====
section
/-! DEFINITION. Raw bank commands as data: the descriptor (R155 to R157), the elements of its operations (R129, R209, R229, R261), and the bytes that
a writing operation leaves in its range. -/

namespace Sys2Proof.Machine

/-- A raw bank descriptor (R155). -/
structure RawD where
  opc : Nat
  ver : Nat
  fence : Bool
  efmt : Nat
  rsvOk : Bool
  /-- The issuer's tag (R155). -/
  tag : Nat
  dsva : Nat
  ssva : Nat
  doff : Nat
  soff : Nat
  ncw : Nat
  imm0 : F32
  imm1 : Nat
  rkey : Nat
  raddr : Nat
  rlen : Nat
  deriving DecidableEq, Repr

-- DEDUCED, unsafe, log entry 149.
def RawD.ofBytes (bs : List Byte) : RawD :=
  let w := fun i => le bs (8 * i) 8
  { opc := nbits (w 0) 63 56, ver := nbits (w 0) 55 52, fence := nbits (w 0) 51 51 == 1, efmt := nbits (w 0) 47 44
    rsvOk := nbits (w 0) 50 48 == 0 && nbits (w 0) 43 32 == 0 && nbits (w 3) 31 19 == 0 && nbits (w 3) 7 0 == 0
      && nbits (w 5) 31 0 == 0 && nbits (w 7) 31 0 == 0
    tag := nbits (w 0) 31 0, dsva := w 1, ssva := w 2, doff := nbits (w 3) 63 48, soff := nbits (w 3) 47 32, ncw := nbits (w 3) 18 8 + 1
    imm0 := BitVec.ofNat 32 (nbits (w 4) 63 32), imm1 := nbits (w 4) 31 0, rkey := nbits (w 5) 63 32, raddr := w 6, rlen := nbits (w 7) 63 32 }

def rawCode (o : Nat) : Bool := decide (1 ≤ o ∧ o ≤ 8)
def usesSource (o : Nat) : Bool := o == 2 || o == 4 || o == 5 || o == 7 || o == 8
def hasResult (o : Nat) : Bool := o == 6 || o == 8
/-- The operation writes its destination page. -/
def writesDest (o : Nat) : Bool := o != 6 && o != 8
/-- The operation reads its destination page. -/
def readsDest (o : Nat) : Bool := decide (3 ≤ o)
/-- Formats of raw elements (R229). -/
def rawFmt (f : Nat) : Bool := f == 0 || f == 1 || f == 8 || f == 9 || f == 11

/-- Elements of a codeword. -/
def perCw (f : Nat) : Nat := 256 / max 1 (fmtBits f)

/-- Bytes of the source that the operation reads (R156): of RMS_APPLY the vector of IMM1 elements, of SCORE the row of w elements. -/
def srcBytes (r : RawD) (w : Nat) : Nat :=
  if r.opc = 7 then r.imm1 * fmtBits r.efmt / 8 else if r.opc = 8 then w * fmtBits r.efmt / 8 else 32 * r.ncw

/-- Code, version, reserved fields, element format, alignment and range (R155 to R157, R162, R229); a vector length of zero is no length. -/
def rawWell (r : RawD) (w : Nat) : Bool :=
  rawCode r.opc && r.ver == 1 && r.rsvOk && rawFmt r.efmt
    && r.dsva % 0x10000 == 0 && r.ssva % 0x10000 == 0 && (usesSource r.opc || r.ssva == 0)
    && r.doff % 32 == 0 && r.soff % 32 == 0 && decide (r.doff + 32 * r.ncw ≤ 65536)
    && (!usesSource r.opc || decide (r.soff + srcBytes r w ≤ 65536))
    && (hasResult r.opc || r.raddr == 0) && (if r.opc = 6 ∨ r.opc = 7 then r.imm1 != 0 && r.imm1 % 32 == 0 else r.imm1 == 0)
    && (hasResult r.opc || r.raddr == 0)

/-- Bytes of the result. -/
def resultLen (r : RawD) (t : Nat) : Nat := if r.opc = 6 then 4 * (r.ncw * perCw r.efmt / max 1 r.imm1) else if r.opc = 8 then 4 * t else 0

/-- A result rounded once into EFMT (R209, R231, R232, R261). What the format cannot hold, and the spec gives no result for, is free
value k, but never the lowest integer (R233). -/
def encRaw (code k : Nat) (v : FV) : Nat :=
  let x := (Config.freeValue k).toNat % 2 ^ fmtBits code
  let open_ := if (fspec? code).isNone ∧ x = 2 ^ (fmtBits code - 1) then x + 1 else x
  match v with
  | .fin s x => if code = 8 ∨ code = 9 then (match fspec? code with | some f => f.enc v | none => 0) else (encSat code s x).1
  | .nan => match (fspec? code).bind (·.nan) with | some n => n | none => open_
  | .inf _ => match fspec? code with | some f => if f.infs then f.enc v else open_ | none => open_

/-- Bytes of a page as the operation reads them: corrected codewords; zeros of a page without frame. -/
def rawRead (s : State) (e : Option Leaf) (off n : Nat) : PRead :=
  match e with
  | some l => if l.tier = .dram then rdPage s.mem l.frame off n else { bytes := zeros n, corr := [], bad := [] }
  | none => { bytes := zeros n, corr := [], bad := [] }

/-- Elements of bytes. -/
def elems (code : Nat) (bs : List Byte) : List FV := (unpack code bs 0 (bs.length * 8 / max 1 (fmtBits code))).map (decElem code)

/-- Results of an element-wise operation on the range, as bytes (R129, R157). -/
def rawElems (r : RawD) (k : Nat) (d g : List FV) : List Byte :=
  let im := dec32 r.imm0
  let res := d.zipIdx.map (fun e =>
    let x := e.1
    let v := match r.opc with
      | 3 => fmulV x im
      | 4 => faddV x (g.getD e.2 .nan)
      | 5 => fmulV x (g.getD e.2 .nan)
      | _ => fmulV (dec32 (enc32 (fmulV x im))) (g.getD (e.2 % max 1 r.imm1) .nan)
    encRaw r.efmt (k + e.2) v)
  res.flatMap (fun p => leBytes p (fmtBits r.efmt / 8))

/-- Free values of a raw operation belong to its command. -/
def rawKey (id : Nat) : Nat := 2 ^ 96 + 2 ^ 20 * id

-- DESIGN CHOICE, safe, log entry 80.
/-- The bytes that a writing operation leaves in its range: of FILL the pattern, of COPY the source, of the others their elements. -/
def rawNew (r : RawD) (k : Nat) (dst src : List Byte) : List Byte :=
  match r.opc with
  | 1 => (nats (8 * r.ncw)).flatMap (fun _ => leBytes r.imm0.toNat 4)
  | 2 => src
  | _ => rawElems r k (elems r.efmt dst) (elems r.efmt src)

end Sys2Proof.Machine
end

