-- ==== Sys2Proof/Machine/Append.lean ====
section
/-! DEFINITION. The APPEND operation of a bank unit (R135 to R138, R142, R144, R246, R251), and what a read meets while one is in
progress (R98, R152). -/

namespace Sys2Proof.Machine

/-- Elements of an append vector after steps 1 to 3 of R246. -/
def keyVector (s : State) (r : Req) (k pos : Nat) (i : Nat) : List AElem :=
  let fmt := (dom s r.td).fmt
  let v := (r.appd.getD i []).map (aElem r.afmt)
  let v := if r.rot then rotateKey fmt (dom s r.td).rotary pos k v else v
  divideAll (k + 512) (fmtKqs fmt) v

def valueVector (s : State) (r : Req) (k i : Nat) : List AElem := divideAll k (fmtVqs (dom s r.td).fmt) ((r.appd.getD i []).map (aElem r.afmt))

/-- Write bytes one at a time: each codeword is read, modified and written back (R136). Answers the addresses left unwritten. -/
def wrEach (f off : Nat) (bs : List Byte) (m : Mem × List Nat) : Mem × List Nat :=
  bs.zipIdx.foldl (fun (acc : Mem × List Nat) b =>
    let (m, bad) := wrPage acc.1 f (off + b.2) [b.1]
    (m, acc.2 ++ bad.filter (fun a => !acc.2.contains a))) m

/-- Bytes of a block that hold the bits of some slots: offset in the block and value. -/
def slotBytesOf (code blk : Nat) (slots : List Nat) : List (Nat × Byte) :=
  let b := fmtBits code
  let bs := leBytes blk (blkBytes code)
  ((slots.flatMap (fun t => (nats ((b * t + b - 1) / 8 + 1 - b * t / 8)).map (b * t / 8 + ·))).eraseDups).map (fun o => (o, bs.getD o 0))

/-- What an APPEND puts into one page: the page's geometry, formats and frame, and the key and value vectors with their token positions. -/
structure AppendIn where
  geom : W64
  fmt : List W64
  frame : Nat
  keys : List (Nat × List AElem)
  vals : List (Nat × List AElem)
  deriving DecidableEq, Repr

def AElem.zero : AElem := { nonfin := false, v := 0, sat := false }

def AppendIn.outliers (x : AppendIn) : List Nat := (nats (fmtNoc x.fmt)).map (fmtOch x.fmt)

def AppendIn.keyBlocks (x : AppendIn) : List Nat := (x.keys.map (fun k => k.1 / 32)).eraseDups

/-- The bits of a new key block that the APPEND writes: its slots' bytes as offsets in the page. -/
def AppendIn.keyBytes (x : AppendIn) (j c : Nat) : List Nat :=
  (slotBytesOf (geomK x.geom) 0 ((x.keys.filter (fun y => y.1 / 32 == j)).map (fun y => y.1 % 32))).map (fun b => keyOff x.geom j c + b.1)

/-- The value region that the APPEND writes: offset and length; its tokens follow one another. -/
def AppendIn.valueRange (x : AppendIn) : Nat × Nat :=
  (valOff x.geom ((x.vals.map (·.1)).getD 0 0) 0, x.vals.length * (geomW x.geom / 32) * blkBytes (geomV x.geom))

/-- Codewords of the page that hold the bytes which the APPEND changes by read-modify-write (R136): of the slots' key bytes, of the scales, of
the outlier channels, and the value codewords that its tokens fill only in part. -/
def AppendIn.readCws (x : AppendIn) : List Nat :=
  let v := x.valueRange
  let part := (if v.1 % 32 = 0 then [] else [v.1 / 32]) ++ (if (v.1 + v.2) % 32 = 0 then [] else [(v.1 + v.2) / 32])
  (x.keyBlocks.flatMap (fun j => (nats (geomW x.geom)).flatMap (fun c => (keyScaleOff x.geom j c :: x.keyBytes j c).map (· / 32)))
    ++ (x.vals.flatMap (fun (y : Nat × List AElem) => (nats (geomW x.geom / 32)).map (fun b => valScaleOff x.geom y.1 b / 32)))
    ++ (nats (fmtNoc x.fmt)).flatMap (fun n => x.keys.map (fun (y : Nat × List AElem) => outOff x.geom n y.1 / 32)) ++ part).eraseDups

/-- Codewords that the APPEND writes: those it reads, and value codewords that its tokens fill. -/
def AppendIn.writtenCws (x : AppendIn) : List Nat :=
  let v := x.valueRange
  (x.readCws ++ (nats ((v.1 + v.2 + 31) / 32 - v.1 / 32)).map (v.1 / 32 + ·)).eraseDups

/-- What the APPEND meets in the codewords that it reads. -/
def AppendIn.readAll (x : AppendIn) (m : Mem) : PRead :=
  x.readCws.foldl (fun (a : PRead) i => let y := rdPage m x.frame (32 * i) 32; { bytes := [], corr := a.corr ++ y.corr, bad := a.bad ++ y.bad })
    { bytes := [], corr := [], bad := [] }

/-- One channel's key block with the new slots (R136), its bytes and its scale. -/
def AppendIn.storeKeyBlock (x : AppendIn) (acc : Mem × List Nat) (jc : Nat × Nat) : Mem × List Nat :=
  let o := keyOff x.geom jc.1 jc.2
  let so := keyScaleOff x.geom jc.1 jc.2
  let els := (x.keys.filter (fun y => y.1 / 32 == jc.1)).map (fun y => (y.1 % 32, if x.outliers.contains jc.2 then AElem.zero else y.2.getD jc.2 AElem.zero))
  let old := le (rdPage acc.1 x.frame o (blkBytes (geomK x.geom))).bytes 0 (blkBytes (geomK x.geom))
  let be := keyBlock (geomK x.geom) (fmtKhead x.fmt) old (byteAt (rdPage acc.1 x.frame so 1).bytes 0) els
  wrEach x.frame so [BitVec.ofNat 8 be.2]
    ((slotBytesOf (geomK x.geom) be.1 (els.map (·.1))).foldl (fun acc b => wrEach x.frame (o + b.1) [b.2] acc) acc)

def AppendIn.storeKeys (x : AppendIn) (acc : Mem × List Nat) : Mem × List Nat :=
  (x.keyBlocks.flatMap (fun j => (nats (geomW x.geom)).map (fun c => (j, c)))).foldl x.storeKeyBlock acc

/-- The outlier channels' elements, in BF16 (R251). -/
def AppendIn.storeOutlier (x : AppendIn) (acc : Mem × List Nat) (c : Nat × Nat) : Mem × List Nat :=
  x.keys.foldl (fun acc y => wrEach x.frame (outOff x.geom c.2 y.1) (leBytes (quantOutlier (y.2.getD c.1 AElem.zero)).1 2) acc) acc

/-- The blocks of each value vector, one for every 32 elements. -/
def AppendIn.valueBlocks (x : AppendIn) : List (Nat × List (Nat × Nat)) :=
  x.vals.map (fun y => (y.1, (nats (geomW x.geom / 32)).map (fun v => valueBlock (geomV x.geom) ((y.2.drop (32 * v)).take 32))))

/-- The value blocks, whose bytes lie one token after the other, and their scales. -/
def AppendIn.storeValues (x : AppendIn) (acc : Mem × List Nat) : Mem × List Nat :=
  let y := wrPage acc.1 x.frame (valOff x.geom ((x.vals.map (·.1)).getD 0 0) 0)
    (x.valueBlocks.flatMap (fun y => y.2.flatMap (fun b => leBytes b.1 (blkBytes (geomV x.geom)))))
  x.valueBlocks.foldl (fun acc v => wrEach x.frame (valScaleOff x.geom v.1 0) (v.2.map (fun b => BitVec.ofNat 8 b.2)) acc)
    (y.1, acc.2 ++ y.2.filter (fun a => !acc.2.contains a))

/-- The memory after the APPEND and the codewords it could not write. -/
def AppendIn.store (x : AppendIn) (acc : Mem × List Nat) : Mem × List Nat :=
  x.storeValues (x.outliers.zipIdx.foldl x.storeOutlier (x.storeKeys acc))

/-- The quantised elements with their saturation and underflow marks, for the counters of R262. -/
def AppendIn.quantised (x : AppendIn) (m : Mem) : List (Nat × Bool × Bool) :=
  x.keys.flatMap (fun y => (nats (geomW x.geom)).map (fun c =>
    if x.outliers.contains c then quantOutlier (y.2.getD c AElem.zero)
    else
      let els := (x.keys.filter (fun z => z.1 / 32 == y.1 / 32)).map (fun z => z.2.getD c AElem.zero)
      let e := byteAt (rdPage m x.frame (keyScaleOff x.geom (y.1 / 32) c) 1).bytes 0
      quant (geomK x.geom) (if isMx (geomK x.geom) then (if e = 0 ∨ e = 0xFF then keyScaleNew (geomK x.geom) (fmtKhead x.fmt) els else e) else 0x7F) (y.2.getD c AElem.zero)))
  ++ x.vals.flatMap (fun y => (nats (geomW x.geom / 32)).flatMap (fun v =>
    ((y.2.drop (32 * v)).take 32).map (quant (geomV x.geom) (valueScale (geomV x.geom) ((y.2.drop (32 * v)).take 32)))))

/-- The tokens of an append that fall in a page: position, and the number of the token's key row among the operands. -/
def appendTokens (r : Req) (k tp t : Nat) : List (Nat × Nat) :=
  ((nats r.napp).map (fun i => (r.apos + i, 2 * (k * r.napp + i)))).filter (fun x => x.1 / t == tp)

-- DESIGN CHOICE, safe, log entry 136.
/-- Free values of an APPEND belong to its request, head, page and token: applied again it takes the same ones (R138). -/
def appendKey (rid k tp i : Nat) : Nat := 2 ^ 80 + ((rid * 64 + k) * 1024 + tp) * 2 ^ 16 + 2048 * i

def appendIn (s : State) (r : Req) (k tp : Nat) (f : Nat) : AppendIn :=
  let g := (dom s r.td).geom
  let t := geomT g
  let toks := appendTokens r k tp t
  { geom := g, fmt := (dom s r.td).fmt, frame := f
    keys := toks.zipIdx.map (fun x => (x.1.1 - tp * t, keyVector s r (appendKey r.id k tp x.2) x.1.1 x.1.2))
    vals := toks.zipIdx.map (fun x => (x.1.1 - tp * t, valueVector s r (appendKey r.id k tp x.2 + 1024) (x.1.2 + 1))) }

/-- The APPEND of a request to one page (R81, R135 to R138, R142, R144, R246, R251): its tokens that fall in the page, all at once. -/
def applyAppend (r : Req) (k tp : Nat) (l : Leaf) (s : State) : State :=
  let x := appendIn s r k tp l.frame
  let rd := x.readAll s.mem
  let st := x.store (s.mem, rd.bad)
  let all := x.quantised s.mem
  let s := { s with mem := st.1 }
  let s := bumpBy (ctrTd r.td 0x020) (all.filter (·.2.1)).length (bumpBy (ctrTd r.td 0x024) (all.filter (·.2.2)).length s)
  let s := noteRead rd s
  let s := x.writtenCws.foldl (fun s i =>
    let a := pageAddr l.frame + 32 * i
    if st.2.contains a then s else dropWriteback a (a + 32) s) s
  let pix := pageIx r.layer (headOf r k) tp
  let s := touch r.td r.seqn pix s
  poisonFirst r.td r.seqn pix l.frame r.tag st.2 s

/-! ### Reads of a page while an append is in progress (R98, R152) -/

/-- Requests with an append to a page that is accepted and not applied: the request, the selected head and the token page. -/
def pendingAppends (s : State) (td seqn pix : Nat) : List (Req × Nat × Nat) :=
  (s.att.reqs.filter (fun r => r.td == td && r.seqn == seqn)).flatMap (fun r =>
    (r.appLeft.filter (fun a => pageIx r.layer (headOf r a.1) a.2 == pix)).map (fun a => (r, a.1, a.2)))

/-- The page's own frame, in which appends are applied. -/
def ownFrame (s : State) (td seqn pix f : Nat) : Bool :=
  match (seq? s td seqn).bind (fun d => leafOf d pix) with
  | some l => l.tier == .dram && l.frame == f
  | none => false

/-- Codewords of two readings of a frame, each by a free bit. -/
def mixReads (k : Nat) (a b : PRead) (f : Nat) : PRead :=
  let new := fun i => (Config.freeValue (k + i)).toNat % 2 == 1
  let cw := fun x => (x - pageAddr f) / 32
  { bytes := (nats 2176).flatMap (fun i => slice (if new i then b.bytes else a.bytes) (32 * i) 32)
    corr := a.corr.filter (fun x => !new (cw x)) ++ b.corr.filter (fun x => new (cw x))
    bad := a.bad.filter (fun x => !new (cw x)) ++ b.bad.filter (fun x => new (cw x)) }

/-- The entry of the page that an address names, when a walk gives one. -/
def entryAt (s : State) (sva : Nat) : Option Leaf :=
  let a := Sva.ofNat sva
  (seq? s a.td a.seqn).bind (fun d => match walk s d (pageIx a.layer a.head a.tpage) with | .page _ e => some e | _ => none)

/-- The address names the page. -/
def svaNames (td seqn pix sva : Nat) : Bool :=
  let a := Sva.ofNat sva
  a.td == td && a.seqn == seqn && pageIx a.layer a.head a.tpage == pix

/-- Raw commands that write the page, taken and not completed (R150). -/
def pendingRaws (s : State) (td seqn pix : Nat) : List Cmd :=
  s.mbx.cmds.filter (fun c => rawWrites c && rawWell (RawD.ofBytes c.body) (geomW (dom s td).geom) && svaNames td seqn pix (RawD.ofBytes c.body).dsva)

/-- Remote writes to the page, received and not applied (R422). -/
def pendingWrites (s : State) (td seqn pix : Nat) : List Frame :=
  (s.net.qps.filter (fun q => q.td == td)).flatMap (fun q =>
    (q.ordered.filter (fun x => isHeldWrite x && svaNames td seqn pix x.f.addr)).map (·.f))

/-- A frame's bytes once a raw command is done: of its range, and of none that the frame does not have. -/
def afterRaw (s : State) (td f : Nat) (m : Mem) (c : Cmd) : Mem :=
  let dm := dom s td
  let r := RawD.ofBytes c.body
  let src := (rawRead s (if usesSource r.opc then entryAt s r.ssva else none) r.soff (srcBytes r (geomW dm.geom))).bytes
  (wrPage m f r.doff (maskPage dm.geom dm.fmt r.doff (rawNew r (rawKey c.id) (rdPage m f r.doff (32 * r.ncw)).bytes src))).1

-- DESIGN CHOICE, safe, log entry 137.
/-- A frame's bytes once every append to its page is applied that is accepted and still in progress: those of requests, raw commands and remote
writes (R150, R422). -/
def memAfter (s : State) (td seqn pix f : Nat) : Mem :=
  let m := ((pendingAppends s td seqn pix).foldl (fun (m : Mem × List Nat) a => (appendIn s a.1 a.2.1 a.2.2 f).store m) (s.mem, [])).1
  let m := (pendingRaws s td seqn pix).foldl (afterRaw s td f) m
  (pendingWrites s td seqn pix).foldl (fun m x => (wrPage m f (Sva.ofNat x.addr).off x.payload).1) m

/-- Some append to the page is in progress. -/
def appendsPending (s : State) (td seqn pix : Nat) : Bool :=
  !(pendingAppends s td seqn pix).isEmpty || !(pendingRaws s td seqn pix).isEmpty || !(pendingWrites s td seqn pix).isEmpty

/-- Read a frame for a page: of an append still in progress each codeword is seen in its old or its new contents (R98, R152), by free bits. -/
def readPage (s : State) (td seqn pix f : Nat) : PRead :=
  let old := rdPage s.mem f 0 69632
  if !appendsPending s td seqn pix ∨ !ownFrame s td seqn pix f then old
  else mixReads s.free old (rdPage (memAfter s td seqn pix f) f 0 69632) f

end Sys2Proof.Machine
end

