-- ==== Sys2Proof/Machine/Tiers.lean ====
section
/-! DEFINITION. Tiers (chapter 8): the flash translation layer, the codec, demotion and promotion, allocation with forced demotion, changes
of leaf entries (R71), wakes and staging, heat. -/

namespace Sys2Proof.Machine

/-! ### Logical flash pages (R265, R266, R286, R295) -/

/-- Logical flash pages of the domain's share, and those in use or reserved. -/
def flashShare (s : State) (td : Nat) : Nat :=
  s.cmp.exts.foldl (fun n e => if e.2.td = td ∧ (e.2.state = .active ∨ e.2.state = .draining) then n + e.2.flash else n) 0
def flashUsed (s : State) (td : Nat) : Nat :=
  (s.mem.pages.filter (fun p => p.2.td == td)).length
    + (s.mem.chgs.filter (fun c => c.kind == .demote && c.td == td && !c.rewritten)).length
def shareFree (s : State) (td : Nat) : Bool := decide (flashUsed s td < flashShare s td)

def lpnUsed (s : State) (n : Nat) : Bool :=
  (look s.mem.pages n).isSome || s.mem.chgs.any (fun c => c.kind == .demote && c.dst == n && !c.rewritten)

-- DESIGN CHOICE, safe, log entry 62.
/-- The logical page for a page being demoted: in line with the flash pages of its leaf, so that the leaf can collapse (R51),
else in a block of 1,024 of its own, else the lowest one free. -/
def chooseLpn (s : State) (d : SeqD) (pix : Nat) : Option Nat :=
  let lh := lhOf pix
  let near := (d.leaves.find? (fun e => lhOf e.1 == lh && e.2.tier == .flash)).map (fun e => (e.2.frame, pixT e.1))
  let line := near.bind (fun n =>
    if n.2 ≤ n.1 + pixT pix then
      let c := n.1 + pixT pix - n.2
      if lpnUsed s c ∨ s.mem.flsCap ≤ c then none else some c
    else none)
  match line with
  | some c => some c
  | none =>
    let blk := (nats (s.mem.flsCap / 1024)).find? (fun b => (nats 1024).all (fun i => !lpnUsed s (1024 * b + i)))
    match blk with
    | some b => some (1024 * b + pixT pix)
    | none => (nats s.mem.flsCap).find? (fun n => !lpnUsed s n)

/-! ### Blocks and targets (R293, R296, R299 to R304) -/

def inBlock (p : FPage) (c t b : Nat) : Bool := p.chan == c && p.tgt == t && p.block == b
def blockPages (s : State) (c t b : Nat) : List (Nat × FPage) := s.mem.pages.filter (fun p => inBlock p.2 c t b)
def blockFill (s : State) (c t b : Nat) (x : FBlock) : Nat :=
  (blockPages s c t b).foldl (fun n p => n + storedSize p.2.cmp p.2.side.isSome) x.invalid

/-- Erased blocks of a target that can take writes. -/
def erasedBlocks (t : FTarget) : List Nat := (nats t.blocks).filter (fun b => (blkAt t b).erased && !(blkAt t b).retired)

/-- A block's place in its target's random order (R293). -/
def blockRank (t : FTarget) (b : Nat) : Nat := Config.trng 64 (t.order + b)

/-- The erased block with the lowest erase count (R299), of equal ones the first in the target's order (R293). -/
def bestErased (t : FTarget) : Option Nat :=
  (erasedBlocks t).foldl (fun o b => match o with
    | none => some b
    | some a =>
      if (blkAt t b).erases < (blkAt t a).erases ∨ ((blkAt t b).erases = (blkAt t a).erases ∧ blockRank t b < blockRank t a) then some b else o) none

/-- The block a page of n bytes goes to on a target: the open one while it has room. -/
def writeBlock (s : State) (c t n : Nat) (x : FTarget) : Option Nat :=
  match x.open_ with
  | some b => if blockFill s c t b (blkAt x b) + n ≤ x.perBlock ∧ !(blkAt x b).retired then some b else bestErased x
  | none => bestErased x

def programs (x : FTarget) : Nat := (x.queue.filter (fun o => match o.2 with | .program _ => true | _ => false)).length

/-- The target with the shortest program queue among those with erased space (R296). -/
def pickTarget (s : State) (n : Nat) : Option Nat :=
  (s.mem.targets.foldl (fun (o : Option (Nat × Nat)) e =>
    if (writeBlock s (e.1 / 8) (e.1 % 8) n e.2).isNone then o
    else match o with
      | none => some (e.1, programs e.2)
      | some (_, q) => if programs e.2 < q then some (e.1, programs e.2) else o) none).map (·.1)

/-- The block that a page would be stored to on a target. -/
def roomFor (s : State) (key : Nat) (p : FPage) : Option Nat :=
  (target? s (key / 8) (key % 8)).bind (fun x => writeBlock s (key / 8) (key % 8) (storedSize p.cmp p.side.isSome) x)

/-- Store a page in a block of a target (R295). -/
def storePage (key lpn : Nat) (p : FPage) (s : State) : State :=
  let c := key / 8
  let t := key % 8
  match roomFor s key p with
  | none => s
  | some b =>
    let s := updTarget c t (fun x => { updBlk b (fun k => { k with erased := false }) x with open_ := some b }) s
    { s with mem := { s.mem with
      pages := put s.mem.pages lpn { p with chan := c, tgt := t, block := b, wseq := s.mem.wseq }
      wseq := (s.mem.wseq + 1) % 2 ^ 32 } }

/-- Blocks of a target: retire one after a failed program or erase, or an uncorrectable unit (R297, R301). Its valid pages wait to be
relocated (R303). -/
def retireBlock (c t b : Nat) (s : State) : State :=
  match target? s c t with
  | none => s
  | some x =>
    if (blkAt x b).retired then s
    else bump (ctrNode 0x4C) (updTarget c t (fun x => { updBlk b (fun k => { k with retired := true }) x with
      open_ := if x.open_ = some b then none else x.open_, queue := x.queue ++ [(4, FlashOp.relocate b)] }) s)

/-- Units of 1 KiB that a stored page holds: of its stream, and four of its side block (R286, R297, R308). -/
def unitsIn (p : FPage) : Nat := 64 / 2 ^ p.cmp + b2n p.side.isSome * 4

-- DESIGN CHOICE, safe, log entry 89.
/-- An array read of a logical page (R300, R308): its block's count, and the units that the LDPC code corrected, of which the spec says only
that they are counted. -/
def arrayRead (lpn : Nat) (s : State) : State :=
  match look s.mem.pages lpn with
  | none => s
  | some p =>
    let (v, s) := takeFree (updTarget p.chan p.tgt (updBlk p.block (fun b => { b with reads := b.reads + 1 })) s)
    bumpBy (ctrNode 0x40) (v.toNat % (unitsIn p + 1)) s

/-! ### The codec (R285 to R292) -/

/-- A format of the 6-bit or 4-bit rate class (R259). -/
def narrow (code : Nat) : Bool := decide (fmtBits code < 8)

/-- Elements of a region of page bytes, as patterns. -/
def regionElems (code : Nat) (bs : List Byte) (o n : Nat) : List Nat := unpack code bs o n

/-- The mode of a page's demotion (R287). -/
def cmpFor (g : W64) (mode : Nat) (data : List Byte) : Nat :=
  let n := geomT g * geomW g
  if mode = 0 ∨ narrow (geomK g) ∨ narrow (geomV g) then 0
  else if ((regionElems (geomK g) data 0 n).any (fun p => decElem (geomK g) p == .nan))
      || ((regionElems (geomV g) data 32768 n).any (fun p => decElem (geomV g) p == .nan)) then 0
  else mode

/-- The loss bound of R288 by rate class and mode. -/
def lossEps (code mode : Nat) : Rat :=
  if fmtBits code = 16 then (if mode = 1 then 1 / 256 else 1 / 16) else (if mode = 1 then 1 / 16 else 1 / 4)

-- DESIGN CHOICE, safe, log entry 78.
/-- An 8-bit or 16-bit region after one pass: each element as the codec gives it when that lies within the bound and is an encoding
that quantisation can give (R233), else unchanged. Blocks to keep stay as they are (R289). -/
def codecRegion (code mode o n : Nat) (keep : Nat → Bool) (src dec : List Byte) : List Byte :=
  let b := fmtBits code / 8
  let old := regionElems code src o n
  let new := regionElems code dec o n
  (nats n).flatMap (fun i =>
    let blk := (old.drop (i / 32 * 32)).take 32
    let a := blk.foldl (fun (m : Rat) p => max m |(decElem code p).val|) 0
    let x := old.getD i 0
    let y := new.getD i 0
    let lowest := code == 11 && y == 0x80
    let ok := (decElem code y).isFin && !lowest && decide (|(decElem code y).val - (decElem code x).val| ≤ lossEps code mode * a)
    leBytes (if ok && !keep ((o + i / 32 * 32 * b) / 32) then y else x) b)

/-- Page data after a pass of the codec, sub-stream by sub-stream (R286). A block none of whose codewords was written since it was decoded at
this mode gives the same stream again (R289). -/
def codecImage (g : W64) (mode : Nat) (mark : Option Dec) (data : List Byte) : List Byte :=
  if mode = 0 then data
  else
    let n := geomT g * geomW g
    let sub := (nats 64).flatMap (fun i => (nats 1024).map (Config.codec mode g.toNat i (slice data (1024 * i) 1024)))
    let keep := fun (code cw : Nat) => match mark with
      | some d => d.mode == mode && !(nats (fmtBits code / 8)).any (fun j => d.written.contains (cw + j))
      | none => false
    fit (codecRegion (geomK g) mode 0 n (keep (geomK g)) data sub) 32768 ++ fit (codecRegion (geomV g) mode 32768 n (keep (geomV g)) data sub) 32768

def cellsOf (bs : List Byte) : List (Nat × Byte) := (bs.zipIdx.filter (fun b => b.1 != 0)).map (fun b => (b.2, b.1))
def bytesOf (cs : List (Nat × Byte)) (n : Nat) : List Byte := (nats n).map (fun i => lookD 0 cs i)

/-- Sub-stream i of a page's stream (R286): its part of the data at CMP 0b00, else as the codec encodes it. -/
def subStream (g : W64) (cmp i : Nat) (data : List Byte) : List Byte :=
  let part := slice data (1024 * i) 1024
  if cmp = 0 then part else (nats (1024 / 2 ^ cmp)).map (Config.codecStream cmp g.toNat i part)

/-- The tweak of a data unit (R307): its number, as 16 bytes, the least significant first. -/
def flashTweak (lpn unit : Nat) : List Byte := leBytes (lpn * 128 + unit) 16

-- DESIGN CHOICE, safe, log entry 155.
/-- The encrypted data units of a page (R307): each sub-stream, and each quarter of its side block, under the flash key by the tweak. -/
def encryptPage (g : W64) (key : BitVec 512) (lpn : Nat) (p : FPage) : FPage :=
  let data := bytesOf p.data 65536
  let side := match p.side with
    | some c => (nats 4).map (fun q => (64 + q, xts key (flashTweak lpn (64 + q)) (slice (bytesOf c 4096) (1024 * q) 1024)))
    | none => []
  { p with units := (nats 64).map (fun i => (i, xts key (flashTweak lpn i) (subStream g p.cmp i data))) ++ side }

/-- The flash copy of a frame's page at a mode, not yet encrypted: what a promotion will give (R276, R285, R287, R289). -/
def flashCopy (g : W64) (td mode f : Nat) (m : Mem) : FPage × PRead :=
  let r := rdPage m f 0 65536
  let sd := rdPage m f 65536 4096
  let mode := cmpFor g mode r.bytes
  let mark := look m.decoded (frameIx f)
  ({ td := td, data := cellsOf (codecImage g mode mark r.bytes), side := if sd.bytes = defaultSide g then none else some (cellsOf sd.bytes)
     cmp := mode, units := [], dec := if mode = 0 then mark else some { mode := mode, written := [] }, bad := false
     chan := 0, tgt := 0, block := 0, wseq := 0 }, { bytes := [], corr := r.corr ++ sd.corr, bad := r.bad ++ sd.bad })

-- DEDUCED, unsafe, log entry 79.
/-- Write a flash page's contents into a frame (R275). -/
def loadFrame (g : W64) (p : FPage) (f : Nat) (m : Mem) : Mem :=
  let m := zeroFrame m (frameIx f)
  let m := (wrPage m f 0 (bytesOf p.data 65536)).1
  let m := (wrPage m f 65536 (match p.side with | some c => bytesOf c 4096 | none => defaultSide g)).1
  match p.dec with
  | some d => { m with decoded := put m.decoded (frameIx f) d }
  | none => m

-- DESIGN CHOICE, unsafe, log entry 162.
/-- What encodes a page that leaves a die's stacks (R291): a cluster of the domain on that die, else on the other, else the codec engine. -/
def encoder (s : State) (td die : Nat) : Option Nat := (groupOf s td die ++ groupOf s td (1 - die)).head?

/-- Ways of a cluster hold data (R173). -/
def useWays (c : Nat) (ws : List Nat) (s : State) : State :=
  updClus c (fun k => { k with ways := k.ways ++ ws.filter (fun w => !k.ways.contains w) }) s

/-- Encoding on a cluster takes its ways 14 and 15 (R173, R291). -/
def encodeOn (td die : Nat) (s : State) : State := match encoder s td die with | some c => useWays c [14, 15] s | none => s

/-! ### Pages of a sequence by tier -/

/-- The entry in force of a page, when the walk gives one. -/
def effLeaf (s : State) (d : SeqD) (pix : Nat) : Option Leaf :=
  match walk s d pix with
  | .page _ e => some e
  | _ => none

/-- Page indices with a leaf entry, runs included. -/
def mappedPages (d : SeqD) : List Nat :=
  d.l2.flatMap (fun e => match e.2.run with
    | some _ => (nats (64 * (e.2.len + 1))).map (fun i => e.1 * 0x400 + i)
    | none => (d.leaves.filter (fun l => lhOf l.1 == e.1)).map (·.1))

/-- Pages of layers lo to hi that lie in flash. -/
def flashPages (s : State) (d : SeqD) (lo hi : Nat) : List Nat :=
  (mappedPages d).filter (fun p => decide (lo ≤ pixLayer p ∧ pixLayer p ≤ hi) && (match effLeaf s d p with | some e => e.tier == .flash | none => false))

def hasFlash (s : State) (d : SeqD) (lo hi : Nat) : Bool := !(flashPages s d lo hi).isEmpty

/-- The index of the page record that a leaf points to. -/
def recordOf (s : State) (td seqn pix : Nat) : Option Nat :=
  ((seq? s td seqn).bind (fun d => leafOf d pix)).bind (fun l => if l.tier = .shared then some l.frame else none)

/-- The page's leaf entry is being changed, or the record that it points to (R71, R83, R355). -/
def isMoving (s : State) (td seqn pix : Nat) : Bool :=
  s.mem.chgs.any (fun c => c.td == td && ((c.seqn == seqn && c.page == pix) || (c.record.isSome && c.record == recordOf s td seqn pix)))

/-- A private copy of the record is being made. -/
def copying (s : State) (td : Nat) (record : Option Nat) : Bool :=
  record.isSome && s.mem.chgs.any (fun c => c.kind == .cow && c.td == td && c.record == record)

/-! ### Eviction (R270 to R273, R356) -/

def tierWin (s : State) (td : Nat) : Nat := fld ((dom s td).tier.getD 0 0) 55 52
def tierMinres (s : State) (td : Nat) : Nat := fld ((dom s td).tier.getD 0 0) 31 16 * 1000000
def tierLo (s : State) (td : Nat) : Nat := fld ((dom s td).tier.getD 0 0) 15 8
def tierHi (s : State) (td : Nat) : Nat := fld ((dom s td).tier.getD 0 0) 7 0
def tierCmpm (s : State) (td : Nat) : Nat := fld ((dom s td).tier.getD 0 0) 63 62
def tierHalf (s : State) (td : Nat) : Nat := fld ((dom s td).tier.getD 0 0) 47 32
def tierFwt (s : State) (td : Nat) : Nat := fld ((dom s td).tier.getD 1 0) 63 56

/-- The active staging window protects the layer. -/
def inWindow (s : State) (d : SeqD) (layer : Nat) : Bool :=
  let w := d.wake
  (w.st == .staging || (w.st == .waiting && decide (s.now < w.tstage + tierMinres s d.td)))
    && decide (w.wl ≤ layer ∧ layer ≤ min (w.wl + tierWin s d.td - 1) d.nlayer)

/-- Requests accepted and not yet answered. -/
def busySeq (s : State) (td seqn : Nat) : Bool := s.att.reqs.any (fun r => r.td == td && r.seqn == seqn && r.stage != .done)

/-- The page may be demoted (R270), the flash share apart. -/
def demotable (s : State) (d : SeqD) (pix : Nat) : Bool :=
  match walk s d pix with
  | .page l e =>
    e.tier == .dram && !e.psn && codeChan s (frChan e.frame) == .good && !isMoving s d.td d.seqn pix && !inWindow s d (pixLayer pix)
      && (l.tier == .dram || (match record? s d.td l.frame with | some r => r.ref == 1 | none => false))
  | _ => false

/-- Order of pages within a victim (R272): ascending heat, then descending layer, head and token page. -/
def demoteBefore (s : State) (d : SeqD) (a b : Nat) : Bool :=
  let ha := match effLeaf s d a with | some e => e.heat | none => 0
  let hb := match effLeaf s d b with | some e => e.heat | none => 0
  decide (ha < hb ∨ (ha = hb ∧ b < a))

def bestPage (s : State) (d : SeqD) : Option Nat :=
  ((mappedPages d).filter (demotable s d)).foldl (fun o p => match o with
    | none => some p
    | some q => if demoteBefore s d p q then some p else o) none

/-- A victim page: of a sequence, or a record of a group held by RTN alone. -/
inductive Victim where
  | page (td seqn pix : Nat)
  | record (td ix : Nat)
  deriving DecidableEq, Repr

/-- Records of a retained group that nothing else refers to, in the order of R272. -/
def bestRecord (s : State) (g : Group) : Option Nat :=
  let per := g.nhead + 1
  (g.recs.filter (fun r => r.2.leaf.tier == .dram && !r.2.bad && r.2.ref == 0
      && !s.mem.chgs.any (fun c => c.record == some r.1 && c.td == g.td))).foldl (fun o r => match o with
    | none => some r
    | some q =>
      let rank := fun (x : Nat × PRec) => (x.2.leaf.heat, per * 256 - (x.1 - g.sidx - 2))
      if (rank r).1 < (rank q).1 ∨ ((rank r).1 = (rank q).1 ∧ (rank r).2 < (rank q).2) then some r else o) none |>.map (·.1)

def onlyRtn (s : State) (g : Group) : Bool :=
  match groupEntry? s g with
  | some e => e.rtn && e.ref == 1 && e.st == .live && !g.freeing
  | none => false

-- DESIGN CHOICE, unsafe, log entry 163.
/-- Victims in ascending TLAST (R272, R356); `quiet` skips those attended within MINRES (R271). -/
def victim (s : State) (td : Nat) (quiet : Bool) : Option Victim :=
  let recent := fun t => quiet && decide (s.now < t + tierMinres s td)
  let sq : List (Nat × Victim) := (s.seqs.filter (fun x => x.2.td == td && !busySeq s td x.2.seqn && !recent x.2.tlast)).filterMap (fun x =>
    (bestPage s x.2).map (fun p => (x.2.tlast, Victim.page td x.2.seqn p)))
  let gs : List (Nat × Victim) := (s.pfx.groups.filter (fun g => g.td == td && onlyRtn s g && !recent g.last)).filterMap (fun g =>
    (bestRecord s g).map (fun ix => (g.last, Victim.record td ix)))
  if !shareFree s td then none
  else ((sq ++ gs).foldl (fun (o : Option (Nat × Victim)) v => match o with
    | none => some v
    | some w => if v.1 < w.1 then some v else o) none).map (·.2)

/-! ### Changes of leaf entries (R71) -/

def addChg (c : Chg) (s : State) : State :=
  { s with mem := { s.mem with chgs := s.mem.chgs ++ [{ c with id := s.mem.nextChg }], nextChg := s.mem.nextChg + 1 } }
def chg? (s : State) (cid : Nat) : Option Chg := s.mem.chgs.find? (fun c => c.id == cid)
def updChg (cid : Nat) (f : Chg → Chg) (s : State) : State :=
  { s with mem := { s.mem with chgs := s.mem.chgs.map (fun c => if c.id = cid then f c else c) } }
def dropChg (cid : Nat) (s : State) : State := dropChgs (fun c => c.id == cid) s

def chgOf (kind : ChgKind) (td seqn pix src dst : Nat) (record : Option Nat) : Chg :=
  { id := 0, kind := kind, td := td, seqn := seqn, page := pix, src := src, dst := dst, cmp := 0, rewritten := false, users := [],
    staged := false, rebal := false, record := record, issued := false }

/-- Frames that a change of leaf entry holds, and its logical flash pages. A copy made from flash is marked by `cmp` 1. -/
def Chg.frames (c : Chg) : List Nat :=
  match c.kind with
  | .move => [c.src, c.dst]
  | .cow => if c.cmp = 0 then [c.src, c.dst] else [c.dst]
  | .promote => [c.dst]
  | .demote => [c.src]
def Chg.flash (c : Chg) : List Nat :=
  match c.kind with
  | .move => []
  | .cow => if c.cmp = 0 then [] else [c.src]
  | .promote => [c.src]
  | .demote => [c.dst]

/-- A page of a request's work was translated to a frame and is still to be read there: on a unit, in a cluster's share, or on Zephyr. Work
that waits for appends is translated again when the wait ends (R96, R151, R183). -/
def usesFrame (s : State) (r : Req) (f : Nat) : Bool :=
  let hit := fun (p : PageRef) => match p.leaf with | some l => l.tier == .dram && l.frame == f && !pageWaits s r p.k p.tpage | none => false
  r.unitLeft.any hit || r.zphLeft.any hit || s.att.gcmds.any (fun g => g.rid == r.id && g.share.any (fun x => x.2.any hit))

/-- Requests that still use a frame by an earlier translation. -/
def frameUsers (s : State) (f : Nat) : List Nat := (s.att.reqs.filter (fun r => usesFrame s r f)).map (·.id)

-- DEDUCED, unsafe, log entry 67.
/-- Leaf or record written with a new place. -/
def relocate (td seqn pix : Nat) (record : Option Nat) (f : Leaf → Leaf) (s : State) : State :=
  match record with
  | some ix => updRecord td ix (fun r => { r with leaf := f r.leaf }) (voidRecord td ix s)
  | none => updLeafAt td seqn pix f (voidPage td seqn pix s)

/-- Appends and raw writes queued for a page leave their units: a change of its leaf entry holds them (R71, R150). -/
def holdAppends (td seqn pix : Nat) (record : Option Nat) (s : State) : State :=
  let hit := fun (t sq p : Nat) => t == td && ((sq == seqn && p == pix) || (record.isSome && recordOf s td sq p == record))
  dropOps (fun o => match o with
    | .append i k t => (match req? s i with | some r => hit r.td r.seqn (pageIx r.layer (headOf r k) t) | none => false)
    | .raw i => s.mbx.cmds.any (fun c => c.id == i && rawWrites c
        && (let a := Sva.ofNat (le c.body 8 8); hit a.td a.seqn (pageIx a.layer a.head a.tpage)))
    | _ => false) s

/-- A program queues on a target (R296). -/
def queueProgram (k cid : Nat) (s : State) : State :=
  updTarget (k / 8) (k % 8) (fun x => { x with queue := x.queue ++ [(3, FlashOp.program cid)] }) s

/-- Start a demotion: the program waits on its target (R276, R296). Shared pages rewrite their record (R355). -/
def startDemotion (v : Victim) (forced : Bool) (s : State) : State :=
  let go := fun (td seqn pix : Nat) (record : Option Nat) (e : Leaf) (d : Option SeqD) =>
    let lpn := match d with
      | some d => chooseLpn s d pix
      | none => (nats s.mem.flsCap).find? (fun n => !lpnUsed s n)
    match lpn, pickTarget s (storedSize 0 true) with
    | some n, some k =>
      let cid := s.mem.nextChg
      queueProgram k cid (addChg { chgOf .demote td seqn pix e.frame n record with cmp := tierCmpm s td, staged := forced }
        (holdAppends td seqn pix record s))
    | _, _ => s
  match v with
  | .page td seqn pix => match seq? s td seqn with
    | some d => match walk s d pix with
      | .page l e => go td seqn pix (if l.tier = .shared then some l.frame else none) e (some d)
      | _ => s
    | none => s
  | .record td ix => match record? s td ix with
    | some r => go td 0x40000 0 (some ix) r.leaf none
    | none => s

/-- The leaf's pages in order when it may collapse (R51): every one in flash, unpoisoned, unshared, at one mode, none being changed. -/
def collapsible (s : State) (d : SeqD) (lh : Nat) : Option (List Leaf) :=
  match look d.l2 lh with
  | none => none
  | some e =>
    let ls := (nats (64 * (e.len + 1))).filterMap (fun i => look d.leaves (lh * 0x400 + i))
    if e.run.isNone && ls.length == 64 * (e.len + 1) && ls.all (fun l => l.tier == .flash && !l.psn && l.cmp == (ls.map (·.cmp)).getD 0 0)
        && (nats ls.length).all (fun i => !isMoving s d.td d.seqn (lh * 0x400 + i)) then some ls else none

/-- Logical pages that lie in one row from the first on. -/
def inRow (ls : List Leaf) : Bool := ls.zipIdx.all (fun e => e.1.frame == (ls.map (·.frame)).getD 0 0 + e.2)

/-- A page takes another logical number: it is read (R300), encrypted anew (R307) and written again. -/
def renameLpn (g : W64) (old new : Nat) (s : State) : Option State :=
  match look s.mem.pages old, pickTarget s (storedSize 0 true) with
  | some p, some k =>
    match roomFor s k p with
    | some _ => some (storePage k new (encryptPage g s.mem.flashKey new p) (freeFlash old (arrayRead old s)))
    | none => none
  | _, _ => none

/-- Put a leaf's pages into a row of free logical pages, in order: the first page's number, none without room. -/
def lineUp (g : W64) (ls : List Leaf) (s : State) : Option (Nat × State) :=
  if inRow ls then some ((ls.map (·.frame)).getD 0 0, s)
  else match (nats (s.mem.flsCap + 1 - ls.length)).find? (fun b => (nats ls.length).all (fun i => !lpnUsed s (b + i))) with
    | none => none
    | some b => (ls.zipIdx.foldl (fun (o : Option State) e => o.bind (renameLpn g e.1.frame (b + e.2))) (some s)).map (fun s => (b, s))

/-- The run's level-2 entry takes the place of the leaf (R51, R52). -/
def setRun (lh base : Nat) (ls : List Leaf) (d : SeqD) : SeqD :=
  let l0 := (ls.map (·.gen)).getD 0 0
  let g := ls.foldl (fun g l => if serLt 16 g l.gen then l.gen else g) l0
  match look d.l2 lh with
  | some e => { setL2 lh { e with tier := .flash, gen := (g + 1) % 2 ^ 16, cmp := (ls.map (·.cmp)).getD 0 0, frame := base } d with
      leaves := d.leaves.filter (fun e => lhOf e.1 != lh) }
  | none => d

/-- Collapse of a leaf that lies wholly in flash (R51, R52). -/
def tryCollapse (td seqn lh : Nat) (s : State) : State :=
  match (seq? s td seqn).bind (fun d => collapsible s d lh) with
  | none => s
  | some ls => match lineUp (dom s td).geom ls s with
    | none => s
    | some (b, s) => wcSync td seqn (updSeq td seqn (setRun lh b ls) s)

/-- Every leaf of a sequence that may collapse does (R51): where a row of logical pages was wanting or a page was being changed before, it is
tried again. -/
def collapseSeq (td seqn : Nat) (s : State) : State :=
  match seq? s td seqn with
  | some d => d.l2.foldl (fun s e => tryCollapse td seqn e.1 s) s
  | none => s

/-- A demotion whose frame holds an uncorrectable codeword is abandoned: the page, or the record, is poisoned (R83, R315). -/
def failDemotion (c : Chg) (a : Nat) (s : State) : State :=
  let s := dropChg c.id s
  match c.record with
  | some ix => report { err0 2 0x0020 (a - pageAddr c.src) with td := some c.td, lkind := 1, loc := c.src } (poisonRecord c.td ix s)
  | none => poisonPage c.td c.seqn c.page 1 c.src (a - pageAddr c.src) 0 s

/-- End of a demotion whose program is confirmed on a target: the leaf takes TIER flash (R276). The old frame returns at t2. -/
def demoteDone (c : Chg) (key : Nat) (s : State) : State :=
  let g := (dom s c.td).geom
  let (p, r) := flashCopy g c.td c.cmp c.src s.mem
  let s := noteRead r s
  match r.bad with
  | a :: _ => failDemotion c a s
  | [] =>
    if (roomFor s key p).isNone then s
    else
      let s := storePage key c.dst (encryptPage g s.mem.flashKey c.dst p) (encodeOn c.td (frDie c.src) s)
      let s := relocate c.td c.seqn c.page c.record (fun l => { l with tier := .flash, frame := c.dst, cmp := p.cmp }) s
      bump (ctrTd c.td 0x044) (updChg c.id (fun x => { x with rewritten := true, users := frameUsers s c.src }) s)

/-- A change of leaf entry ends: its old frame, if any, returns to the pool (R71, R72); leaves that lie wholly in flash collapse (R51). -/
def endChg (c : Chg) (s : State) : State :=
  collapseSeq c.td c.seqn (dropChg c.id (if c.kind = .promote ∨ c.kind = .cow then s else giveFrame c.src s))

/-- A demotion's program is on no target's queue any more. -/
def dropProgram (cid : Nat) (s : State) : State :=
  { s with mem := { s.mem with targets := s.mem.targets.map (fun t => (t.1, { t.2 with queue := t.2.queue.filter (fun o => o.2 != FlashOp.program cid) })) } }

/-- The channel of a change's source or new frame retrains: the copy waits (R332). -/
def chgRetrains (s : State) (c : Chg) : Bool := c.frames.any (fun f => (ch s (frChan f)).retraining)

/-- A demotion in progress is carried out at once on a target: the page leaves its frame, unless work still uses it. While its channel retrains it
waits. -/
def finishDemotion (cid k : Nat) (s : State) : State :=
  match chg? s cid with
  | none => s
  | some c =>
    if chgRetrains s c then s
    else
      let s := demoteDone c k (dropProgram cid s)
      match chg? s cid with
      | some c => if !c.rewritten then dropChg cid s else if (frameUsers s c.src).isEmpty then endChg c s else s
      | none => s

/-- A page is demoted at once. -/
def demoteTo (v : Victim) (k : Nat) (forced : Bool) (s : State) : State := finishDemotion s.mem.nextChg k (startDemotion v forced s)

/-- A demotion of the domain is in progress: a frame will be free (R273, R282). -/
def demoting (s : State) (td : Nat) : Bool := s.mem.chgs.any (fun c => c.kind == .demote && c.td == td)

-- DESIGN CHOICE, unsafe, log entry 66.
/-- One forced demotion within an allocation (R273): of one in progress, which ends, or of the next victim; none where neither is to be had. -/
def demoteNow (td : Nat) (s : State) : Option State :=
  match pickTarget s (storedSize 0 true) with
  | none => none
  | some k =>
    match s.mem.chgs.find? (fun c => c.kind == .demote && c.td == td && !c.rewritten && !chgRetrains s c) with
    | some c => some (finishDemotion c.id k s)
    | none => (victim s td false).map (fun v => demoteTo v k true s)

/-- Demotions one after the other until the page has a place, or none is left: a page found poisoned frees none (R273). -/
def demoteFor (td seqn pix : Nat) : Nat → State → State
  | 0, s => s
  | n + 1, s =>
    if (place s td seqn pix none).isSome then s
    else match demoteNow td s with
      | some s => demoteFor td seqn pix n s
      | none => s

/-- Room for a page in the pool: forced demotion where no frame is free (R273, R308, R318). -/
def forceRoom (td seqn pix : Nat) (s : State) : State :=
  if (place s td seqn pix none).isSome || (demoteNow td s).isNone then s
  else demoteFor td seqn pix (poolFrames s td + 1) (bump (ctrTd td 0x048) s)

/-- A frame for a page: placed, after forced demotion when the pool holds none (R80, R273, R318). -/
def allocFrame (td seqn pix : Nat) (s : State) : Option (Nat × State) :=
  let s := forceRoom td seqn pix s
  (place s td seqn pix none).map (fun f => (f, takeFrame f s))

/-- A frame could be had for the domain: one free, one that a demotion in progress frees, or one that forced demotion would free (R273, R282). -/
def frameToBeHad (s : State) (td : Nat) : Bool :=
  (place s td 0 0 none).isSome || demoting s td || ((victim s td false).isSome && (pickTarget s (storedSize 0 true)).isSome)

/-! ### Promotion (R83, R159, R275) -/

def heatOf (l : Leaf) : Leaf := { l with heat := min 15 (l.heat + 1) }

/-- Adds to a page's heat (R267); a page of a collapsed run carries none (R268). -/
def heatUp (td seqn pix : Nat) (s : State) : State :=
  match (seq? s td seqn).bind (fun d => leafOf d pix) with
  | some l =>
    if l.tier = .shared then
      (match groupAt s td l.frame with
       | some g => updGroup td g.sidx (fun g => { g with recs := modify g.recs l.frame (fun r => { r with leaf := heatOf r.leaf }) }) s
       | none => s)
    else if l.tier = .dram ∨ l.tier = .flash then updSeq td seqn (fun d => { d with leaves := modify d.leaves pix heatOf }) s else s
  | none => s

/-- Poison of a page whose flash copy holds an uncorrectable unit, or of its record (R297, R298, R357). -/
def poisonFlash (td seqn pix : Nat) (record : Option Nat) (loc info : Nat) (s : State) : State :=
  match record with
  | some ix => report { err0 2 0x0020 info with td := some td, sva := if seqn < 0x40000 then svaOf td seqn pix else 0, lkind := 5, loc := loc } (poisonRecord td ix s)
  | none => poisonPage td seqn pix 5 loc info 0 s

/-- An uncorrectable unit of a logical page (R297, R298, R308, R618): which unit is free, FLS_UNCORR counts one at least, the page is poisoned, requests that wait
for it compute it so. -/
def flashPoison (td seqn pix : Nat) (record : Option Nat) (lpn : Nat) (s : State) : State :=
  let p := look s.mem.pages lpn
  let loc := match p with | some p => p.chan * 2 ^ 25 + p.tgt * 2 ^ 22 + p.block | none => 0
  let (v, s) := takeFree s
  let (u, s) := takeFree s
  let n := match p with | some p => 1 + v.toNat % unitsIn p | none => 1
  let unit := match p with | some p => u.toNat % unitsIn p | none => 0
  let s := { s with mem := { s.mem with pages := modify s.mem.pages lpn (fun p => { p with bad := true }) } }
  let s := if record.isSome then s else updSeq td seqn (expandRun (lhOf pix)) s
  landPoison td seqn pix (poisonFlash td seqn pix record loc (1024 * unit) (bumpBy (ctrNode 0x44) n s))

/-- An uncorrectable unit on a promotion or a direct read: the block's other valid pages are relocated and the block is retired (R297). -/
def flashBad (td seqn pix : Nat) (record : Option Nat) (lpn : Nat) (s : State) : State :=
  let s' := flashPoison td seqn pix record lpn s
  match look s.mem.pages lpn with
  | some p => retireBlock p.chan p.tgt p.block s'
  | none => s'

/-- The frames of a change lie in one bank pair: its copy is an operation of that pair's unit (R18, R129). -/
def Chg.inPair (c : Chg) : Bool :=
  (c.kind == .move || (c.kind == .cow && c.cmp == 0)) && frUnit c.src == frUnit c.dst

/-- A copy within a bank pair goes to its unit's queue (R18, R129). -/
def queueCopy (cid src dst : Nat) (s : State) : State :=
  if frUnit src = frUnit dst then enqueueUnit (frUnit dst) (.copy cid) s else s

/-- A read of a page's flash copy queues on its target (R275, R303). -/
def queueRead (lpn cid : Nat) (s : State) : State :=
  match look s.mem.pages lpn with
  | some p => updTarget p.chan p.tgt (fun x => { x with queue := x.queue ++ [(1, FlashOp.readChg cid)] }) s
  | none => s

/-- The flash copy cannot be read: it is known bad, or its target is gone (R297, R696). -/
def flashGone (s : State) (lpn : Nat) : Bool :=
  match look s.mem.pages lpn with
  | some p => p.bad || (target? s p.chan p.tgt).isNone
  | none => true

/-- A direct read of a logical page queues on its target (R274, R303), unless it is queued or its decoded copy stands in staging SRAM. -/
def queueDirect (lpn : Nat) (s : State) : State :=
  match look s.mem.pages lpn with
  | some p =>
    if s.mem.direct.contains lpn || s.mem.targets.any (fun t => t.2.queue.any (fun o => o.2 == .direct lpn)) then s
    else updTarget p.chan p.tgt (fun x => { x with queue := x.queue ++ [(1, FlashOp.direct lpn)] }) s
  | none => s

-- DEDUCED, unsafe, log entry 138.
/-- Start a promotion that a command needs: a frame is reserved and the read queued (R83, R275, R282); 7 without a frame. The page is Moving
until it ends. A copy that cannot be read poisons the page. -/
def startPromotion (td seqn pix : Nat) (s : State) : Nat × State :=
  match seq? s td seqn with
  | none => (3, s)
  | some d => match walk s d pix with
    | .page l e =>
      let record := if l.tier = .shared then some l.frame else none
      if e.tier ≠ .flash ∨ e.psn ∨ isMoving s td seqn pix then (0, s)
      else if flashGone s e.frame then (0, flashBad td seqn pix record e.frame s)
      else match allocFrame td seqn pix s with
        | none => (7, s)
        | some (f, s) =>
          let cid := s.mem.nextChg
          (0, queueRead e.frame cid (addChg (chgOf .promote td seqn pix e.frame f record) (updSeq td seqn (expandRun (lhOf pix)) s)))
    | _ => (0, s)

/-- Contents of a page as bytes [0, 69632), zeros in place of what cannot be read; and the codewords met. -/
def pageImage (s : State) (td : Nat) (e : Leaf) : List Byte × PRead :=
  match e.tier with
  | .dram =>
    let r := rdPage s.mem e.frame 0 69632
    (r.bytes, { r with bytes := [] })
  | .flash => match look s.mem.pages e.frame with
    | some p => (bytesOf p.data 65536 ++ (match p.side with | some c => bytesOf c 4096 | none => defaultSide (dom s td).geom), { bytes := [], corr := [], bad := [] })
    | none => (zeros 69632, { bytes := [], corr := [], bad := [] })
  | _ => (zeros 69632, { bytes := [], corr := [], bad := [] })

-- DEDUCED, unsafe, log entry 139.
/-- A private copy of a shared page begins (R71, R83, R137): its frame is reserved, and the copy is made from the shared frame, or read from
flash. `cmp` 1 marks the latter. A poisoned one gets a zeroed frame. -/
def startCopy (td seqn pix : Nat) (l e : Leaf) (s : State) : Nat × State :=
  match allocFrame td seqn pix s with
  | none => (7, s)
  | some (f, s) =>
    let cid := s.mem.nextChg
    let flash := e.tier == .flash && !e.psn
    let s := addChg { chgOf .cow td seqn pix e.frame f (some l.frame) with cmp := b2n flash } s
    (0, if flash then queueRead e.frame cid s else if e.tier = .dram then queueCopy cid e.frame f s else s)

/-- A private frame for a page that a write reaches (R80, R82, R83, R137): tables lengthened, a zeroed frame for an absent or zero page, a
promotion begun for a flash page (one of a collapsed run needs table space for its leaf), a private copy begun for a shared one; after the latter two the page is Moving and the write waits. Answers
the status of R106 on failure. A poisoned page in flash gets a zeroed frame and stays poisoned. -/
def ensureFrame (td seqn pix : Nat) (s : State) : Nat × State :=
  match seq? s td seqn with
  | none => (3, s)
  | some d =>
    let fresh := fun (g : Nat) (l : Leaf) (s : State) =>
      if !spaceFor s d pix then (8, s)
      else match allocFrame td seqn pix s with
        | none => (7, s)
        | some (f, s) => (0, setLeafAt td seqn pix { l with tier := .dram, frame := f, gen := g } s)
    let blank : Leaf := { tier := .dram, tdc := td, gen := 0, heat := 0, cmp := 0, shr := false, psn := false, frame := 0 }
    match walk s d pix with
    | .unmapped => (5, s)
    | .tcheck _ => (3, s)
    | .absent | .zero => match leafOf d pix with
      | some l => fresh l.gen l s
      | none => fresh 0 blank s
    | .page l e =>
      if isMoving s td seqn pix then (0, s)
      else if l.tier = .shared then startCopy td seqn pix l e s
      else if l.tier ≠ .flash then (0, s)
      else if !spaceFor s d pix then (8, s)
      else if l.psn then
        match allocFrame td seqn pix s with
        | none => (7, s)
        | some (f, s) => (0, setLeafAt td seqn pix { l with tier := .dram, frame := f, cmp := 0 } (freeFlash l.frame s))
      else startPromotion td seqn pix s

/-! ### Work that waited (R71, R72, R81, R96, R135, R151) -/

/-- The append stands in a unit's queue. -/
def appendQueued (s : State) (rid k tp : Nat) : Bool := s.att.units.any (fun u => u.2.contains (.append rid k tp))

/-- An append to the page issued before this request is itself still to be queued (R81). -/
def appendBehind (s : State) (r : Req) (pix : Nat) : Bool :=
  s.att.reqs.any (fun q => q.stage == .issued && decide (q.issueNo < r.issueNo) && q.td == r.td && q.seqn == r.seqn
    && q.appLeft.any (fun a => pageIx q.layer (headOf q a.1) a.2 == pix && !appendQueued s q.id a.1 a.2))

def dropAppend (rid : Nat) (a : Nat × Nat) (s : State) : State := updReq rid (fun r => { r with appLeft := r.appLeft.filter (· != a) }) s

/-- The page's own frame that an append goes to, its leaf entry not being changed. -/
def appendFrame (s : State) (td seqn pix : Nat) : Option Nat :=
  if isMoving s td seqn pix then none
  else ((seq? s td seqn).bind (fun d => leafOf d pix)).bind (fun l => if l.tier = .dram then some l.frame else none)

/-- Issue one APPEND of a request (R135), unless it waits: behind a fence (R151), behind an earlier append to the page (R81), for a change of the
page's leaf entry (R72), or for a frame. A failed tenant check drops it (R54, R96). -/
def issueAppend (rid : Nat) (a : Nat × Nat) (s : State) : State :=
  match req? s rid with
  | none => s
  | some r =>
    let pix := pageIx r.layer (headOf r a.1) a.2
    if fenceWaits s r || appendQueued s rid a.1 a.2 || appendBehind s r pix then s
    else match (seq? s r.td r.seqn).map (fun d => (d, walk s d pix)) with
      | none => dropAppend rid a s
      | some (d, .tcheck x) => dropAppend rid a (updReq rid (fun r => { r with tcheck := true }) (tcheckError d pix x r.tag s))
      | some (_, .unmapped) => dropAppend rid a s
      | _ =>
        let s := (ensureFrame r.td r.seqn pix s).2
        match appendFrame s r.td r.seqn pix with
        | some f => enqueueUnit (frUnit f) (.append rid a.1 a.2) s
        | none => s

/-- Issue the APPENDs of a request that can be. -/
def issueAppends (rid : Nat) (s : State) : State :=
  match req? s rid with
  | some r => if r.stage = .issued then r.appLeft.foldl (fun s a => issueAppend rid a s) s else s
  | none => s

/-- Appends and pages of requests that need wait no longer are issued, in order of issue, and fences are answered. -/
def settleWork (s : State) : State :=
  settleFences (issueHeldPages ((issuedReqs s).foldl (fun s r => if r.appLeft = [] then s else issueAppends r.id s) s))

/-! ### The end of a promotion (R275, R277, R297) -/

/-- The promotion's end: contents in the frame, the leaf or record takes TIER DRAM, the logical page is freed (R275, R277). -/
def promoteDone (c : Chg) (p : FPage) (s : State) : State :=
  let s := { s with mem := loadFrame (dom s c.td).geom p c.dst s.mem }
  let s := relocate c.td c.seqn c.page c.record (fun l => { l with tier := .dram, frame := c.dst, cmp := 0 }) s
  let s := bump (ctrTd c.td 0x040) (freeFlash c.src s)
  match (seq? s c.td c.seqn).bind (fun d => effLeaf s d c.page) with
  | some l => landPage c.td c.seqn c.page l s
  | none => s

/-- A shared page lands for every sequence whose requests wait for it (R355). -/
def landRecord (td ix : Nat) (s : State) : State :=
  (s.seqs.filter (fun x => x.2.td == td)).foldl (fun s x =>
    (x.2.leaves.filter (fun e => e.2.tier == .shared && e.2.frame == ix)).foldl (fun s e =>
      match (seq? s td x.2.seqn).bind (fun d => effLeaf s d e.1) with
      | some l => if l.tier = .flash ∧ !l.psn then s else landPage td x.2.seqn e.1 l s
      | none => s) s) s

/-- The private copy of a shared page takes the place of the reference (R64, R71): GEN + 1, its own frame. -/
def copyDone (c : Chg) (psn : Bool) (dec : Option Dec) (s : State) : State :=
  match (seq? s c.td c.seqn).bind (fun d => (leafOf d c.page).map (fun l => (l, effLeaf s d c.page))) with
  | none => s
  | some (l, e) =>
    let s := dropRecord c.td l.frame (voidPage c.td c.seqn c.page s)
    let s := setLeafAt c.td c.seqn c.page { tier := .dram, tdc := c.td, gen := (l.gen + 1) % 2 ^ 16, heat := (e.map (·.heat)).getD 0, cmp := 0
                                            shr := false, psn := psn, frame := c.dst } s
    let s := match dec with | some d => { s with mem := { s.mem with decoded := put s.mem.decoded (frameIx c.dst) d } } | none => s
    let s := match (seq? s c.td c.seqn).bind (fun d => leafOf d c.page) with | some l => landPage c.td c.seqn c.page l s | none => s
    settleWork (dropChg c.id (bump (ctrTd c.td 0x0A0) s))

/-- Operations of a sequence that translated a page before (R65). -/
def pageUsers (s : State) (td seqn f : Nat) : Bool := s.att.reqs.any (fun r => r.td == td && r.seqn == seqn && usesFrame s r f)

/-! ### Wakes and staging (R279 to R284) -/

def updWake (td seqn : Nat) (f : Wake → Wake) (s : State) : State := updSeq td seqn (fun d => { d with wake := f d.wake }) s

/-- Pages that accepted requests of the sequence need. -/
def neededPages (s : State) (d : SeqD) : List Nat :=
  let t := tokT s d.td
  s.att.reqs.flatMap (fun r => if r.td = d.td ∧ r.seqn = d.seqn ∧ r.stage ≠ .done then
    ((nats 64).filter (fun h => r.hmask.testBit h)).flatMap (fun h =>
      (nats ((r.rend + t - 1) / t)).filterMap (fun tp => if r.rstart / t ≤ tp then some (pageIx r.layer h tp) else none)) else [])

/-- Queue the flash pages of a layer: those that accepted requests need first, then by head and token page (R280). -/
def queueLayer (s : State) (d : SeqD) (l : Nat) (front : Bool) : SeqD :=
  let need := neededPages s d
  let ps := (flashPages s d l l).filter (fun p =>
    (match effLeaf s d p with | some e => !e.psn | none => false) && !d.wake.queue.contains p && !d.wake.issued.contains p)
  let ord := (ps.filter (need.contains ·)).mergeSort (fun a b => decide (a ≤ b)) ++ (ps.filter (fun p => !need.contains p)).mergeSort (fun a b => decide (a ≤ b))
  { d with wake := { d.wake with queue := if front then ord ++ d.wake.queue else d.wake.queue ++ ord } }

def stageLoop (s : State) : Nat → Nat → SeqD → SeqD
  | 0, _, d => d
  | n + 1, top, d =>
    if d.wake.next ≤ top then
      let d := queueLayer s d d.wake.next false
      stageLoop s n top { d with wake := { d.wake with next := d.wake.next + 1 } }
    else d

/-- The layers of the window are queued (R280). -/
def stageWindow (s : State) (d : SeqD) : SeqD := stageLoop s 256 (min (d.wake.wl + tierWin s d.td - 1) d.nlayer) d

def SeqD.wakeIdle (d : SeqD) : SeqD := { d with wake := { d.wake with st := .idle, queue := [], issued := [], waited := [] } }

/-- No read of the wake is queued or in flight: it waits (R280). -/
def SeqD.wakeWaits (d : SeqD) : SeqD :=
  if d.wake.queue = [] ∧ d.wake.issued = [] then { d with wake := { d.wake with st := .waiting } } else d

-- DEDUCED, unsafe, log entry 140.
/-- stage_issue of R280, as it runs at an acceptance. -/
def stageIssue (s : State) (d : SeqD) : SeqD :=
  let d := stageWindow s d
  if d.nlayer < d.wake.next ∧ !hasFlash s d 0 d.nlayer then d.wakeIdle else d.wakeWaits

/-- stage_issue at the end of a read, by the table of R283: with every read of the wake complete it becomes IDLE when no flash page of the sequence
remains, else WAITING. -/
def stageEnd (s : State) (d : SeqD) : SeqD :=
  let d := stageWindow s d
  if d.wake.queue = [] ∧ d.wake.issued = [] ∧ !hasFlash s d 0 d.nlayer then d.wakeIdle else d.wakeWaits

/-- stage_on_accept of R280: wakes take order numbers as they begin (R284). -/
def stageOnAccept (td seqn layer : Nat) (s : State) : State :=
  match seq? s td seqn with
  | none => s
  | some d =>
    let d := { d with wake := { d.wake with tstage := s.now } }
    let top := min (layer + tierWin s td - 1) d.nlayer
    if d.wake.st = .idle ∧ !hasFlash s d layer top then setSeq d s
    else
      let begun := decide (d.wake.st = .idle)
      let order := s.seqs.foldl (fun m x => max m (x.2.wake.order + 1)) 1
      let d := if begun then { d with wake := { d.wake with st := .staging, wl := layer, next := layer, order := order } } else d
      let s := if begun then bump (ctrTd td 0x050) s else s
      if layer < d.wake.wl then setSeq (queueLayer s d layer true) s
      else
        let d : SeqD := { d with wake := { d.wake with wl := layer, next := max d.wake.next layer } }
        let d : SeqD := if d.wake.st == .waiting && hasFlash s d layer top then { d with wake := { d.wake with st := .staging } } else d
        setSeq (stageIssue s d) s

/-- Release, truncation of window pages, migration away or revocation end a wake (R283): unissued reads are dropped. -/
def endWake (td seqn : Nat) (s : State) : State := updWake td seqn (fun w => { w with st := .idle, queue := [], issued := [], waited := [] }) s

/-- The first queued read of a wake that lies within its window as it stands (R264, R281). -/
def nextRead (s : State) (d : SeqD) : Option Nat := d.wake.queue.find? (fun p => decide (pixLayer p ≤ d.wake.wl + tierWin s d.td - 1))

/-- The domain's wake to serve: the one that began first (R284). -/
def nextWake (s : State) (td : Nat) : Option SeqD :=
  ((s.seqs.filter (fun x => x.2.td == td && (nextRead s x.2).isSome)).map (·.2)).foldl (fun o d => match o with
    | none => some d
    | some e => if d.wake.order < e.wake.order then some d else o) none

/-- Domains whose next staging read can be issued: it waits for no frame (R282, R284). -/
def stagingDoms (s : State) : List Nat :=
  (nats 64).filter (fun td => match nextWake s td with
    | some d => (place s td d.seqn ((nextRead s d).getD 0) none).isSome
    | none => false)

/-- Weighted round robin over domains (R284): a domain's turn, after a new round where every domain has had its weight. -/
def stagingTurn (s : State) (td : Nat) : Option State :=
  if (dom s td).staged < tierFwt s td then some (updDom td (fun d => { d with staged := d.staged + 1 }) s)
  else if (stagingDoms s).all (fun t => tierFwt s t ≤ (dom s t).staged) then
    some (updDom td (fun d => { d with staged := 1 }) ((stagingDoms s).foldl (fun s t => updDom t (fun d => { d with staged := 0 }) s) s))
  else none

/-- Take a queued read off its wake, and settle the wake if it was the last (R283). -/
def passRead (td seqn p : Nat) (s : State) : State :=
  let s := updWake td seqn (fun w => { w with queue := w.queue.filter (· != p), waited := w.waited.filter (· != p) }) s
  updSeq td seqn (stageEnd s) s

/-- STAGING_READ_ISSUE (R275, R281, R282): the domain's next staging read is issued once a frame is reserved for it. A page that has left flash
or is poisoned is passed over; one for which no frame can be had, and that no request needs, stays in flash. -/
def execStagingReadIssue (td : Nat) (s : State) : Res :=
  match nextWake s td with
  | none => .next s
  | some d => match nextRead s d with
    | none => .next s
    | some p =>
      match walk s d p with
      | .page l e =>
        let record := if l.tier = .shared then some l.frame else none
        if copying s td record then .next s
        else if e.tier ≠ .flash ∨ e.psn ∨ isMoving s td d.seqn p then .next (passRead td d.seqn p s)
        else if flashGone s e.frame then .next (settleWork (passRead td d.seqn p (flashBad td d.seqn p record e.frame s)))
        else match place s td d.seqn p none with
          | some f => match stagingTurn s td with
            | none => .next s
            | some s =>
              let s := takeFrame f (updWake td d.seqn (fun w => { w with queue := w.queue.filter (· != p), issued := w.issued ++ [p], waited := w.waited.filter (· != p) }) s)
              let cid := s.mem.nextChg
              let s := addChg { chgOf .promote td d.seqn p e.frame f record with staged := true } (updSeq td d.seqn (expandRun (lhOf p)) s)
              .next (queueRead e.frame cid s)
          | none => .next (if frameToBeHad s td || (neededPages s d).contains p then s else passRead td d.seqn p s)
      | _ => .next (passRead td d.seqn p s)

/-- STAGING_READ_COMPLETE (R280, R283): the read is no longer in flight, and staging goes on. -/
def execStagingReadComplete (td seqn page : Nat) (s : State) : Res :=
  match seq? s td seqn with
  | none => .next s
  | some d =>
    if !d.wake.issued.contains page ∨ s.mem.chgs.any (fun c => c.kind == .promote && c.td == td && c.seqn == seqn && c.page == page && !c.rewritten) then .next s
    else
      let d := { d with wake := { d.wake with issued := d.wake.issued.filter (· != page) } }
      .next (setSeq (if d.wake.st = .idle then d else stageEnd s d) s)

/-- WAKE_MINRES_EXPIRY (R283). -/
def execWakeMinresExpiry (td seqn : Nat) (s : State) : Res :=
  match seq? s td seqn with
  | some d => .next (if d.wake.st = .waiting ∧ d.wake.tstage + tierMinres s td ≤ s.now then endWake td seqn s else s)
  | none => .next s

/-! ### Demotion (R271, R273, R276, R278) -/

def pendingDemotes (s : State) (td : Nat) : Nat := (s.mem.chgs.filter (fun c => c.kind == .demote && c.td == td)).length

def demoteLoop (td : Nat) : Nat → State → State
  | 0, s => s
  | n + 1, s =>
    if tierHi s td * poolFrames s td ≤ 1024 * (freeFrames s td + pendingDemotes s td) then s
    else match victim s td true with
      | none => s
      | some v => demoteLoop td n (startDemotion v false s)

/-- The domain's free frames have not reached HIWAT (R271). -/
def belowHi (s : State) (td : Nat) : Bool := decide (1024 * freeFrames s td < tierHi s td * poolFrames s td)

/-- BACKGROUND_DEMOTION (R271): from below LOWAT on, pages are demoted as they become eligible, until the free frames reach HIWAT. -/
def execBackgroundDemotion (td : Nat) (s : State) : Res :=
  .next (if s.up && (decide (1024 * freeFrames s td < tierLo s td * poolFrames s td) || (dom s td).demoting) then
    updDom td (fun d => { d with demoting := belowHi s td }) (demoteLoop td (poolFrames s td) s) else s)

/-- FORCED_DEMOTION (R273, R282, R308): a staging read of the domain waits for a frame; it counts once in TIER_FORCED. -/
def execForcedDemotion (td : Nat) (s : State) : Res :=
  match nextWake s td with
  | none => .next s
  | some d =>
    let p := nextRead s d
    if (place s td d.seqn (p.getD 0) none).isSome then .next s
    else match victim s td false with
      | none => .next s
      | some v =>
        let k := p.getD 0
        let s := if d.wake.waited.contains k then s else bump (ctrTd td 0x048) (updWake td d.seqn (fun w => { w with waited := w.waited ++ [k] }) s)
        .next (startDemotion v true s)

/-- A program of a page fails at the place it would be stored to: that block is retired (R301). -/
def failProgram (c t : Nat) (p : FPage) (s : State) : State :=
  match roomFor s (8 * c + t) p with
  | some b => retireBlock c t b s
  | none => s

-- DEDUCED, unsafe, log entry 90.
/-- Copy the valid pages of a block elsewhere on its target, as they are encrypted (R298, R302, R307): each counts in FLS_RELOC. A page whose
program fails is written again at another place (R301). -/
def moveBlock (c t b : Nat) (bad failed : List Nat) (s : State) : State :=
  let s := updTarget c t (fun x => { x with open_ := if x.open_ = some b then none else x.open_ }) s
  (blockPages s c t b).foldl (fun s p =>
    let p2 := { p.2 with bad := p.2.bad || bad.contains p.1 }
    let s := arrayRead p.1 s
    let s := if failed.contains p.1 then failProgram c t p2 s else s
    match roomFor s (8 * c + t) p2 with
    | some _ => bump (ctrNode 0x48) (storePage (8 * c + t) p.1 p2 s)
    | none => { s with mem := { s.mem with pages := put s.mem.pages p.1 p2 } }) s

/-- The page or record that a logical page holds: sequence, page index, record. -/
def lpnOwner (s : State) (lpn : Nat) : Option (Nat × Nat × Nat × Option Nat) :=
  match s.pfx.groups.findSome? (fun g => (g.recs.find? (fun r => r.2.leaf.tier == .flash && r.2.leaf.frame == lpn)).map (fun r => (g.td, r.1))) with
  | some (td, ix) =>
    let at_ := s.seqs.findSome? (fun x => if x.2.td = td then
      (x.2.leaves.find? (fun e => e.2.tier == .shared && e.2.frame == ix)).map (fun e => (x.2.seqn, e.1)) else none)
    some (td, (at_.map (·.1)).getD 0x40000, (at_.map (·.2)).getD ix, some ix)
  | none => s.seqs.findSome? (fun x => ((mappedPages x.2).find? (fun p =>
      match leafOf x.2 p with | some l => l.tier == .flash && l.frame == lpn | none => false)).map (fun p => (x.2.td, x.2.seqn, p, none)))

/-- Pages of a relocated block that hold an uncorrectable unit are poisoned (R298). -/
def poisonLpns (l : List Nat) (s : State) : State :=
  l.foldl (fun s n => match lpnOwner s n with
    | some (td, sq, p, ix) => flashPoison td sq p ix n s
    | none => s) s

/-- Erase a block whose valid pages have gone; one that fails to erase is retired (R301). -/
def eraseBlock (c t b : Nat) (ok : Bool) (s : State) : State :=
  if !(blockPages s c t b).isEmpty then s
  else if ok then updTarget c t (updBlk b (fun k => { k with erases := k.erases + 1, reads := 0, erased := true, invalid := 0 })) s
  else retireBlock c t b s

/-- Those of some logical pages that lie in a block. -/
def badIn (s : State) (c t b : Nat) (bad : List Nat) : List Nat := bad.filter (fun n => (blockPages s c t b).any (fun p => p.1 == n))

/-- Relocate a block's valid pages and poison what cannot be read (R297, R298); work that a change then abandoned held goes on (R72). -/
def relocateBlock (c t b : Nat) (found : FlashFound) (s : State) : State :=
  settleWork (poisonLpns (badIn s c t b found.badPages) (moveBlock c t b (badIn s c t b found.badPages) found.failed s))

/-- Relocate a block, poison what cannot be read, and erase it (R298 to R302). -/
def recycle (c t b : Nat) (found : FlashFound) (s : State) : State :=
  settleWork (poisonLpns (badIn s c t b found.badPages)
    (eraseBlock c t b found.ok (moveBlock c t b (badIn s c t b found.badPages) found.failed s)))

/-- PROMOTION_COMPLETE (R275, R277, R297): the page's data reach its frame, or an uncorrectable unit poisons the page, the block's other
pages are relocated and the block is retired. A private copy read from flash ends so too (R137). -/
def execPromotionComplete (cid : Nat) (uncorrectable : Bool) (s : State) : Res :=
  match chg? s cid with
  | none => .next s
  | some c =>
    if (c.kind ≠ .promote ∧ c.kind ≠ .cow) ∨ (c.kind = .cow ∧ c.cmp = 0) ∨ !c.issued ∨ c.rewritten ∨ chgRetrains s c then .next s
    else match look s.mem.pages c.src with
      | none => .next (settleWork (flashPoison c.td c.seqn c.page c.record c.src (giveFrame c.dst (dropChg cid s))))
      | some p =>
        if uncorrectable || p.bad then .next (settleWork (flashBad c.td c.seqn c.page c.record c.src (giveFrame c.dst (dropChg cid s))))
        else if c.kind = .cow then .next (copyDone c false p.dec { s with mem := loadFrame (dom s c.td).geom p c.dst s.mem })
        else
          let s := promoteDone c p s
          let s := match c.record with | some ix => landRecord c.td ix s | none => s
          .next (updChg cid (fun x => { x with rewritten := true }) s)

/-- Target on which a program was issued. -/
def programTarget (s : State) (cid : Nat) : Option Nat :=
  (s.mem.targets.find? (fun t => t.2.queue.any (fun o => o.2 == FlashOp.program cid))).map (·.1)

/-- Write again at another location (R278): the program queues on the target with the shortest queue that has erased space, else on the same
one, until it has. -/
def requeueProgram (k cid : Nat) (s : State) : State :=
  queueProgram ((pickTarget s (storedSize 0 true)).getD k) cid (updChg cid (fun c => { c with issued := false }) (dropProgram cid s))

/-- DEMOTION_COMPLETE (R276, R278, R301): the program is confirmed, or its block is retired and the page written again. While a program
is in progress its operation stands at the head of its target with priority 0. -/
def execDemotionComplete (cid : Nat) (programOk : Bool) (s : State) : Res :=
  match chg? s cid with
  | none => .next s
  | some c =>
    match programTarget s cid with
    | none => .next s
    | some k =>
      let block := (target? s (k / 8) (k % 8)).bind (fun x => writeBlock s (k / 8) (k % 8) (storedSize 0 true) x)
      if c.kind ≠ .demote ∨ !c.issued ∨ c.rewritten ∨ chgRetrains s c then .next s
      else match block, programOk with
        | none, _ => .next (requeueProgram k cid s)
        | some _, true => .next (settleWork (demoteDone c k (dropProgram cid s)))
        | some b, false => .next (requeueProgram k cid (retireBlock (k / 8) (k % 8) b s))

/-! ### Flash operations (R299 to R304, R696) -/

/-- Operations that wait on a target, not those in progress. -/
def waitingOps (x : FTarget) : List (Nat × FlashOp) := x.queue.filter (fun o => o.1 != 0)

/-- The block that holds the most invalid data. -/
def worstBlock (x : FTarget) : Option Nat :=
  (x.blk.filter (fun b => 0 < b.2.invalid && !b.2.retired)).foldl (fun (o : Option (Nat × Nat)) b => match o with
    | none => some (b.1, b.2.invalid)
    | some (_, n) => if n < b.2.invalid then some (b.1, b.2.invalid) else o) none |>.map (·.1)

/-- Collection is forced on a target (R302, R305). -/
def collectionDue (s : State) (x : FTarget) : Bool :=
  decide (1024 * (erasedBlocks x).length < max 4 (fld s.mem.flsCtl 23 16) * x.blocks) && (worstBlock x).isSome

/-- A block's reads since its last erase have reached the threshold (R300), and its erase count trails the highest of its target by more than
1,024 (R299): it is due for relocation. -/
def disturbDue (s : State) (x : FTarget) (b : Nat) : Bool := decide (max 10 (fld s.mem.flsCtl 15 0) * 1000 ≤ (blkAt x b).reads)
def topErases (x : FTarget) : Nat := x.blk.foldl (fun m b => max m b.2.erases) 0
def wearDue (x : FTarget) (b : Nat) : Bool := decide ((blkAt x b).erases + 1024 < topErases x)

/-- Some block of the target is due for relocation for read disturb or wear. -/
def relocationDue (s : State) (x : FTarget) : Bool :=
  x.blk.any (fun b => disturbDue s x b.1) || (decide (1024 < topErases x) && (nats x.blocks).any (wearDue x))

/-- Priorities that wait on a target, a forced collection and a relocation that are due among them (R303). -/
def duePriorities (s : State) (x : FTarget) : List Nat :=
  (waitingOps x).map (·.1) ++ (if collectionDue s x then [2] else []) ++ (if relocationDue s x then [4] else [])

/-- An operation of a priority may be issued on a target (R303, R304): nothing of a higher priority waits on the channel, or it is one of
priority 2 or 3 whose target has issued four of priority 1; such a one goes before further ones of priority 1. -/
def mayIssue (s : State) (c pr : Nat) (x : FTarget) : Bool :=
  let low := (duePriorities s x).any (fun p => p == 2 || p == 3)
  let best := (s.mem.targets.filter (fun t => t.1 / 8 == c)).all (fun t => (duePriorities s t.2).all (fun p => decide (pr ≤ p)))
  if 4 ≤ x.sinceLow && low then pr == 2 || (pr == 3 && !collectionDue s x) else best

/-- The operation a target issues next (R303, R304). -/
def nextFlashOp (x : FTarget) : Option (Nat × FlashOp) :=
  let w := waitingOps x
  if 4 ≤ x.sinceLow ∧ (w.any (fun o => o.1 == 2 || o.1 == 3)) then
    (match w.find? (fun o => o.1 == 2) with | some o => some o | none => w.find? (fun o => o.1 == 3))
  else (nats 6).findSome? (fun k => w.find? (fun o => o.1 == k))

-- DEDUCED, unsafe, log entry 159.
/-- Count an issued operation by its priority (R304): one of priority 1 for every target of its channel, so that none waits without bound for
the reads of another; one of priority 2 or 3 begins its target's count anew. -/
def countOp (c t pr : Nat) (s : State) : State :=
  if pr = 1 then { s with mem := { s.mem with targets := s.mem.targets.map (fun x =>
    if x.1 / 8 = c then (x.1, { x.2 with sinceLow := x.2.sinceLow + 1 }) else x) } }
  else if pr = 2 ∨ pr = 3 then updTarget c t (fun x => { x with sinceLow := 0 }) s
  else s

/-- FLASH_OPERATION_ISSUE (R297, R298, R301, R303, R304): `found.ok` false for an operation that fails in the array; `found.badPages` are the logical pages in
which the relocation of a retired block meets an uncorrectable unit, `found.failed` those whose program fails there. -/
def execFlashOperationIssue (c t : Nat) (found : FlashFound) (s : State) : Res :=
  match target? s c t with
  | none => .next s
  | some x => match nextFlashOp x with
    | none => .next s
    | some (pr, op) =>
      if !mayIssue s c pr x then .next s
      else
        let drop := fun (s : State) => countOp c t pr (updTarget c t (fun x => { x with queue := x.queue.erase (pr, op) }) s)
        match op with
        | .readChg cid =>
          match chg? s cid with
          | some g => .next (updChg cid (fun g => { g with issued := true }) (arrayRead g.src (drop s)))
          | none => .next (drop s)
        | .direct lpn =>
          let s := drop s
          .next (if (look s.mem.pages lpn).isNone ∨ s.mem.direct.contains lpn then s
            else arrayRead lpn { s with mem := { s.mem with direct := s.mem.direct ++ [lpn] } })
        | .program cid =>
          if (chg? s cid).isNone then .next (drop s)
          else match writeBlock s c t (storedSize 0 true) x, found.ok with
            | none, _ => .next (requeueProgram (8 * c + t) cid s)
            | some _, true => .next (updChg cid (fun g => { g with issued := true })
                (countOp c t pr (updTarget c t (fun x => { x with queue := x.queue.map (fun o => if o = (pr, op) then (0, op) else o) }) s)))
            | some b, false => .next (requeueProgram (8 * c + t) cid (retireBlock c t b (countOp c t pr s)))
        | .relocate b => .next (relocateBlock c t b found (drop s))

/-- IDLE_COLLECTION (R302): with GCEN set, and nothing of a higher priority queued on the target. `y.found.badPages` are the logical pages in which the
copy meets an uncorrectable unit, `y.found.ok` whether the erase succeeds. -/
def execIdleCollection (c : Nat) (y : Collector) (s : State) : Res :=
  match target? s c y.tgt with
  | some x => .next (if bitOf s.mem.flsCtl 31 ∧ x.queue = [] ∧ mayIssue s c 5 x = true then
      (match worstBlock x with | some b => recycle c y.tgt b y.found s | none => s) else s)
  | none => .next s

/-- FORCED_COLLECTION (R302 to R305): below GCFLOOR/1,024 erased blocks. -/
def execForcedCollection (c : Nat) (y : Collector) (s : State) : Res :=
  match target? s c y.tgt with
  | some x => .next (if collectionDue s x && mayIssue s c 2 x then
      (match worstBlock x with | some b => recycle c y.tgt b y.found (countOp c y.tgt 2 s) | none => s) else s)
  | none => .next s

/-- READ_DISTURB_RELOCATION (R300). -/
def execReadDisturbRelocation (c t block : Nat) (found : FlashFound) (s : State) : Res :=
  match target? s c t with
  | some x => .next (if disturbDue s x block && mayIssue s c 4 x then recycle c t block found s else s)
  | none => .next s

/-- WEAR_RELOCATION (R299): the block's count trails the highest of its target by more than 1,024. -/
def execWearRelocation (c t block : Nat) (found : FlashFound) (s : State) : Res :=
  match target? s c t with
  | some x => .next (if wearDue x block && mayIssue s c 4 x then recycle c t block found s else s)
  | none => .next s

/-- ONFI_TARGET_TIMEOUT (R696): the third time the target fails to answer it is removed; its pages read as uncorrectable. -/
def execOnfiTargetTimeout (c t : Nat) (s : State) : Res :=
  match target? s c t with
  | none => .next s
  | some x =>
    if x.timeouts < 2 then .next (updTarget c t (fun x => { x with timeouts := x.timeouts + 1 }) s)
    else
      let hit := (s.mem.pages.filter (fun p => p.2.chan == c && p.2.tgt == t)).map (·.1)
      let s := { s with mem := { s.mem with
        targets := rem s.mem.targets (8 * c + t)
        pages := s.mem.pages.map (fun p => if p.2.chan = c ∧ p.2.tgt = t then (p.1, { p.2 with bad := true }) else p) } }
      let s := report { err0 0 0x0005 c with lkind := 5, loc := c * 2 ^ 25 + t * 2 ^ 22 } s
      let s := (s.mem.chgs.filter (fun g => g.kind != .demote && g.flash.any (hit.contains ·) && !g.rewritten)).foldl
        (fun s g => giveFrame g.dst (dropChg g.id s)) s
      let s := x.queue.foldl (fun s o => match o.2 with
        | .program cid => (match pickTarget s (storedSize 0 true) with | some k => requeueProgram k cid s | none => dropChg cid s)
        | _ => s) s
      .next (settleWork (poisonLpns hit s))

/-! ### Heat (R267, R268) -/

/-- HEAT_DECAY_TICK (R268): the sweep halves every HEAT; HALF written since takes effect now (R263). A leaf that the sweep finds wholly in flash
collapses (R51). -/
def execHeatDecayTick (td : Nat) (s : State) : Res :=
  let d := dom s td
  if !s.up ∨ s.now < d.nextDecay then .next s
  else
    let half := fun (l : Leaf) => { l with heat := l.heat / 2 }
    let s : State := { s with
      seqs := s.seqs.map (fun x => if x.2.td = td then (x.1, { x.2 with leaves := x.2.leaves.map (fun l => (l.1, half l.2)) }) else x)
      pfx := { s.pfx with groups := s.pfx.groups.map (fun g => if g.td = td then { g with recs := g.recs.map (fun r => (r.1, { r.2 with leaf := half r.2.leaf })) } else g) } }
    let s := (s.seqs.filter (fun x => x.2.td == td)).foldl (fun s x => collapseSeq td x.2.seqn s) s
    .next (updDom td (fun d => { d with halfNow := tierHalf s td, nextDecay := d.nextDecay + tierHalf s td * 100000000 }) s)

end Sys2Proof.Machine
end

