-- ==== Sys2Proof/Machine/Stacks.lean ====
section
/-! DEFINITION. Memory stacks (chapter 9): moves in DRAM (R71), refresh, retraining and the fence of a channel (R330 to R333), table-area
errors (R626, R627), patrol scrubbing (R334), imbalance and rebalancing (R321 to R327), spare substitution (R609 to R611). -/

namespace Sys2Proof.Machine

/-! ### The units' queues (R18, R332) -/

/-- The pair's accesses proceed: its channel is not retraining (R332). -/
def pairRuns (s : State) (u : Nat) : Bool := !(ch s (u / 9)).retraining

/-- The operation at the head of a unit's queue: it takes them in issue order (R18). -/
def nextOp (s : State) (u : Nat) : Option UnitOp := (lookD [] s.att.units u).head?

/-- The operation at the head of a unit's queue leaves it. -/
def popOp (u : Nat) (s : State) : State :=
  let l := (lookD [] s.att.units u).drop 1
  { s with att := { s.att with units := if l = [] then rem s.att.units u else put s.att.units u l } }

/-- The refreshes postponed for a unit's banks are issued at the end of its page operation (R330). -/
def issuePostponed (u : Nat) (s : State) : State :=
  { s with mem := { s.mem with postponed := rem (rem s.mem.postponed (2 * u)) (2 * u + 1) } }

/-! ### Pages of a domain in DRAM -/

/-- Where a page in DRAM is mapped from: a leaf of a sequence, or a shared record (`seqn` 0x40000). -/
structure PageLoc where
  seqn : Nat
  pix : Nat
  record : Option Nat
  leaf : Leaf
  deriving DecidableEq, Repr

def seqPages (d : SeqD) : List PageLoc :=
  (d.leaves.filter (fun l => l.2.tier == .dram)).map (fun l => { seqn := d.seqn, pix := l.1, record := none, leaf := l.2 })

def recordPages (s : State) (td : Nat) : List PageLoc :=
  (s.pfx.groups.filter (fun g => g.td == td)).flatMap (fun g =>
    (g.recs.filter (fun r => r.2.leaf.tier == .dram)).map (fun r =>
      { seqn := 0x40000, pix := r.1, record := some r.1, leaf := { r.2.leaf with psn := r.2.bad } }))

def domPages (s : State) (td : Nat) : List PageLoc :=
  (s.seqs.filter (fun x => x.2.td == td)).flatMap (fun x => seqPages x.2) ++ recordPages s td

def locMoving (s : State) (td : Nat) (p : PageLoc) : Bool :=
  match p.record with
  | some ix => s.mem.chgs.any (fun c => c.td == td && c.record == some ix)
  | none => isMoving s td p.seqn p.pix

/-- Start a move in DRAM (R71): appends to the page are held from here on. One within a bank pair is a COPY of its unit (R129). -/
def startMove (td : Nat) (p : PageLoc) (dst : Nat) (rebal : Bool) (s : State) : State :=
  queueCopy s.mem.nextChg p.leaf.frame dst
    (addChg { chgOf .move td p.seqn p.pix p.leaf.frame dst p.record with rebal := rebal } (holdAppends td p.seqn p.pix p.record (takeFrame dst s)))

/-- The page whose entry a change rewrites is poisoned. -/
def chgPoisoned (s : State) (c : Chg) : Bool :=
  match c.record with
  | some ix => (match record? s c.td ix with | some r => r.bad | none => false)
  | none => (match (seq? s c.td c.seqn).bind (fun d => leafOf d c.page) with | some l => l.psn | none => false)

/-- The new copy of a move is complete (R71, R355): the entry is rewritten, and the requests that translated before it are noted. -/
def moveDone (c : Chg) (s : State) : State :=
  let s := relocate c.td c.seqn c.page c.record (fun l => { l with frame := c.dst }) s
  let s := if c.rebal then bump (ctrTd c.td 0x068) s else s
  updChg c.id (fun x => { x with rewritten := true, users := frameUsers s c.src }) s

/-- A frame takes the codec's mark of another. -/
def copyMark (mark : Option Dec) (dst : Nat) (m : Mem) : Mem :=
  match mark with
  | some k => { m with decoded := put m.decoded (frameIx dst) k }
  | none => m

/-- Copy a frame with its side block; the codewords met, and the codec's mark of its contents (R289). -/
def copyFrame (src dst : Nat) (m : Mem) : Mem × PRead :=
  let r := rdPage m src 0 69632
  (copyMark (look m.decoded (frameIx src)) dst (wrPage m dst 0 r.bytes).1, r)

/-- The new copy of a change of leaf entry is made, or the change is abandoned at an uncorrectable codeword (R83, R315): whether it goes on. -/
def makeCopy (c : Chg) (s : State) : Bool × State :=
  let x := copyFrame c.src c.dst s.mem
  let s := noteRead x.2 s
  match x.2.bad with
  | [] => (true, { s with mem := x.1 })
  | a :: _ =>
    let s := giveFrame c.dst (dropChg c.id s)
    (false, settleWork (match c.record with
      | some ix => report { err0 2 0x0020 (a - pageAddr c.src) with td := some c.td, lkind := 1, loc := c.src } (poisonRecord c.td ix s)
      | none => poisonPage c.td c.seqn c.page 1 c.src (a - pageAddr c.src) 0 s))

/-- A copy of the sequencer on a unit (R18, R129): it is the unit's next operation, and the page is not poisoned, which needs no copy. -/
def unitCopy (cid : Nat) (s : State) : State :=
  match s.att.units.find? (fun u => u.2.contains (.copy cid)) with
  | none => s
  | some u =>
    if nextOp s u.1 ≠ some (.copy cid) ∨ !pairRuns s u.1 then s
    else
      let s := popOp u.1 s
      match chg? s cid with
      | none => s
      | some c =>
        let s := if chgPoisoned s c then s else (makeCopy c s).2
        issuePostponed u.1 (settleWork (updChg cid (fun c => { c with issued := true }) s))

/-- LEAF_REWRITE (R64, R65, R71, R137, R355, R481): the new copy of a move, or of a shared page for a write, is complete; the entry is rewritten and
translations are invalidated. A copy within a bank pair is made by its unit before (R129), any other through the channel controllers here, while
neither channel retrains (R332). A poisoned page gets a zeroed frame and keeps PSN; an uncorrectable codeword abandons the change. A copy changes
GEN and so waits for the sequence's operations on the old one. -/
def execLeafRewrite (cid : Nat) (s : State) : Res :=
  match chg? s cid with
  | none => .next s
  | some c =>
    let cow := decide (c.kind = .cow ∧ c.cmp = 0)
    if (c.kind ≠ .move ∧ !cow) ∨ c.rewritten ∨ (cow ∧ pageUsers s c.td c.seqn c.src) ∨ chgRetrains s c ∨ (c.inPair ∧ !c.issued) then .next s
    else
      let psn := chgPoisoned s c
      let x := if psn ∨ c.inPair then (true, s) else makeCopy c s
      .next (if !x.1 then x.2
        else
          let s := if psn then { x.2 with mem := zeroFrame x.2.mem (frameIx c.dst) } else x.2
          if cow then copyDone c psn (look s.mem.decoded (frameIx c.dst)) s else moveDone c s)

/-- OLD_FRAME_RETURN (R71, R72, R65): no operation uses the old copy any more; its frame returns to the pool and held appends are released. -/
def execOldFrameReturn (cid : Nat) (s : State) : Res :=
  match chg? s cid with
  | none => .next s
  | some c => .next (if !c.rewritten ∨ (c.kind ≠ .promote ∧ !(frameUsers s c.src).isEmpty) then s else settleWork (endChg c s))

/-! ### Table-area errors (R626, R627) -/

/-- Drop appends of a sequence that have not been applied. -/
def dropAppends (td seqn : Nat) (s : State) : State :=
  let ids := (s.att.reqs.filter (fun r => r.td == td && r.seqn == seqn)).map (·.id)
  let s := dropOps (fun o => match o with | .append i _ _ => ids.contains i | _ => false) s
  settleFences { s with att := { s.att with reqs := s.att.reqs.map (fun r => if ids.contains r.id then { r with appLeft := [] } else r) } }

/-- A sequence is made LOST (R627): its descriptor is rewritten and its tables are gone. -/
def makeLost (td seqn : Nat) (s : State) : State :=
  match seq? s td seqn with
  | none => s
  | some d =>
    let s := abortExport td seqn s
    let s := match d.mig.bind (·.cmd) with | some id => finishErr id 0x0062 s | none => s
    let s := voidIf (fun x => x.td == td && x.req.seqn == seqn) (dropAppends td seqn s)
    let s := tcDrop (fun e => e.td == td && e.seqn == seqn) s
    let s := dropChgs (fun c => c.td == td && c.seqn == seqn && (c.record.isNone || c.kind == .cow)) s
    let (k, s) := draw 16 s
    wcSync td seqn (setSeq { d with
      state := .lost, nlayer := 0, nhead := 0, sgen := 0, kbase := 0, kidx := k, mgen := 0, len := 0, base := 0, hend := 0, tfront := 0
      tlast := 0, ckep := 0, root := TabE.zero, l1 := [], l2 := [], leaves := [], wake := Wake.idle, mig := none
      chgMig := [], chgExp := [], exp := none } s)

/-- What a table codeword can hold (R626). -/
inductive TObj where
  | table (td seqn level : Nat)
  | freeDesc (key : Nat)
  | header (td sidx : Nat)
  | record (td ix : Nat)
  | copy (td : Nat) (key : BitVec 128)
  | spill (td : Nat)
  deriving DecidableEq, Repr

/-- The channel whose table area holds an object numbered k of a domain: the node's own choice among the domain's channels (R47, R699). -/
def tblChan (s : State) (td k : Nat) : Option Nat :=
  let l := (domChans s td).mergeSort (fun a b => decide (a ≤ b))
  l[Config.placeHash 0 k % l.length]?

/-- Objects that the table area of a channel holds. -/
def tableObjs (s : State) (c : Nat) : List TObj :=
  (s.seqs.filter (fun x => x.2.tchan == c && x.2.state != .lost)).map (fun x => TObj.table x.2.td x.2.seqn 0)
  ++ (s.freeDesc.filter (fun x => tblChan s (x.1 / 0x40000) (blockOf x.1) == some c)).map (fun x => TObj.freeDesc x.1)
  ++ (s.pfx.groups.filter (fun g => tblChan s g.td (2 ^ 40 + g.sidx) == some c)).flatMap (fun g =>
      TObj.header g.td g.sidx :: g.recs.map (fun r => TObj.record g.td r.1))
  ++ s.pfx.copies.flatMap (fun d => (d.2.filter (fun e => tblChan s d.1 (2 ^ 41 + e.key.toNat) == some c)).map (fun e => TObj.copy d.1 e.key))
  ++ ((nats 64).filter (fun t => (dom s t).qpTab.isSome && tblChan s t (2 ^ 42) == some c)).map TObj.spill

-- DEDUCED, unsafe, log entry 84.
/-- An uncorrectable codeword in a table area (R626). -/
def tableError (c rel : Nat) (audit : Bool) (o : TObj) (s : State) : State :=
  let loc := c / 32 * 2 ^ 25 + c % 32 * 2 ^ 20
  let rep := fun (cls code info td sva : Nat) (s : State) =>
    report { err0 cls code info with td := some td, sva := sva, lkind := 2, loc := loc, audit := audit, rel := rel } s
  match o with
  | .table td seqn level => rep 3 0x0030 level td (td * 2 ^ 58 + seqn * 2 ^ 40) (makeLost td seqn s)
  | .freeDesc key =>
    let s := { s with unusable := if s.unusable.contains key then s.unusable else key :: s.unusable }
    rep 1 0x0010 0 (key / 0x40000) (key / 0x40000 * 2 ^ 58 + key % 0x40000 * 2 ^ 40) s
  | .header td sidx =>
    match s.pfx.groups.find? (fun g => g.td == td && g.sidx == sidx) with
    | some g => rep 2 0x0022 sidx td 0 (if (groupEntry? s g).isSome then dropEntry td g.key s else s)
    | none => s
  | .record td ix => rep 2 0x0022 ix td 0 (settleWork (poisonRecord td ix s))
  | .copy td key =>
    let e := ((lookD [] s.pfx.banks (bankOf key)).find? (fun x => x.2.key == key && x.2.st == .live)).map (·.2)
    let sum := match (entryCopy? s td key).bind (fun e => s.pfx.groups.find? (fun g => g.td == td && g.sidx == e.sidx)) with
      | some g => g.recs.foldl (fun n r => n + r.2.ref) 0
      | none => 0
    let s := match e with
      | some e => { s with pfx := { s.pfx with copies := modify s.pfx.copies td (·.map (fun x => if x.key = key then e else x)) } }
      | none => updEntry td key (fun x => { x with ref := sum, rtn := false }) s
    rep 1 0x0011 (key.toNat % 16 * 2 ^ 16) td 0 s
  | .spill td => setQps (fun l => l.map (fun q => if q.td = td ∧ !q.onNode then { q with expSpcnt := 2 ^ 64 } else q)) s

/-! ### Spares (R607 to R611) -/

def spareBits (t : List (Nat × W64)) (n : Nat) : List Nat := (nats n).filter (fun c => (lookD 0#64 t (c / 64)).getLsbD (c % 64))
def clearSpare (t : List (Nat × W64)) (c : Nat) : List (Nat × W64) := putD 0#64 t (c / 64) (lookD 0#64 t (c / 64) &&& ~~~ BitVec.ofNat 64 (2 ^ (c % 64)))

def extOfChan (s : State) (c : Nat) : Option Nat := (s.cmp.exts.find? (fun e => e.2.chan.contains c)).map (·.1)
def extOfClus (s : State) (c : Nat) : Option Nat := (s.cmp.exts.find? (fun e => e.2.clus.contains c)).map (·.1)
/-- The domain of a channel's extent, or the one from which it is being released. -/
def chanOwner (s : State) (c : Nat) : Option Nat :=
  match s.cmp.exts.find? (fun e => e.2.chan.contains c) with
  | some e => some e.2.td
  | none => (ch s c).releasing

/-- Spares as FLP_SPARECH and FLP_SPARECL read (R608): a bit of a resource that is named in an extent or not good is ignored. One still
being released (R480) holds data and is passed over. -/
def spareChans (s : State) : List Nat :=
  (spareBits s.floor.spareCh 768).filter (fun c => codeChan s c == .good && (extOfChan s c).isNone && (ch s c).releasing.isNone)
def spareClus (s : State) : List Nat :=
  (spareBits s.floor.spareCl 208).filter (fun c => codeClus s c == .good && (extOfClus s c).isNone && !(clus s c).leaving && !(clus s c).dirty)

/-- A change of the domain's channel list sets its streak to zero, departed channels leave its rebalance set (R323, R324), and its share of
translation caches follows (R67). -/
def listChanged (td : Nat) (s : State) : State :=
  let l := placeChans s td
  tcTrim td <| updDom td (fun d => { d with place := { d.place with streak := 0, rset := d.place.rset.filter (l.contains ·) } }) s

/-- The lowest spare by preference: first test, then second, then any. -/
def pickSpare (l : List Nat) (p q : Nat → Bool) : Option Nat :=
  match l.find? p with
  | some c => some c
  | none => match l.find? q with
    | some c => some c
    | none => l.head?

-- DEDUCED, unsafe, log entry 88.
/-- Replace a fenced channel or cluster of an ACTIVE extent by a spare (R609, R610), or drop it when there is none (R611). -/
def substitute (e res : Nat) (cluster : Bool) (s : State) : State :=
  match ext? s e with
  | none => s
  | some x =>
    if x.state ≠ .active then s
    else if cluster then
      match pickSpare (spareClus s) (fun c => dieOfCluster c == dieOfCluster res) (fun _ => true) with
      | some sp =>
        let s := { s with floor := { s.floor with spareCl := clearSpare s.floor.spareCl sp } }
        let s := setExt e { x with clus := x.clus.map (fun c => if c = res then sp else c) } s
        let s := updClus sp (fun k => { k with ext := some e, dirty := true, joining := true, td := some x.td }) s
        report { err0 0 0x0007 sp with td := some x.td, lkind := 4, loc := res } s
      | none => setExt e { x with clus := x.clus.filter (· != res) } s
    else
      match pickSpare (spareChans s) (fun c => c / 32 == res / 32) (fun c => decide (c < 384) == decide (res < 384)) with
      | some sp =>
        let s := { s with floor := { s.floor with spareCh := clearSpare s.floor.spareCh sp } }
        let s := setExt e { x with chan := x.chan.map (fun c => if c = res then sp else c) } s
        let s := listChanged x.td s
        report { err0 0 0x0007 sp with td := some x.td, lkind := 1, loc := res / 32 * 2 ^ 25 + res % 32 * 2 ^ 20 } s
      | none => listChanged x.td (setExt e { x with chan := x.chan.filter (· != res) } s)

/-- Substitute now, or after the composition change of the same extent (R611). -/
def substituteSoon (e res : Nat) (cluster : Bool) (s : State) : State :=
  match s.cmp.pendingExt with
  | some (k, _, _) => if k = e then { s with cmp := { s.cmp with substWait := s.cmp.substWait ++ [(e, res, cluster)] } } else substitute e res cluster s
  | none => substitute e res cluster s

/-- A change that would put a page into a channel that is fenced is abandoned, and its source stays (R83); a staging read goes back into its
wake's queue. -/
def abandonInto (c : Nat) (s : State) : State :=
  let hit := fun (g : Chg) => g.kind != .demote && frChan g.dst == c && !g.rewritten
  let back := s.mem.chgs.filter (fun g => hit g && g.kind == .promote && g.staged)
  back.foldl (fun s g => updWake g.td g.seqn (fun w =>
    if w.issued.contains g.page then { w with issued := w.issued.filter (· != g.page), queue := g.page :: w.queue } else w) s) (dropChgs hit s)

/-- A channel is fenced in service (R333): PSN on every page whose frame lies in it, off its domain's list, class 4. -/
def fenceChannel (c : Nat) (s : State) : State :=
  let owner := chanOwner s c
  let s := fenceCode (fun f => { f with chan := put f.chan c .fenced }) s
  let s := updCh c (fun k => { k with fencedOwner := owner, retraining := false, retryDone := false }) (dropZero (fun f => frChan f == c) s)
  let s := abandonInto c s
  let s := match owner with
    | none => s
    | some td =>
      let hit := (domPages s td).filter (fun p => frChan p.leaf.frame == c)
      let s := hit.foldl (fun s p => match p.record with
        | some ix => poisonRecord td ix s
        | none => setPsn td p.seqn p.pix s) s
      settleWork (listChanged td s)
  let s := match extOfChan s c with
    | some e => substituteSoon e c false s
    | none => s
  report { err0 4 0x0042 c with td := owner, lkind := 1, loc := c / 32 * 2 ^ 25 + c % 32 * 2 ^ 20 } s

/-! ### Refresh and retraining (R330 to R333) -/

/-- The unit runs a page operation. -/
def streaming (s : State) (u : Nat) : Bool := (lookD [] s.att.units u).any (fun o => match o with | .zero _ => false | _ => true)

/-- REFRESH (R330, R332): postponed, up to 8, while the unit streams or the channel retrains; otherwise issued with those postponed. -/
def execRefresh (u b : Nat) (s : State) : Res :=
  let k := 2 * u + b % 2
  let n := lookD 0 s.mem.postponed k
  .next (if (streaming s u || (ch s (u / 9)).retraining) && decide (n < 8) then { s with mem := { s.mem with postponed := put s.mem.postponed k (n + 1) } }
    else { s with mem := { s.mem with postponed := rem s.mem.postponed k } })

/-- CHANNEL_RETRAINING (R331): one channel of a stack at a time. -/
def execChannelRetraining (c : Nat) (s : State) : Res :=
  .next (if codeChan s c == .good && !(s.mem.chans.any (fun k => k.1 / 32 == c / 32 && k.2.retraining)) then
    bump (ctrChan c 3) (updCh c (fun k => { k with retraining := true, retryDone := false }) s) else s)

/-- RETRAINING_RESULT (R330, R333): the refreshes postponed meanwhile are issued; a failure is repeated once; a second failure fences the channel. -/
def execRetrainingResult (c : Nat) (ok : Bool) (s : State) : Res :=
  let k := ch s c
  if !k.retraining then .next s
  else if ok then .next (((nats 9).map (9 * c + ·)).foldl (fun s u => if streaming s u then s else issuePostponed u s)
    (updCh c (fun k => { k with retraining := false, retryDone := false }) s))
  else if k.retryDone then .next (fenceChannel c s)
  else .next (bump (ctrChan c 3) (updCh c (fun k => { k with retryDone := true }) s))

/-! ### Scrubbing and write-backs (R314, R315, R334) -/

def codewordsOfChan : Nat := 50331648
def frameCodewords : Nat := 9 * 2560 * 2176

/-- The page that a frame holds. -/
def frameOwner (s : State) (td ix : Nat) : Option PageLoc := (domPages s td).find? (fun p => frameIx p.leaf.frame == ix)

/-- An uncorrectable codeword met outside a page operation, by where it lies (R315). The frame that a copy goes to, or that an entry has left, is
not yet free and holds no page; one retired before is no free frame any more. -/
def badCodeword (a : Nat) (s : State) : State :=
  let ix := a / 69632
  let c := chanOfAddr a
  let f := frameOf (ix / 2560) (ix % 2560)
  if look s.mem.frames ix = some .retired then s
  else if s.mem.chgs.any (fun g => g.frames.contains f) && (match chanOwner s c with | some td => (frameOwner s td ix).isNone | none => true) then s
  else match chanOwner s c with
  | some td => match frameOwner s td ix with
    | some p => match p.record with
      | some r => settleWork (report { err0 2 0x0020 (a % 69632) with td := some td, lkind := 1, loc := f } (poisonRecord td r s))
      | none => settleWork (poisonPage td p.seqn p.pix 1 f (a % 69632) 0 s)
    | none => report { err0 1 0x0010 (a % 69632) with td := some td, lkind := 1, loc := f } (retireFrame ix s)
  | none => report { err0 1 0x0010 (a % 69632) with lkind := 1, loc := f } (retireFrame ix s)

-- DEDUCED, unsafe, log entry 70.
/-- PATROL_SCRUB (R332, R334): `flips` are the upsets in the scrubbed codeword, as byte number 0 to 35 and bits inverted. -/
def execPatrolScrub (c : Nat) (flips : List (Nat × Byte)) (s : State) : Res :=
  if codeChan s c ≠ .good ∨ (ch s c).retraining then .next s
  else
    let k := (ch s c).scrub
    let last := decide (codewordsOfChan ≤ k + 1)
    let s := updCh c (fun x => { x with scrub := if last then 0 else k + 1 }) s
    let s := if last then bump (ctrChan c 2) s else s
    if k < frameCodewords then
      let a := 9 * c * 2560 * 69632 + 32 * k
      let m := flips.foldl (fun (m : Mem) e =>
        if e.1 < 32 then { m with dram := wr8 m.dram (a + e.1) (rd8 m.dram (a + e.1) ^^^ e.2) }
        else { m with chk := wr8 m.chk (a / 8 + (e.1 - 32) % 4) (rd8 m.chk (a / 8 + (e.1 - 32) % 4) ^^^ e.2) }) s.mem
      let s := { s with mem := m }
      match (cwAt m a).2 with
      | .clean => .next s
      | .corrected => .next (noteRead { bytes := [], corr := [a], bad := [] } s)
      | .bad => .next (badCodeword a (bump (ctrChan c 1) s))
    else
      let w := (nats 36).map (fun i => flips.foldl (fun b e => if e.1 = i then b ^^^ e.2 else b) 0#8)
      match (cwDecode w).2 with
      | .clean => .next s
      | .corrected => .next (bump (ctrChan c 0) s)
      | .bad =>
        let s := bump (ctrChan c 1) s
        let objs := tableObjs s c
        let (v, s) := takeFree s
        match objs[v.toNat % (objs.length + 1)]? with
        | some (.table td sq _) => .next (tableError c 0 false (.table td sq (v.toNat / 2 ^ 30)) s)
        | some o => .next (tableError c 0 false o s)
        | none => .next s

/-- CORRECTED_WRITEBACK (R142, R314, R332): the corrected codeword is written in the next boundary window. -/
def execCorrectedWriteback (u : Nat) (s : State) : Res :=
  if !pairRuns s u then .next s
  else match s.att.writeback.find? (fun a => a / 69632 / 2560 == u) with
  | none => .next s
  | some a =>
    let s := { s with att := { s.att with writeback := s.att.writeback.filter (· != a) } }
    let (bs, st) := cwAt s.mem a
    .next (if st = .corrected then { s with mem := cwWrite s.mem a bs } else s)

/-! ### Imbalance and rebalancing (R321 to R327) -/

/-- OCCUPANCY_SAMPLE (R321). -/
def execOccupancySample (s : State) : Res :=
  if !s.up then .next s
  else
    let s := (nats 768).foldl (fun s c => let n := pendingOn s c; if n = 0 then s else updCh c (fun k => { k with occ := k.occ + n }) s) s
    .next { s with mem := { s.mem with samplesInWindow := s.mem.samplesInWindow + 1 } }

def imbThr (s : State) : Nat := max 1 (fld s.mem.ictlNow 27 24)
def imbMin (s : State) : Nat := max 1 (fld s.mem.ictlNow 23 16)
def icAuto (s : State) : Bool := bitOf s.mem.ictl 31
def rbRate (s : State) : Nat := fld s.mem.ictl 15 0

-- DEDUCED, unsafe, log entry 72.
/-- Hot channels of a domain in the window (R322). -/
def hotChans (s : State) (td : Nat) : List Nat :=
  let l := placeChans s td
  let sum := l.foldl (fun n c => n + (ch s c).occ) 0
  let n := s.mem.samplesInWindow
  if l.length ≤ 1 ∨ n = 0 then []
  else l.filter (fun c => decide (imbMin s * n ≤ (ch s c).occ ∧ (8 + imbThr s) * sum < 8 * (ch s c).occ * l.length))

/-- A fresh placement key, and REBALANCE with a set of channels (R317, R323). -/
def rekey (td : Nat) (hot : List Nat) (s : State) : State :=
  let (k, s) := draw 128 s
  bump (ctrTd td 0x064) (updDom td (fun d => { d with place := { d.place with
    key := BitVec.ofNat 128 k, rset := hot, cool := [], streak := 0, state := .rebalance } }) s)

/-- The set is empty: HOLD, for the hold-off, which doubles (R323). -/
def toHold (now : Nat) (p : Place) : Place :=
  { p with rset := [], state := .hold, holdUntil := now + p.holdoff, holdoff := min (2 * p.holdoff) 6400000000, streak := 0 }

/-- AUTO has been cleared (R324): every domain in REBALANCE empties its set and goes to HOLD; moves in flight complete. -/
def autoCleared (s : State) : State :=
  (nats 64).foldl (fun s td => if (dom s td).place.state = .rebalance then updDom td (fun d => { d with place := toHold s.now d.place }) s else s) s

/-- window_end of R323 for one domain. -/
def windowEnd (td : Nat) (s : State) : State :=
  let l := placeChans s td
  let hot := hotChans s td
  let p := (dom s td).place
  let p := if hot = [] then { p with streak := 0, calm := p.calm + 1, holdoff := if 50 ≤ p.calm + 1 then 100000000 else p.holdoff }
    else { p with streak := p.streak + 1, calm := 0 }
  let s := if hot = [] then s else bump (ctrTd td 0x060) s
  if p.state = .rebalance then
    let r0 := if icAuto s then p.rset else []
    let r1 := (r0 ++ hot.filter (fun c => !r0.contains c)).filter (l.contains ·)
    let cool : List (Nat × Nat) := r1.map (fun c => (c, if hot.contains c then 0 else lookD 0 p.cool c + 1))
    let r2 := r1.filter (fun c => decide (lookD 0 cool c < 10))
    let p := { p with rset := r2, cool := cool }
    let p := if r2 = [] then toHold s.now p else p
    updDom td (fun d => { d with place := p }) s
  else
    let p := if p.state = .hold ∧ p.holdUntil ≤ s.now then { p with state := .watch } else p
    let s := updDom td (fun d => { d with place := p }) s
    if p.state = .watch ∧ 50 ≤ p.streak ∧ icAuto s then rekey td hot s else s

/-- WINDOW_END (R323, R329): the procedure runs for each domain that owns channels, and the next window begins, with the thresholds as they now
stand in STK_ICTL. -/
def execWindowEnd (s : State) : Res :=
  if !s.up then .next s
  else
    let s := (nats 64).foldl (fun s td => windowEnd td s) s
    .next { s with mem := { s.mem with samplesInWindow := 0, ictlNow := s.mem.ictl, chans := s.mem.chans.map (fun k => (k.1, { k.2 with occ := 0 })) } }

-- DEDUCED, unsafe, log entry 71.
/-- HOLDOFF_ELAPSED (R324). -/
def execHoldoffElapsed (td : Nat) (s : State) : Res :=
  let p := (dom s td).place
  if p.state ≠ .hold ∨ s.now < p.holdUntil then .next s
  else
    let s := updDom td (fun d => { d with place := { d.place with state := .watch } }) s
    .next (if 50 ≤ p.streak ∧ icAuto s then rekey td (hotChans s td) s else s)

/-- Moves already started for a domain in this ms (R326). -/
def movesNow (s : State) (td : Nat) : Nat := if s.mem.movesMs = s.now / 1000000 then lookD 0 s.mem.moves td else 0
def countMove (td : Nat) (s : State) : State :=
  let n := movesNow s td + 1
  let l := if s.mem.movesMs = s.now / 1000000 then s.mem.moves else []
  { s with mem := { s.mem with moves := put l td n, movesMs := s.now / 1000000 } }

/-- Destination for a page: by its sequence and page index, for a shared record by its index. -/
def placeLoc (s : State) (td : Nat) (p : PageLoc) (ex : Option Nat) : Option Nat :=
  place s td (p.seqn % 0x40000) (p.pix % 2 ^ 24) ex

/-- The page of a list with the highest heat. -/
def hottest (l : List PageLoc) : Option PageLoc :=
  l.foldl (fun o p => match o with | none => some p | some q => if q.leaf.heat < p.leaf.heat then some p else o) none

-- DEDUCED, unsafe, log entry 68.
/-- A move that gives the page a pair with a good unit, first for fenced units (R168), then for hot pages (R269). -/
def goodMove (s : State) (td : Nat) : Option (PageLoc × Nat) :=
  let ok := (domPages s td).filter (fun p => !p.leaf.psn && !locMoving s td p && codeChan s (frChan p.leaf.frame) == .good)
  let off := ok.filter (fun p => codeUnit s (frUnit p.leaf.frame) == .fenced)
      ++ ok.filter (fun p => codeUnit s (frUnit p.leaf.frame) != .good && decide (12 ≤ p.leaf.heat))
  off.findSome? (fun p => match placeLoc s td p none with
    | some f => if codeUnit s (frUnit f) = .good then some (p, f) else none
    | none => none)

/-- The next page of the rebalance set (R325): its channels in turn, hottest page first. -/
def rebalanceMove (s : State) (td : Nat) : Option (PageLoc × Nat) :=
  let all := (domPages s td).filter (fun p => !p.leaf.psn && !locMoving s td p)
  (dom s td).place.rset.findSome? (fun c =>
    let l := all.filter (fun p => frChan p.leaf.frame == c && (placeLoc s td p (some c)).isSome)
    match hottest l with
    | some p => (placeLoc s td p (some c)).map (fun f => (p, f))
    | none => none)

/-- REBALANCE_MOVE_START (R325, R326): one move within the domain's allowance of the ms. -/
def execRebalanceMoveStart (td : Nat) (s : State) : Res :=
  if !s.up then .next s
  else match goodMove s td with
  | some (p, f) => .next (if movesNow s td < max 1 (rbRate s) then countMove td (startMove td p f false s) else s)
  | none =>
    if (dom s td).place.state ≠ .rebalance ∨ rbRate s ≤ movesNow s td then .next s
    else match rebalanceMove s td with
    | none => .next s
    | some (p, f) =>
      let c := frChan p.leaf.frame
      .next (countMove td (updDom td (fun d => { d with place := { d.place with rset := d.place.rset.filter (· != c) ++ [c] } }) (startMove td p f true s)))

end Sys2Proof.Machine
end

