-- ==== Sys2Proof/Machine/CmdSeq.lean ====
section
/-! DEFINITION. Sequence commands (R56 to R63, R75 to R78, R153, R279, R558, R562) and OWNER messages as the node sends them (R488, R489). -/

namespace Sys2Proof.Machine

/-! ### OWNER messages (R488 to R490) -/

def SeqState.code : SeqState → Nat | .own => 1 | .migrating => 2 | .handoff => 3 | .forwarded => 4 | .lost => 5

/-- Private pages in DRAM and in flash (R56). -/
def countTier (d : SeqD) (t : Tier) : Nat := ((mappedPages d).filter (fun p => match leafOf d p with | some l => l.tier == t | none => false)).length

/-- The header's words from the sender's state of the sequence; a FREE one gives zeros. -/
def ownerHeader (s : State) (td seqn mtype status peer : Nat) (decision : Bool) (ntp geomw : Nat) : List Byte :=
  let common := fun (st : Nat) (inc compl : Bool) (mgen host base hend len tfront key pages : Nat) =>
    leBytes (mtype * 2 ^ 56 + 2 ^ 52 + st * 2 ^ 49 + b2n inc * 2 ^ 48 + b2n compl * 2 ^ 47 + b2n decision * 2 ^ 46 + mgen * 2 ^ 16 + status) 8
    ++ leBytes (td * 2 ^ 58 + seqn * 2 ^ 40) 8 ++ leBytes (nodeId s * 2 ^ 46 + peer * 2 ^ 28 + host * 2 ^ 18) 8
    ++ leBytes (base * 2 ^ 32 + hend) 8 ++ leBytes (len * 2 ^ 32 + tfront) 8 ++ leBytes (key * 2 ^ 32 + s.cmp.epoch.toNat) 8
    ++ leBytes (pages * 2 ^ 32 + ntp) 8 ++ leBytes geomw 8
  match seq? s td seqn with
  | none => common 0 false false 0 0 0 0 0 0 0 0
  | some d =>
    let inc := match d.mig with | some m => m.incoming && d.state == .migrating | none => false
    common d.state.code inc (d.state == .own || d.state == .handoff || (d.state == .migrating && !inc)) d.mgen
      (match ext? s d.ext with | some e => e.host | none => 0) d.base d.hend d.len d.tfront (rkeyOf d) (countTier d .dram + countTier d .flash)

/-- Send an OWNER message on a queue pair (R489): pieces of 4,096 B, the last with FINAL. -/
def sendOwner (qpn td seqn mtype status peer : Nat) (decision : Bool) (ntp geomw : Nat) (body : List Byte) (s : State) : State :=
  match qp? s qpn with
  | none => s
  | some q =>
    if q.state ≠ .ready then s
    else
      let bs := ownerHeader s td seqn mtype status peer decision ntp geomw ++ body
      sendMsg qpn ((chunks 4096 (bs.length / 4096 + 1) bs).map (fun c => { txTo q 0x7 .owner with payload := c })) .other s

/-- ABORT to the peer of a migration (R489). -/
def sendAbort (d : SeqD) (s : State) : State :=
  match d.mig with
  | some m => sendOwner m.qpn d.td d.seqn 0x06 0 m.peer false 0 0 [] s
  | none => s

/-! ### Keys (R61, R62) -/

/-- The next KIDX, SGEN and KBASE, and whether the sequence was re-keyed. -/
def nextKey (kidx sgen kbase : Nat) : Nat × Nat × Nat × Bool :=
  let g := (sgen + 1) % 2 ^ 16
  if (g + 2 ^ 16 - kbase % 2 ^ 16) % 2 ^ 16 = 2 ^ 15 then ((kidx + 1) % 2 ^ 16, g, g, true) else (kidx, g, kbase, false)

/-- What the descriptor of a FREE number holds (R57, R61). -/
def freeKey (s : State) (key : Nat) : FreeDesc :=
  match look s.freeDesc key with
  | some f => f
  | none =>
    if (blocksOf s (key / 0x40000)).contains (blockOf key) then { kidx := 0, sgen := 0, kbase := 0 }
    else { kidx := (lookD [] s.keyHist (blockOf key)).getD (key % 64) 0, sgen := 0, kbase := 0 }

/-- Allocate a descriptor block: its FREE descriptors take KIDX from the key history. -/
def openBlock (key : Nat) (s : State) : State :=
  if (blocksOf s (key / 0x40000)).contains (blockOf key) then s
  else
    let h := lookD [] s.keyHist (blockOf key)
    let new := (nats 64).filterMap (fun i => let k := h.getD i 0; if k = 0 then none else some (64 * blockOf key + i, ({ kidx := k, sgen := 0, kbase := 0 } : FreeDesc)))
    { s with freeDesc := new.foldl (fun t e => put t e.1 e.2) s.freeDesc, keyHist := rem s.keyHist (blockOf key) }

/-- A descriptor becomes FREE with its key; a block whose 64 descriptors are FREE is freed, its KIDX plus one kept (R57). -/
def closeDesc (key : Nat) (f : FreeDesc) (s : State) : State :=
  let s := { s with seqs := rem s.seqs key, freeDesc := put s.freeDesc key f }
  let b := blockOf key
  if s.seqs.any (fun x => blockOf x.1 == b) ∨ s.unusable.any (fun k => blockOf k == b) then s
  else { s with
    keyHist := put s.keyHist b ((nats 64).map (fun i => ((match look s.freeDesc (64 * b + i) with | some f => f.kidx | none => 0) + 1) % 2 ^ 16))
    freeDesc := s.freeDesc.filter (fun x => blockOf x.1 != b) }

/-! ### Common checks -/

-- DEDUCED, unsafe, log entry 58.
/-- A sequence reference (R558): the SVA names only TD and SEQN. Status, and the sequence. -/
def srefCheck (s : State) (c : Cmd) (anyKey : Bool) : Nat × Option SeqD :=
  let w := le c.body 0 8
  let a := Sva.ofNat w
  if w % 2 ^ 40 ≠ 0 then (1, none)
  else if a.td ≠ c.td then (3, none)
  else match seq? s a.td a.seqn with
    | none => (3, none)
    | some d => if rkeyOf d = le c.body 8 4 ∨ anyKey ∧ d.state = .lost then (0, some d) else (4, none)

/-- The node holds the sequence's pages: OWN, MIGRATING as source, or HANDOFF. -/
def SeqD.here (d : SeqD) : Bool :=
  match d.state with
  | .own => true
  | .handoff => true
  | .migrating => (match d.mig with | some m => !m.incoming | none => true)
  | _ => false

/-- A command on a held sequence: checks, then its effect. -/
def onSeq (c : Cmd) (f : SeqD → State → State) (s : State) : State :=
  match srefCheck s c false with
  | (0, some d) => if d.here then f d s else finishErr c.id 3 s
  | (st, _) => finishErr c.id st s

/-! ### Freeing a sequence -/

/-- Samples of a sequence close as voided (R226). -/
def voidSeq (td seqn : Nat) (s : State) : State := closeIf (fun x => x.td == td && x.req.seqn == seqn) s

/-- Free every page of a sequence. -/
def freeAllPages (d : SeqD) (s : State) : State := (mappedPages d).foldl (fun s p => freePage d.td d.seqn p s) s

/-- Changes of leaf entries still in progress when a sequence goes: the frames that they hold beside the entries return. -/
def settleChgs (td seqn : Nat) (s : State) : State :=
  let mine := fun (c : Chg) => c.td == td && c.seqn == seqn && (c.record.isNone || c.kind == .cow)
  dropChgs mine ((s.mem.chgs.filter mine).foldl (fun s c =>
    if c.rewritten then (if c.kind = .promote then s else giveFrame c.src s) else (if c.kind = .demote then s else giveFrame c.dst s)) s)

/-- Release a sequence: pages freed, SGEN + 1, the number FREE (R61). Answers whether it was re-keyed. -/
def releaseSeq (d : SeqD) (s : State) : Bool × State :=
  let s := abortExport d.td d.seqn s
  let s := match d.mig.bind (·.cmd) with | some id => finishErr id 0x0062 s | none => s
  let s := voidSeq d.td d.seqn s
  let s := freeAllPages d s
  let s := settleChgs d.td d.seqn s
  let s := tcDrop (fun e => e.td == d.td && e.seqn == d.seqn) s
  let (k, g, b, re) := nextKey d.kidx d.sgen d.kbase
  (re, settleWork (wcSync d.td d.seqn (closeDesc (seqKey d.td d.seqn) { kidx := k, sgen := g, kbase := b } s)))

/-- Work of the sequence that freeing pages must wait for (R71, R363): accepted requests, changes of leaf entries, a publication. -/
def seqBusy (s : State) (d : SeqD) : Bool :=
  busySeq s d.td d.seqn || s.mem.chgs.any (fun c => c.td == d.td && c.seqn == d.seqn)
    || s.mbx.cmds.any (fun c => c.stage == .running && c.code == 0x0402 && (cmdObjs c).contains (1, seqKey d.td d.seqn))

/-! ### New descriptors (R47, R57, R61) -/

-- DESIGN CHOICE, safe, log entry 60.
/-- The channel whose table area takes a new sequence's tables (R47): one of the domain's placement list; which is free. -/
def tableChan (s : State) (td : Nat) : Nat × State :=
  let (v, s) := takeFree s
  let l := placeChans s td
  (l.getD (v.toNat % l.length) 0, s)

/-- Room for a descriptor at a FREE number (R47, R57): the number usable, the space of its block and level-1 table, and a good channel for them. -/
def descRoom (s : State) (td key : Nat) : Bool :=
  !s.unusable.contains key && tableRoom s td (2048 + if (blocksOf s td).contains (blockOf key) then 0 else 4096) && placeChans s td != []

/-- A descriptor at a number that was FREE, its tables in channel `tchan`. -/
def SeqD.blank (td seqn ext tchan now : Nat) (f : FreeDesc) : SeqD :=
  { td := td, seqn := seqn, state := .own, nlayer := 0, nhead := 0, sgen := f.sgen, kbase := f.kbase, kidx := f.kidx, mgen := 0, len := 0, base := 0
    hend := 0, tfront := 0, tlast := now, ckep := 0, ext := ext, tchan := tchan, root := rootEntry td seqn tchan, l1 := [], l2 := [], leaves := []
    wake := Wake.idle, mig := none, chgMig := [], chgExp := [], exp := none }

/-- A number ceases to be FREE: its descriptor's block is there, and the descriptor takes its place (R57). -/
def placeDesc (d : SeqD) (s : State) : State :=
  let key := seqKey d.td d.seqn
  let s := openBlock key s
  setSeq d { s with freeDesc := rem s.freeDesc key }

/-- The descriptor that a creation makes (R61, R62), whether the number was re-keyed, and the state after the choice of its table area. -/
def newDesc (td seqn ext : Nat) (s : State) : SeqD × Bool × State :=
  let f := freeKey s (seqKey td seqn)
  let (k, g, b, re) := nextKey f.kidx f.sgen f.kbase
  let (t, s) := tableChan s td
  (SeqD.blank td seqn ext t s.now { kidx := k, sgen := g, kbase := b }, re, s)

/-! ### The commands -/

/-- SEQ_CREATE (R562, R61, R57). -/
def execSeqCreate (ch : Nat) (s : State) : Res :=
  .next (runCmd ch 0x0301 (fun c s =>
    let w := le c.body 0 8
    let a := Sva.ofNat w
    let eid := le c.body 8 2
    let nl := byteAt c.body 10
    let nh := byteAt c.body 11
    let base := le c.body 16 4
    let hend := le c.body 20 4
    if w % 2 ^ 40 ≠ 0 then finishErr c.id 1 s
    else if a.td ≠ c.td then finishErr c.id 3 s
    else match ext? s eid with
      | none => finishErr c.id 3 s
      | some x =>
        if x.td ≠ c.td then finishErr c.id 3 s
        else if x.state ≠ .active then finishErr c.id 0x000D s
        else if 63 < nh ∨ hend ≤ base then finishErr c.id 2 s
        else if (seq? s a.td a.seqn).isSome then finishErr c.id 0x0045 s
        else
          if !descRoom s a.td (seqKey a.td a.seqn) then finishErr c.id 8 s
          else
            let (d, re, s) := newDesc a.td a.seqn eid s
            let d := { d with nlayer := nl, nhead := nh, len := base, base := base, hend := hend, tfront := base }
            finish c.id 0 re (leBytes (rkeyOf d) 4) (placeDesc d s)) s)

/-- SEQ_RELEASE (R61, R496): held until nothing uses the sequence's pages. -/
def execSeqRelease (ch : Nat) (s : State) : Res :=
  .next (runCmd ch 0x0302 (fun c s =>
    match srefCheck s c true with
    | (0, some d) =>
      if d.state = .handoff then finishErr c.id 0x0047 s
      else if seqBusy s d then s
      else
        let s := if d.state = .migrating then sendAbort d s else s
        let (re, s) := releaseSeq d s
        finish c.id 0 re [] s
    | (st, _) => finishErr c.id st s) s)

/-- Commit n tokens (R75, R77): none when LEN + n exceeds TFRONT. -/
def commit (d : SeqD) (n : Nat) : Option SeqD :=
  if d.tfront < d.len + n then none else some { d with len := d.len + n, tfront := max d.tfront (d.len + n) }

/-- SEQ_COMMIT (R75). -/
def execSeqCommit (ch : Nat) (s : State) : Res :=
  .next (runCmd ch 0x0303 (fun c s => onSeq c (fun d s =>
    match commit d (le c.body 16 4) with
    | none => finishErr c.id 5 s
    | some d => finishOk c.id (leBytes d.len 4) (setSeq d s)) s) s)

-- DEDUCED, unsafe, log entry 63.
/-- Pages that a truncation to n frees (R78). -/
def truncPages (s : State) (d : SeqD) (n : Nat) : List Nat :=
  (mappedPages d).filter (fun p => decide (n ≤ pixT p * tokT s d.td) && (match leafOf d p with | some l => l.tier != .absent | none => false))

/-- SEQ_TRUNCATE (R77, R78, R61, R363): held while pages it would free are in use. -/
def execSeqTruncate (ch : Nat) (s : State) : Res :=
  .next (runCmd ch 0x0304 (fun c s => onSeq c (fun d s =>
    let n := le c.body 16 4
    if n < d.base ∨ d.len < n then finishErr c.id 5 s
    else
      let ps := truncPages s d n
      if ps ≠ [] ∧ seqBusy s d then s
      else
        let inWin := ps.any (fun p => inWindow s d (pixLayer p))
        let s := ps.foldl (fun s p => touch d.td d.seqn p (freePage d.td d.seqn p s)) s
        let s := if inWin then endWake d.td d.seqn s else s
        let (k, g, b, re) := if ps = [] then (d.kidx, d.sgen, d.kbase, false) else nextKey d.kidx d.sgen d.kbase
        let s := updSeq d.td d.seqn (fun d => { d with len := n, tfront := n, kidx := k, sgen := g, kbase := b }) s
        finish c.id 0 re (leBytes (k * 0x10000 + g) 4 ++ leBytes n 4) (settleWork s)) s) s)

/-- SEQ_FENCE (R153). -/
def execSeqFence (ch : Nat) (s : State) : Res :=
  .next (runCmd ch 0x0305 (fun c s => onSeq c (fun d s =>
    let l := openAppends s d.td d.seqn
    if l = [] then finishOk c.id [] s else updCmd c.id (fun c => { c with stage := .running, todo := l }) s) s) s)

/-- SEQ_STAGE (R279, R558): answered once the reads are queued. -/
def execSeqStage (ch : Nat) (s : State) : Res :=
  .next (runCmd ch 0x0306 (fun c s => onSeq c (fun d s =>
    let l := byteAt c.body 16
    if d.nlayer < l then finishErr c.id 2 s
    else finishOk c.id [] (stageOnAccept d.td d.seqn l s)) s) s)

/-- TIER as entries encode it (R49). -/
def Tier.code : Tier → Nat | .dram => 0 | .flash => 1 | .absent => 2 | .zero => 3 | .shared => 4

/-- A non-leaf entry as a word (R48); FRAME is the node's own number (R699). -/
def TabE.word (e : TabE) : Nat :=
  if e = TabE.zero then 0
  else 2 ^ 63 + e.tier.code * 2 ^ 60 + e.tdc * 2 ^ 54 + e.gen * 2 ^ 38 + e.len * 2 ^ 34 + e.cmp * 2 ^ 32 + b2n e.psn * 2 ^ 30 + e.frame % 2 ^ 30

/-- The descriptor as bytes (R56). -/
def descBytes (d : SeqD) : List Byte :=
  leBytes (2 ^ 63 + d.state.code * 2 ^ 60 + d.td * 2 ^ 54 + d.seqn * 2 ^ 36 + d.nlayer * 2 ^ 28 + d.nhead * 2 ^ 22) 8
  ++ leBytes (d.sgen * 2 ^ 48 + d.kbase * 2 ^ 32 + d.kidx * 2 ^ 16 + d.mgen) 8
  ++ leBytes (d.len * 2 ^ 32 + d.base) 8 ++ leBytes (d.hend * 2 ^ 32 + d.tfront) 8
  ++ leBytes d.root.word 8
  ++ leBytes d.tlast 8 ++ leBytes (countTier d .dram * 2 ^ 32 + countTier d .flash) 8 ++ leBytes (d.ckep * 2 ^ 32) 8

/-- SEQ_QUERY (R56, R558). -/
def execSeqQuery (ch : Nat) (s : State) : Res :=
  .next (runCmd ch 0x0307 (fun c s =>
    match srefCheck s c false with
    | (0, some d) => finishOk c.id (descBytes d) s
    | (st, _) => finishErr c.id st s) s)

end Sys2Proof.Machine
end

