-- ==== Sys2Proof/Machine/Raw.lean ====
section
/-! DEFINITION. Raw bank commands (R129, R155 to R162, R261), and the sequencer's FILL (R700) and COPY. The descriptor's TAG has no field in the
response but the header's (R553, R558). -/

namespace Sys2Proof.Machine

/-- A sum of products in FP32 whose order is open (R118): free value k within relative error n × 2^−23. -/
def sumSq (k : Nat) (l : List FV) : F32 :=
  if l.any (· == .nan) then nan32
  else if l.any (fun v => !v.isFin) then 0x7F800000
  else
    let x := l.foldl (fun (a : Rat) v => a + v.val * v.val) 0
    let t := l.length * x * pow2 (-23)
    within k (x - t) (x + t)

-- DESIGN CHOICE, unsafe, log entry 161.
/-- SCORE (R158): the score of a query row against every key slot of a page image, key region and outlier channels. -/
def rawScores (g : W64) (fmt : List W64) (k : Nat) (q : List FV) (img : List Byte) : List F32 :=
  (nats (geomT g)).map (fun t =>
    let terms := (nats (geomW g)).map (fun c => (q.getD c .nan, keyElem g img t c))
      ++ (nats (fmtNoc fmt)).map (fun n => (q.getD (fmtOch fmt n) .nan, outElem g img n t))
    if terms.any (fun x => !x.1.isFin || !x.2.isFin) then nan32
    else
      let x := terms.foldl (fun (a : Rat) y => a + y.1.val * y.2.val) 0
      let m := terms.foldl (fun (a : Rat) y => a + |y.1.val| * |y.2.val|) 0
      within (k + t) (x - m * pow2 (-18)) (x + m * pow2 (-18)))

-- DEDUCED, unsafe, log entry 141.
/-- The page a raw descriptor names: status, its page index and what the walk gives. A LAYER or HEAD beyond the sequence is GEOMETRY (R35). -/
def rawPage (s : State) (d : SeqD) (sva : Nat) : Nat × Nat × Option Leaf :=
  let a := Sva.ofNat sva
  let p := pageIx a.layer a.head a.tpage
  if d.nlayer < a.layer ∨ d.nhead < a.head then (2, p, none)
  else match walk s d p with
    | .unmapped => (3, p, none)
    | .tcheck _ => (3, p, none)
    | .absent => (0, p, none)
    | .zero => (0, p, none)
    | .page _ e => (0, p, some e)

/-- A failed tenant check met by a raw operation is reported. -/
def rawTcheck (s : State) (d : SeqD) (p : Nat) : State := match walk s d p with | .tcheck t => tcheckError d p t 0 s | _ => s

/-- Write the range codeword by codeword but those to skip (R144), none of it beyond the blocks (R45). -/
def rawStore (g : W64) (fmt : List W64) (r : RawD) (f : Nat) (new : List Byte) (skip : Nat → Bool) (s : State) : State :=
  let new := maskPage g fmt r.doff new
  (nats r.ncw).foldl (fun (s : State) i =>
    let a := pageAddr f + r.doff + 32 * i
    if skip i then s
    else dropWriteback a (a + 32) { s with mem := (wrPage s.mem f (r.doff + 32 * i) (slice new (32 * i) 32)).1 }) s

/-- Source codewords, counted from SOFF, that the operation reads for codeword i of its range. -/
def srcCws (r : RawD) (i : Nat) : List Nat :=
  if r.opc = 7 then ((nats (perCw r.efmt)).map (fun j => (i * perCw r.efmt + j) % max 1 r.imm1 / perCw r.efmt)).eraseDups else [i]

/-- The result of RMS_SUMSQ: one sum per vector of IMM1 elements. -/
def rawSums (r : RawD) (k : Nat) (dst : List Byte) : List Byte :=
  (nats ((elems r.efmt dst).length / max 1 r.imm1)).flatMap (fun i => leBytes (sumSq (k + i) (((elems r.efmt dst).drop (i * r.imm1)).take r.imm1)).toNat 4)

/-- A read of the destination page is done with: its counts, and poison. -/
def rawDone (d : SeqD) (p : Nat) (e : Option Leaf) (x : PRead) (s : State) : State :=
  match e with
  | some l => pageReadDone d.td d.seqn p l.frame 0 x s
  | none => s

/-- What SCORE reads of a page (R129, R158, R252): its key blocks with their scales, and the outlier channels; none of the value region. -/
def scoreRead (g : W64) (fmt : List W64) (f : Nat) (x : PRead) : PRead :=
  let met := cwsOf f ((nats (geomT g / 32)).flatMap (fun j =>
    [(keyOff g j 0, geomW g * blkBytes (geomK g)), (keyScaleOff g j 0, geomW g)] ++ (nats (fmtNoc fmt)).map (fun n => (outOff g n (32 * j), 64))))
  { x with corr := x.corr.filter (met.contains ·), bad := x.bad.filter (met.contains ·) }

/-- Carry out a checked raw operation, whose free values count from k: response status, result bytes, state. `keep` are the codewords of the range that it leaves as they are
since its unit stopped. -/
def rawRun (r : RawD) (d : SeqD) (dp sp k : Nat) (keep : Nat → Bool) (s : State) : Nat × List Byte × State :=
  let g := (dom s d.td).geom
  let n := 32 * r.ncw
  match seq? s d.td d.seqn with
  | none => (3, [], s)
  | some d =>
    let de := effLeaf s d dp
    let se := effLeaf s d sp
    let src := if usesSource r.opc then rawRead s se r.soff (srcBytes r (geomW g)) else { bytes := [], corr := [], bad := [] }
    let s := if usesSource r.opc then rawDone d sp se src s else s
    let srcBad := !src.bad.isEmpty
    if r.opc = 8 then
      let img := match de with
        | some l => scoreRead g (dom s d.td).fmt l.frame (rawRead s (some l) 0 69632)
        | none => { bytes := zeros 69632, corr := [], bad := [] }
      (if srcBad || !img.bad.isEmpty then 0x20 else 0,
        (rawScores g (dom s d.td).fmt k (elems r.efmt src.bytes) img.bytes).flatMap (fun x => leBytes x.toNat 4), rawDone d dp de img s)
    else if r.opc = 6 then
      let x := rawRead s de r.doff n
      (if x.bad.isEmpty then 0 else 0x20, rawSums r k x.bytes, rawDone d dp de x s)
    else match de with
      | none => (7, [], s)
      | some l =>
        let x := if readsDest r.opc then rdPage s.mem l.frame r.doff n else { bytes := [], corr := [], bad := [] }
        let sBase := match se with | some l => pageAddr l.frame + r.soff | none => 0
        let skip := fun i => keep i || x.bad.contains (pageAddr l.frame + r.doff + 32 * i)
          || (srcCws r i).any (fun j => src.bad.contains (sBase + 32 * j))
        let s := touch d.td d.seqn dp (rawStore g (dom s d.td).fmt r l.frame (rawNew r k x.bytes src.bytes) skip (noteRead x s))
        let s := poisonFirst d.td d.seqn dp l.frame 0 x.bad s
        (if srcBad || !x.bad.isEmpty then 0x20 else 0, [], s)

/-- The operation is over: it leaves its unit's queue, whose postponed refreshes are issued (R330), and its response is due. -/
def rawEnd (id status : Nat) (res : List Byte) (s : State) : State :=
  let us := (s.att.units.filter (fun u => u.2.contains (.raw id))).map (·.1)
  settleWork (finish id status false res (us.foldl (fun s u => issuePostponed u s) (dropOps (· == .raw id) s)))

/-- The entry in force of a page as a raw operation meets it. -/
def rawLeaf (s : State) (d : SeqD) (p : Nat) : Option Leaf := (seq? s d.td d.seqn).bind (fun d => effLeaf s d p)

def rawPoisoned (s : State) (r : RawD) (d : SeqD) (dp sp : Nat) : Bool :=
  let psn := fun p => match rawLeaf s d p with | some l => l.psn | none => false
  (readsDest r.opc && psn dp) || (usesSource r.opc && psn sp)

/-- Frames for the pages of an operation (R159): status 7 or 8 without one; promotions and private copies begin. -/
def rawFrames (r : RawD) (d : SeqD) (dp sp : Nat) (s : State) : Nat × State :=
  let x := if writesDest r.opc then ensureFrame d.td d.seqn dp s else startPromotion d.td d.seqn dp s
  if x.1 ≠ 0 ∨ !usesSource r.opc then x else startPromotion d.td d.seqn sp x.2

/-- A page of the operation is in flash still, or its entry is being changed and the operation writes it (R71, R150, R159), or its channel
retrains (R332). -/
def rawWaits (s : State) (r : RawD) (d : SeqD) (dp sp : Nat) : Bool :=
  let away := fun p => match rawLeaf s d p with
    | some l => (l.tier == .flash && !l.psn) || (l.tier == .dram && (ch s (frChan l.frame)).retraining)
    | none => false
  (writesDest r.opc && isMoving s d.td d.seqn dp) || away dp || (usesSource r.opc && away sp)

/-- The unit of the destination page's pair. -/
def rawUnit (s : State) (d : SeqD) (dp : Nat) : Option Nat :=
  match rawLeaf s d dp with
  | some l => if l.tier = .dram then some (frUnit l.frame) else none
  | none => none

/-- Run an operation and answer it (R158, R160, R532). -/
def rawFinish (id td : Nat) (r : RawD) (d : SeqD) (dp sp : Nat) (s : State) : State :=
  let (st, res, s) := rawRun r d dp sp (rawKey id) (fun _ => false) s
  if st = 0 ∧ hasResult r.opc then
    (if dmaStopped s td then rawEnd id (Config.bankDmaError % 0xFFFF + 1) [] s else rawEnd id 0 [] (emit (.dmaWrite td r.raddr res) s))
  else rawEnd id st [] s

/-- The unit of an operation is fenced while it runs (R162, R167): each codeword of its range holds its old or its new value, by free bits: the old
one, where the operation still waits for a page. -/
def rawStop (id : Nat) (s : State) : State :=
  match s.mbx.cmds.find? (fun c => c.id == id) with
  | none => s
  | some c =>
    let r := RawD.ofBytes c.body
    let a := Sva.ofNat r.dsva
    let k := s.free
    let s := { s with free := s.free + 2048 }
    rawEnd id 0x22 [] (match seq? s a.td a.seqn with
      | some d =>
        let dp := (rawPage s d r.dsva).2.1
        let sp := (rawPage s d r.ssva).2.1
        if rawWaits s r d dp sp then s
        else (rawRun r d dp sp (rawKey id) (fun i => (Config.freeValue (k + i)).toNat % 2 == 1) s).2.2
      | none => s)

-- DEDUCED, unsafe, log entry 143.
/-- A COPY between pages in different bank pairs: it runs through the channel controllers (R161). -/
def crossPair (s : State) (r : RawD) (d : SeqD) (dp sp : Nat) : Bool :=
  r.opc == 2 && (match rawUnit s d dp, rawUnit s d sp with | some u, some v => u != v | _, _ => false)

/-- An operation whose pages are in place goes to its destination's unit, and runs when it is that unit's next (R18); a COPY across pairs goes to
no unit (R161). -/
def rawIssue (id td : Nat) (r : RawD) (d : SeqD) (dp sp : Nat) (s : State) : State :=
  match rawUnit s d dp with
  | none => rawFinish id td r d dp sp s
  | some u =>
    if crossPair s r d dp sp then rawFinish id td r d dp sp s
    else if r.opc ≠ 1 ∧ r.opc ≠ 2 ∧ codeUnit s u ≠ .good then rawEnd id 0x21 [] s
    else
      let s := if (lookD [] s.att.units u).contains (.raw id) then s else enqueueUnit u (.raw id) (dropOps (· == .raw id) s)
      if nextOp s u = some (.raw id) ∧ pairRuns s u then rawFinish id td r d dp sp s else s

-- DESIGN CHOICE, unsafe, log entry 142.
/-- BANK_OP (R155 to R162, R532): `opc` is the row's code; a descriptor with a code outside R129 is refused by whichever row meets it. The
command starts when its operation runs; until then it waits for appends (R155), for its pages, and in its unit's queue. -/
def bankOp (chn opc : Nat) (s : State) : State :=
  runCmd chn 0x0308 (fun c s =>
    let r := RawD.ofBytes c.body
    let a := Sva.ofNat r.dsva
    let b := Sva.ofNat r.ssva
    let w := geomW (dom s c.td).geom
    if rawCode r.opc && r.opc != opc then s
    else if c.body.length < 64 ∨ !rawWell r w then rawEnd c.id 1 [] s
    else if a.td ≠ c.td ∨ (usesSource r.opc ∧ b.td ≠ c.td) then rawEnd c.id 3 [] s
    else if usesSource r.opc ∧ b.seqn ≠ a.seqn then rawEnd c.id 1 [] s
    else match seq? s a.td a.seqn with
      | none => rawEnd c.id 3 [] s
      | some d =>
        if !d.here then rawEnd c.id 3 [] s
        else if rkeyOf d ≠ r.rkey then rawEnd c.id 4 [] s
        else
          let (st1, dp, _) := rawPage s d r.dsva
          let (st2, sp, _) := if usesSource r.opc then rawPage s d r.ssva else (0, 0, none)
          if st1 = 2 ∨ st2 = 2 then rawEnd c.id 2 [] s
          else if st1 ≠ 0 ∨ st2 ≠ 0 then rawEnd c.id 3 [] (rawTcheck (rawTcheck s d dp) d sp)
          else if hasResult r.opc ∧ r.rlen < resultLen r (geomT (dom s c.td).geom) then rawEnd c.id 0x0B [] s
          else if rawPoisoned s r d dp sp then rawEnd c.id 0x20 [] s
          else if c.todo.any ((liveAppends s).contains ·) then s
          else
            let (st, s) := rawFrames r d dp sp s
            if st ≠ 0 then rawEnd c.id st [] s
            else if rawPoisoned s r d dp sp then rawEnd c.id 0x20 [] s
            else if rawWaits s r d dp sp then s
            else rawIssue c.id c.td r d dp sp s) s

/-- FILL: a raw one (R129), or the sequencer's zero fill of a frame that returned to its pool (R700): behind the operations already issued to the
unit, and not while the pair's channel retrains. -/
def execFill (by_ : FillBy) (s : State) : Res :=
  .next (match by_ with
    | .raw ch => bankOp ch 1 s
    | .sequencer f =>
      let ix := frameIx f
      let u := frUnit f
      let queued := (lookD [] s.att.units u).contains (.zero f)
      if !pairRuns s u ∨ nextOp s u ≠ (if queued then some (.zero f) else none) then s
      else
        let s := if queued then popOp u s else s
        if look s.mem.frames ix = some .dirty then
          let m := zeroFrame s.mem ix
          settleWork { s with mem := { m with frames := rem m.frames ix } }
        else s)

/-- COPY (R129, R161): a raw one, or the sequencer's for a change of leaf entry within a bank pair. -/
def execCopy (by_ : CopyBy) (s : State) : Res :=
  .next (match by_ with
    | .raw ch => bankOp ch 2 s
    | .sequencer cid => unitCopy cid s)
/-- SCALE (R129, R261). -/
def execScale (ch : Nat) (s : State) : Res := .next (bankOp ch 3 s)
/-- ADD (R129, R261). -/
def execAdd (ch : Nat) (s : State) : Res := .next (bankOp ch 4 s)
/-- MUL (R129, R261). -/
def execMul (ch : Nat) (s : State) : Res := .next (bankOp ch 5 s)
/-- RMS_SUMSQ (R129, R158, R261). -/
def execRmsSumsq (ch : Nat) (s : State) : Res := .next (bankOp ch 6 s)
/-- RMS_APPLY (R129, R261). -/
def execRmsApply (ch : Nat) (s : State) : Res := .next (bankOp ch 7 s)
/-- SCORE (R129, R158). -/
def execScore (ch : Nat) (s : State) : Res := .next (bankOp ch 8 s)

end Sys2Proof.Machine
end

