-- ==== Sys2Proof/Machine/Prefix.lean ====
section
/-! DEFINITION. The prefix directory and shared pages (chapter 10): searches, insertion and repair, and the commands PFX_LOOKUP, SEQ_PUBLISH,
SEQ_ATTACH and PFX_UNPUBLISH. -/

namespace Sys2Proof.Machine

/-! ### Banks (R340 to R350) -/

def bankTab (s : State) (b : Nat) : List (Nat × DirE) := lookD [] s.pfx.banks b
def bankSlots : Nat := 65536

-- DESIGN CHOICE, safe, log entry 93.
/-- Insert an entry at its place in a bank (R347): the block of occupied slots from there on moves up by one; with none empty above, the
block below moves down. None for a full bank. -/
def bankInsert (t : List (Nat × DirE)) (e : DirE) : Option (List (Nat × DirE)) :=
  let p := t.foldl (fun m x => if x.2.key.toNat < e.key.toNat then max m (x.1 + 1) else m) 0
  let q := t.foldl (fun q x => if x.1 = q then q + 1 else q) p
  if q < bankSlots then some (put (t.map (fun x => if p ≤ x.1 ∧ x.1 < q then (x.1 + 1, x.2) else x)) p e)
  else
    let b := t.reverse.foldl (fun b x => if x.1 + 1 = b then x.1 else b) p
    if b = 0 then none else some (put (t.map (fun x => if b ≤ x.1 ∧ x.1 < p then (x.1 - 1, x.2) else x)) (p - 1) e)

/-- The copy is written first, then the bank (R349). -/
def insertEntry (td : Nat) (e : DirE) (s : State) : Option State :=
  (bankInsert (bankTab s (bankOf e.key)) e).map (fun t =>
    { s with pfx := { s.pfx with
      copies := put s.pfx.copies td (lookD [] s.pfx.copies td ++ [e])
      banks := put s.pfx.banks (bankOf e.key) t } })

/-- A bank with the entry of a key as its copy has it (R345, R347, R350): rewritten in its own slot, restored at its place, or, without a copy,
removed. -/
def mendBank (t : List (Nat × DirE)) (key : BitVec 128) (c : Option DirE) : List (Nat × DirE) :=
  match c with
  | some c => if t.any (fun x => x.2.key == key) then t.map (fun x => if x.2.key = key then (x.1, c) else x) else (bankInsert t c).getD t
  | none => t.filter (fun x => x.2.key != key)

/-- Repair of a bank's entry from its copy (R350): counted, and logged with the slot that is written, or that held the entry. -/
def repairEntry (td b slot : Nat) (key : BitVec 128) (s : State) : State :=
  let t := mendBank (bankTab s b) key (entryCopy? s td key)
  let at_ := ((t.find? (fun x => x.2.key == key)).map (·.1)).getD slot
  let s := { s with pfx := { s.pfx with banks := put s.pfx.banks b t } }
  report { err0 1 0x0011 (b * 2 ^ 16 + at_) with td := some td } (bump (ctrTd td 0x09C) s)

/-- The group's header confirms the entry (R346). -/
def headerOk (s : State) (td : Nat) (e : DirE) : Bool := s.pfx.groups.any (fun g => g.td == td && g.sidx == e.sidx && g.key == e.key)

/-- A search of a key (R346): the entry found, or a miss; an entry whose header disagrees is repaired. -/
def search (td : Nat) (key : BitVec 128) (s : State) : Option DirE × State :=
  match (bankTab s (bankOf key)).find? (fun x => x.2.key == key) with
  | none => (none, s)
  | some x => if headerOk s td x.2 then (some x.2, s) else (none, repairEntry td (bankOf key) x.1 key s)

def groupOfEntry (s : State) (td : Nat) (e : DirE) : Option Group := s.pfx.groups.find? (fun g => g.td == td && g.sidx == e.sidx)

def stampGroup (td sidx : Nat) (s : State) : State := updGroup td sidx (fun g => { g with last := s.now }) s

/-! ### Keys and results (R337, R358, R563) -/

/-- Key i of a body whose keys begin at byte o: key bits [127:64] first (R554). -/
def keyAt (body : List Byte) (o i : Nat) : BitVec 128 := BitVec.ofNat 128 (le body (o + 16 * i) 8 * 2 ^ 64 + le body (o + 16 * i + 8) 8)
def keyTd (k : BitVec 128) : Nat := k.toNat / 2 ^ 122

/-- K and the keys' domains: MALFORMED, RANGE_NOT_HELD, or zero. -/
def keysCheck (c : Cmd) (k o : Nat) : Nat :=
  if k = 0 ∨ 64 < k ∨ c.body.length < o + 16 * k then 1
  else if (nats k).any (fun i => keyTd (keyAt c.body o i) != c.td) then 3 else 0

/-- A result of 8 B. -/
def keyResult (status ver flags : Nat) : List Byte := leBytes status 2 ++ leBytes ver 2 ++ leBytes flags 4

/-- Counters of statuses (R371). -/
def countKey (td status : Nat) (s : State) : State :=
  if status = 0x31 then bump (ctrTd td 0x090) s else if status = 0x33 then bump (ctrTd td 0x098) s else s

/-- PFX_LOOKUP (R359): each key searched on its own; only live entries hit. -/
def execPfxLookup (ch : Nat) (s : State) : Res :=
  .next (runCmd ch 0x0401 (fun c s =>
    let k := byteAt c.body 0
    match keysCheck c k 16 with
    | 0 =>
      let (res, s) := (nats k).foldl (fun (acc : List Byte × State) i =>
        let (o, s) := search c.td (keyAt c.body 16 i) (bump (ctrTd c.td 0x080) acc.2)
        match o with
        | some e =>
          if e.st = .live then
            (acc.1 ++ leBytes 0 2 ++ leBytes e.ver 2 ++ leBytes e.nlayer 1 ++ leBytes e.nhead 1 ++ leBytes (b2n e.psn) 1 ++ zeros 1,
              stampGroup c.td e.sidx (bump (ctrTd c.td 0x084) s))
          else (acc.1 ++ keyResult 0x32 0 0, s)
        | none => (acc.1 ++ keyResult 0x32 0 0, s)) ([], s)
      finishOk c.id (leBytes k 1 ++ zeros 15 ++ res) s
    | st => finishErr c.id st s) s)

/-! ### SEQ_PUBLISH (R360 to R363) -/

/-- Pages of token page t of a sequence, by layer and head. -/
def tokenPages (d : SeqD) (t : Nat) : List Nat :=
  (nats (d.nlayer + 1)).flatMap (fun l => (nats (d.nhead + 1)).map (fun h => pageIx l h t))

/-- Record index of a page in a group. -/
def recIx (sidx nhead pix : Nat) : Nat := sidx + 2 + pixLayer pix * (nhead + 1) + pixHead pix

-- DESIGN CHOICE, safe, log entry 92.
/-- First of n free record indices of a domain, lowest first. -/
def freeSidx (s : State) (td n : Nat) : Option Nat :=
  let used := ((s.pfx.groups.filter (fun g => g.td == td)).map (fun g => (g.sidx, 2 + (g.nlayer + 1) * (g.nhead + 1)))).mergeSort (fun a b => decide (a.1 ≤ b.1))
  let at_ := used.foldl (fun p u => if p + n ≤ u.1 then p else max p (u.1 + u.2)) 0
  if at_ + n ≤ 2 ^ 30 then some at_ else none

/-- A page of a command whose tenant check fails. -/
def tcheckPage (s : State) (d : SeqD) (ps : List Nat) : Option Nat := ps.find? (fun p => match walk s d p with | .tcheck _ => true | _ => false)

/-- The failed tenant check of a command is reported (R54). -/
def reportTcheck (d : SeqD) (ps : List Nat) (s : State) : State := match tcheckPage s d ps with | some p => rawTcheck s d p | none => s

/-- What the leaves of a token page allow: PAGE_IN_USE, RANGE_NOT_HELD for a failed tenant check (R54) or an unmapped page (R83), PAGE_NOT_WRITTEN, PAGE_POISONED, or
zero. -/
def pageLeaves (s : State) (d : SeqD) (ps : List Nat) : Nat :=
  let w := ps.map (walk s d)
  if ps.any (fun p => match leafOf d p with | some l => l.tier == .shared | none => false) then 0x34
  else if (tcheckPage s d ps).isSome then 3
  else if w.any (· == .unmapped) then 3
  else if w.any (fun x => match x with | .absent => true | .zero => true | _ => false) then 0x30
  else if w.any (fun x => match x with | .page _ e => e.psn | _ => false) then 0x20 else 0

/-- The pages' frames are not in use and none is Moving. -/
def pagesQuiet (s : State) (d : SeqD) (ps : List Nat) : Bool :=
  ps.all (fun p => !isMoving s d.td d.seqn p && (match effLeaf s d p with
    | some e => e.tier != .dram || (frameUsers s e.frame).isEmpty
    | none => true))
    && s.att.reqs.all (fun r => !(r.td == d.td && r.seqn == d.seqn && r.app && r.appLeft.any (fun a =>
      ps.contains (pageIx r.layer (headOf r a.1) a.2))))

-- DEDUCED, unsafe, log entry 95.
/-- Outcome of one page of SEQ_PUBLISH: answered at once, waiting, or its entry RESERVED. -/
inductive PubStep where
  | done (status ver flags : Nat)
  | wait
  | reserved (sidx : Nat)
  deriving DecidableEq, Repr

/-- Deduplicate a token page onto a live group (R360). -/
def dedup (d : SeqD) (ps : List Nat) (e : DirE) (s : State) : State :=
  let s := ps.foldl (fun s p =>
    match (seq? s d.td d.seqn).bind (fun d => leafOf d p) with
    | none => s
    | some l =>
      let s := match l.tier with
        | .dram => giveFrame l.frame s
        | .flash => freeFlash l.frame s
        | _ => s
      let ix := recIx e.sidx e.nhead p
      let s := updGroup d.td e.sidx (fun g => { g with recs := modify g.recs ix (fun r => { r with ref := r.ref + 1 }) }) s
      setLeafAt d.td d.seqn p { l with tier := .shared, gen := (l.gen + 1) % 2 ^ 16, heat := 0, cmp := 0, shr := true, frame := ix }
        (voidPage d.td d.seqn p s)) s
  stampGroup d.td e.sidx (updEntry d.td e.key (fun x => { x with ref := x.ref + ps.length }) s)

-- DESIGN CHOICE, unsafe, log entry 164.
/-- Checks and first part of one page's publication. -/
def publishStart (d : SeqD) (t ver : Nat) (key : BitVec 128) (retain : Bool) (s : State) : PubStep × State :=
  let tt := tokT s d.td
  let ps := tokenPages d t
  if d.len < (t + 1) * tt ∨ t * tt < d.base ∨ 1024 ≤ t then (.done 5 0 0, s)
  else
    let (o, s) := search d.td key s
    match o with
    | some e =>
      if e.ver ≠ ver then (.done 0x31 e.ver 0, s)
      else if e.st = .reserved then (.wait, s)
      else if e.nlayer ≠ d.nlayer ∨ e.nhead ≠ d.nhead then (.done 2 0 0, s)
      else if ps.all (fun p => match leafOf d p with | some l => l.tier == .shared && l.frame == recIx e.sidx e.nhead p | none => false) then
        (.done 0 0 1, stampGroup d.td e.sidx s)
      else match pageLeaves s d ps with
        | 0 => if pagesQuiet s d ps then (.done 0 0 2, settleWork (bump (ctrTd d.td 0x08C) (dedup d ps e s))) else (.wait, s)
        | st => (.done st 0 0, reportTcheck d ps s)
    | none =>
      match pageLeaves s d ps with
      | 0 =>
        let n := 2 + ps.length
        if (lookD 0x4000#32 s.pfx.quota d.td).toNat ≤ (lookD [] s.pfx.copies d.td).length then (.done 0x33 0 0, s)
        else if !pagesQuiet s d ps then (.wait, s)
        else match (if tableRoom s d.td (16 * n + 32) then freeSidx s d.td n else none) with
          | none => (.done 8 0 0, s)
          | some ix =>
            let e : DirE := { key := key, st := .reserved, ver := ver, ref := 0, rtn := retain, psn := false, sidx := ix, nlayer := d.nlayer, nhead := d.nhead }
            match insertEntry d.td e s with
            | none => (.done 0x33 0 0, s)
            | some s =>
              let g : Group := { td := d.td, sidx := ix, key := key, last := s.now, nlayer := d.nlayer, nhead := d.nhead, recs := [], freeing := false }
              (.reserved ix, { s with pfx := { s.pfx with groups := s.pfx.groups ++ [g] } })
      | st => (.done st 0 0, reportTcheck d ps s)

/-- Pages of one command go on until one is RESERVED, one waits, or all are answered. `todo` holds the keys left. -/
def publishLoop (cid j ver : Nat) (retain : Bool) : Nat → State → State
  | 0, s => s
  | n + 1, s =>
    match cmd? s cid with
    | none => s
    | some c =>
      if c.abortReq then finish cid 0x0062 false (leBytes (c.part.length / 8) 1 ++ zeros 15 ++ c.part) s
      else match c.todo with
      | [] => finishOk cid (leBytes (byteAt c.body 20) 1 ++ zeros 15 ++ c.part) s
      | i :: rest =>
        let a := Sva.ofNat (le c.body 0 8)
        match seq? s a.td a.seqn with
        | none => finish cid 3 false (leBytes (c.part.length / 8) 1 ++ zeros 15 ++ c.part) s
        | some d =>
          match publishStart d (j + i) ver (keyAt c.body 32 i) retain s with
          | (.done st v fl, s) =>
            publishLoop cid j ver retain n (updCmd cid (fun c => { c with todo := rest, part := c.part ++ keyResult st v fl }) (countKey c.td st s))
          | (.wait, s) => s
          | (.reserved ix, s) => updCmd cid (fun c => { c with obj := ix + 1 }) s

def publishGo (c : Cmd) (s : State) : State :=
  publishLoop c.id (le c.body 16 4) (le c.body 22 2) ((byteAt c.body 21).testBit 0) (c.todo.length + 1) s

/-- SEQ_PUBLISH (R360): the command runs, and its first page is checked and reserved. -/
def execSeqPublish (ch : Nat) (s : State) : Res :=
  .next (runCmd ch 0x0402 (fun c s =>
    let k := byteAt c.body 20
    match keysCheck c k 32 with
    | 0 => onSeq c (fun _ s =>
        let c' := { c with stage := .running, todo := nats k, part := [], obj := 0 }
        publishGo c' (updCmd c.id (fun _ => c') s)) s
    | st => finishErr c.id st s) s)

/-- The publication of a RESERVED page is refused: the entry and its records go. -/
def publishUndo (td sidx : Nat) (key : BitVec 128) (s : State) : State :=
  let s := dropEntry td key s
  { s with pfx := { s.pfx with groups := s.pfx.groups.filter (fun g => !(g.td == td && g.sidx == sidx)) } }

/-- Promotions of the flash pages of a publication begin (R360); 7 when there is no frame for one. -/
def publishPromote (d : SeqD) (ps : List Nat) (s : State) : Nat × State :=
  ps.foldl (fun (acc : Nat × State) p => if acc.1 ≠ 0 then acc else startPromotion d.td d.seqn p acc.2) (0, s)

/-- End of the publication of a page whose leaves lie in frames: records written, leaves rewritten, the entry LIVE (R360, R361). Answers the
page's status. -/
def publishEnd (d : SeqD) (t sidx : Nat) (key : BitVec 128) (retain : Bool) (s : State) : Nat × State :=
  let ps := tokenPages d t
  let st := pageLeaves s d ps
  if st ≠ 0 then (st, publishUndo d.td sidx key (reportTcheck d ps s))
  else
    let s := ps.foldl (fun s p =>
      match leafOf d p with
      | none => s
      | some l =>
        let ix := recIx sidx d.nhead p
        let s := updGroup d.td sidx (fun g => { g with recs := put g.recs ix { leaf := { l with shr := false }, ref := 1, bad := false } }) s
        setLeafAt d.td d.seqn p { l with tier := .shared, heat := 0, cmp := 0, shr := true, frame := ix } (voidPage d.td d.seqn p s)) s
    let s := updEntry d.td key (fun e => { e with st := .live, ref := ps.length + b2n retain }) s
    (0, settleWork (bump (ctrTd d.td 0x088) (stampGroup d.td sidx s)))

/-- A publication waits for another one, whose RESERVED entry its next key names (R360, R362, R370). -/
def publishBlocked (s : State) (c : Cmd) : Bool :=
  c.obj == 0 && !c.abortReq && (match c.todo with
    | i :: _ => (bankTab s (bankOf (keyAt c.body 32 i))).any (fun x => x.2.key == keyAt c.body 32 i && x.2.st == .reserved)
    | [] => false)

/-- PUBLISH_PAGE_COMPLETE (R360, R361, R363): the oldest publication of the channel that waits for no other one goes on. -/
def execPublishPageComplete (ch : Nat) (s : State) : Res :=
  .next (match s.mbx.cmds.find? (fun c => c.ch == ch && c.stage == .running && c.code == 0x0402 && !publishBlocked s c) with
  | none => s
  | some c =>
    if c.obj = 0 then publishGo c s
    else match c.todo with
      | [] => s
      | i :: rest =>
        let a := Sva.ofNat (le c.body 0 8)
        let sidx := c.obj - 1
        let retain := (byteAt c.body 21).testBit 0
        let key := keyAt c.body 32 i
        match seq? s a.td a.seqn with
        | none =>
          let s := publishUndo c.td sidx key s
          finish c.id 3 false (leBytes (c.part.length / 8) 1 ++ zeros 15 ++ c.part) s
        | some d =>
          let ps := tokenPages d (le c.body 16 4 + i)
          let (st0, s) := publishPromote d ps s
          if st0 = 0 ∧ !pagesQuiet s d ps then s
          else
            let (st, s) := if st0 ≠ 0 then (st0, publishUndo c.td sidx key s)
              else match seq? s a.td a.seqn with
                | some d => publishEnd d (le c.body 16 4 + i) sidx key retain s
                | none => (3, publishUndo c.td sidx key s)
            let c' := { c with todo := rest, part := c.part ++ keyResult st 0 0, obj := 0 }
            publishGo c' (updCmd c.id (fun _ => c') (countKey c.td st s)))

/-! ### SEQ_ATTACH and PFX_UNPUBLISH (R364 to R366) -/

-- DEDUCED, unsafe, log entry 94.
/-- One key of SEQ_ATTACH: status, VER, state. -/
def attachOne (d : SeqD) (ver : Nat) (key : BitVec 128) (s : State) : Nat × Nat × State :=
  let tt := tokT s d.td
  let j := d.len / tt
  let ps := tokenPages d j
  if d.len ≠ j * tt ∨ d.tfront ≠ d.len ∨ d.hend < (j + 1) * tt ∨ 1024 ≤ j then (5, 0, s)
  else
    let (o, s) := search d.td key s
    match o with
    | none => (0x32, 0, s)
    | some e =>
      if e.st ≠ .live then (0x32, 0, s)
      else if e.ver ≠ ver then (0x31, e.ver, s)
      else if e.psn then (0x20, 0, s)
      else if e.nlayer ≠ d.nlayer ∨ e.nhead ≠ d.nhead then (2, 0, s)
      else if (tcheckPage s d ps).isSome then (3, 0, reportTcheck d ps s)
      else if ps.any (fun p => match leafOf d p with | some l => l.tier != .absent && l.tier != .zero | none => false) then (0x34, 0, s)
      else if !tableRoom s d.td (growthOf d ps) then (8, 0, s)
      else
        let s := updEntry d.td key (fun x => { x with ref := x.ref + ps.length }) s
        let s := ps.foldl (fun s p =>
          let g := match (seq? s d.td d.seqn).bind (fun d => leafOf d p) with | some l => l.gen | none => 0
          let ix := recIx e.sidx e.nhead p
          let s := updGroup d.td e.sidx (fun g => { g with recs := modify g.recs ix (fun r => { r with ref := r.ref + 1 }) }) s
          setLeafAt d.td d.seqn p { tier := .shared, tdc := d.td, gen := (g + 1) % 2 ^ 16, heat := 0, cmp := 0, shr := true, psn := false, frame := ix }
            (touch d.td d.seqn p s)) s
        let s := updSeq d.td d.seqn (fun d => { d with len := (j + 1) * tt, tfront := (j + 1) * tt }) s
        (0, 0, bump (ctrTd d.td 0x094) (stampGroup d.td e.sidx s))

/-- Keys in order up to and including the first failure. -/
def attachLoop (c : Cmd) (ver seqn : Nat) : List Nat → List Byte → State → List Byte × State
  | [], acc, s => (acc, s)
  | i :: rest, acc, s =>
    match seq? s c.td seqn with
    | none => (acc, s)
    | some d =>
      let (st, v, s) := attachOne d ver (keyAt c.body 32 i) s
      let s := countKey c.td st s
      if st = 0 then attachLoop c ver seqn rest (acc ++ keyResult 0 0 0) s else (acc ++ keyResult st v 0, s)

/-- SEQ_ATTACH (R364, R563). -/
def execSeqAttach (ch : Nat) (s : State) : Res :=
  .next (runCmd ch 0x0403 (fun c s =>
    let k := byteAt c.body 16
    match keysCheck c k 32 with
    | 0 => onSeq c (fun d s =>
        let (res, s) := attachLoop c (le c.body 18 2) d.seqn (nats k) [] s
        let len := match seq? s d.td d.seqn with | some d => d.len | none => 0
        finishOk c.id (leBytes (res.length / 8) 1 ++ zeros 3 ++ leBytes len 4 ++ zeros 8 ++ res) s) s
    | st => finishErr c.id st s) s)

/-- PFX_UNPUBLISH (R365): it waits while the key's entry is RESERVED (R370). -/
def execPfxUnpublish (ch : Nat) (s : State) : Res :=
  .next (runCmd ch 0x0404 (fun c s =>
    let key := keyAt c.body 0 0
    if keyTd key ≠ c.td then finishErr c.id 3 s
    else
      let (o, s') := search c.td key s
      match o with
      | none => finishErr c.id 0x32 s'
      | some e =>
        if e.st = .reserved then s
        else if !e.rtn then finishOk c.id [] s'
        else
          let s := updEntry c.td key (fun e => { e with rtn := false }) s'
          match groupOfEntry s c.td e with
          | some g => finishOk c.id [] (lowerRef c.td g 1 s)
          | none => finishOk c.id [] s) s)

/-- GROUP_BACKGROUND_FREE (R366): records, frames and flash pages of a group whose entry has been removed go back, once nothing uses
them. -/
def execGroupBackgroundFree (td sidx : Nat) (s : State) : Res :=
  match s.pfx.groups.find? (fun g => g.td == td && g.sidx == sidx) with
  | none => .next s
  | some g =>
    if !g.freeing ∨ g.recs.any (fun r => 0 < r.2.ref) ∨ s.mem.chgs.any (fun c => c.td == td && (match c.record with | some ix => (look g.recs ix).isSome | none => false))
        ∨ g.recs.any (fun r => r.2.leaf.tier == .dram && !(frameUsers s r.2.leaf.frame).isEmpty) then .next s
    else
      let s := g.recs.foldl (fun s r => match r.2.leaf.tier with
        | .dram => giveFrame r.2.leaf.frame s
        | .flash => freeFlash r.2.leaf.frame s
        | _ => s) s
      .next (settleWork { s with pfx := { s.pfx with groups := s.pfx.groups.filter (fun x => !(x.td == td && x.sidx == sidx)) } })

end Sys2Proof.Machine
end

