-- ==== Sys2Proof/Machine/CmdQp.lean ====
section
/-! DEFINITION. Queue pairs: the context (R405), where contexts live (R408 to R411), and QP_CREATE, QP_DESTROY and QP_TABLE (R406, R407, R563,
R564). -/

namespace Sys2Proof.Machine

/-! ### The context (R405) -/

def rtomin (s : State) : Nat := max 1 (fld s.net.rtx 31 16) * 1000
def rtxRetry (s : State) : Nat := fld s.net.rtx 15 12
def rtxReord (s : State) : Nat := max 1 (fld s.net.rtx 11 8)
def minwin (s : State) : Nat := max 1 (fld s.net.rtx 7 0)

/-- SBITS: offsets from SUNA that the peer has reported received. -/
def sbits (q : Qp) : List Nat := (q.sent.filter (·.marked)).map (fun x => psnSub x.psn q.suna)

/-- The words W0 to W15, then RBITS and SBITS. -/
def ctxBytes (q : Qp) : List Byte :=
  let st := match q.state with | .ready => 1 | .error => 2
  leBytes (st * 2 ^ 62 + q.td * 2 ^ 56 + q.qpn * 2 ^ 32 + q.pqpn) 8
  ++ leBytes (q.peer * 2 ^ 40 + b2n q.wr * 2 ^ 39 + b2n q.rd * 2 ^ 38 + b2n q.at_ * 2 ^ 37 + q.win * 2 ^ 24) 8
  ++ leBytes (q.snxt * 2 ^ 40 + q.suna * 2 ^ 16 + q.retries * 2 ^ 8) 8
  ++ leBytes (q.epsn * 2 ^ 40 + q.apsn * 2 ^ 16) 8 ++ leBytes (q.msns * 2 ^ 40) 8
  ++ leBytes (q.cwnd * 2 ^ 45 + q.rto) 8 ++ leBytes (q.srtt * 2 ^ 32 + q.rttvar) 8 ++ leBytes (q.lastdec * 2 ^ 32) 8
  ++ leBytes q.tlast 8 ++ leBytes q.sptag.toNat 8 ++ leBytes (q.spcnt * 2 ^ 32) 8 ++ zeros 40
  ++ bitsBytes q.rbits 128 ++ bitsBytes (sbits q) 128

-- DEDUCED, unsafe, log entry 168.
/-- The context with the fields that a fetch brings back: MSNS, APSN and TLAST stand as the node has kept them since, for messages formed,
frames applied and refusals sent while the context lay in the table. -/
def ctxLoad (bs : List Byte) (q : Qp) : Qp :=
  let w := fun i => le bs (8 * i) 8
  let marks := bitsSet (slice bs 256 128)
  let suna := nbits (w 2) 39 16
  { q with
    state := if nbits (w 0) 63 62 = 1 then .ready else .error, pqpn := nbits (w 0) 23 0, peer := nbits (w 1) 63 40
    wr := nbits (w 1) 39 39 == 1, rd := nbits (w 1) 38 38 == 1, at_ := nbits (w 1) 37 37 == 1, win := nbits (w 1) 33 24
    snxt := nbits (w 2) 63 40, suna := suna, retries := nbits (w 2) 15 8, epsn := nbits (w 3) 63 40
    cwnd := nbits (w 5) 63 45, rto := nbits (w 5) 31 0, srtt := nbits (w 6) 63 32, rttvar := nbits (w 6) 31 0
    lastdec := nbits (w 7) 63 32, sptag := BitVec.ofNat 64 (w 9), spcnt := nbits (w 10) 63 32
    rbits := bitsSet (slice bs 128 128)
    sent := q.sent.map (fun x => { x with marked := marks.contains (psnSub x.psn suna) })
    onNode := true }

/-- SPTAG (R410): the first 64 bits of the GMAC over the words, W9 taken as zero. -/
def spillTag (key : BitVec 256) (qpn spcnt : Nat) (bs : List Byte) : W64 :=
  (gcmTag key (BitVec.ofNat 96 (qpn * 2 ^ 72 + spcnt * 2 ^ 40)) (bs.take 72 ++ zeros 8 ++ bs.drop 80) []).extractLsb' 64 64

/-- Address of a context in its table (R409). -/
def ctxAddr (tab qpn : Nat) : Nat := tab + qpn % 16384 * 384

/-- Write a context to the table (R410). -/
def spill (qpn : Nat) (s : State) : State :=
  match qp? s qpn with
  | none => s
  | some q => match (dom s q.td).qpTab with
    | none => s
    | some tab =>
      let q := { q with spcnt := (q.spcnt + 1) % 2 ^ 32 }
      let q := { q with sptag := spillTag s.net.spillKey qpn q.spcnt (ctxBytes q), expSpcnt := q.spcnt, onNode := false }
      dmaOut q.td (.dmaWrite q.td (ctxAddr tab qpn) (ctxBytes q)) (updQp qpn (fun _ => q) s)

/-- A context that R411 lets the node evict. -/
def evictable (s : State) (q : Qp) : Bool := q.onNode && q.sent.isEmpty && !s.net.fetches.any (fun f => f.qpn == q.qpn)

/-- The domain's evictable context least recently used by TLAST (R411). -/
def lruContext (s : State) (td : Nat) : Option Qp :=
  (s.net.qps.filter (fun q => q.td == td && evictable s q)).foldl (fun o q => match o with
    | none => some q
    | some x => if q.tlast < x.tlast then some q else o) none

/-- Contexts of a domain beyond `keep` go to its table, the least recently used first (R409, R411, R478). -/
def spillDown (td keep : Nat) : Nat → State → State
  | 0, s => s
  | n + 1, s =>
    if onNode s td ≤ keep then s
    else match lruContext s td with
      | some q => spillDown td keep n (spill q.qpn s)
      | none => s

/-- Contexts beyond the domain's slots go to its table (R408, R409). -/
def spillToSlots (td : Nat) (s : State) : State := spillDown td (slotsOf s td) (onNode s td) s

/-- An on-node slot of the domain, after evictions when they are full; none when there is none to be had. -/
def takeSlot (td : Nat) (s : State) : Option State :=
  if onNode s td < slotsOf s td then some s
  else if (dom s td).qpTab.isNone then none
  else
    let s := spillDown td (slotsOf s td - 1) (onNode s td) s
    if onNode s td < slotsOf s td then some s else none

/-! ### The commands -/

/-- The QPN is in the domain's range (R564). -/
def qpnOf (td q : Nat) : Bool := decide (td * 16384 ≤ q ∧ q < td * 16384 + 16384 ∧ q ≠ 0)

/-- Destroyed less than 4 s ago (R407). -/
def qpnHeld (s : State) (q : Nat) : Bool := match look s.net.qpnHold q with | some t => decide (s.now < t + 4000000000) | none => false

def qpnFree (s : State) (q : Nat) : Bool := (qp? s q).isNone && !qpnHeld s q

def newQp (s : State) (td qpn peer pqpn psn win snxt flags : Nat) : Qp :=
  { qpn := qpn, td := td, state := .ready, pqpn := pqpn, peer := peer, wr := flags.testBit 0, rd := flags.testBit 1, at_ := flags.testBit 2
    win := win, snxt := snxt, suna := snxt, retries := 0, epsn := psn, apsn := psn, msns := 0, cwnd := 16 * 256, rto := rtomin s
    srtt := rtomin s / 2, rttvar := rtomin s / 4, lastdec := 0, tlast := s.now, sptag := 0, spcnt := 0, rbits := [], onNode := true, expSpcnt := 0
    ordered := [], unapplied := [], finals := [], att := [], reads := [], owner := [], sendq := [], sent := [], ownReads := [], sinceAck := 0
    firstUnacked := none, echo := 0, epsnf := 0, lastQperr := none }

/-- QP_CREATE (R406, R407, R564). -/
def execQpCreate (ch : Nat) (s : State) : Res :=
  .next (runCmd ch 0x0501 (fun c s =>
    let want := le c.body 0 4
    let win := le c.body 16 2
    let qpn := if want = 0 then (nats 16384).findSome? (fun i => let q := c.td * 16384 + i; if q ≠ 0 ∧ qpnFree s q then some q else none) else some want
    if 0x3FF < win then finishErr c.id 1 s
    else if want ≠ 0 ∧ !qpnOf c.td want then finishErr c.id 3 s
    else match qpn with
      | none => finishErr c.id 0x61 s
      | some q =>
        if !qpnFree s q then finishErr c.id 0x61 s
        else if slotsOf s c.td ≤ onNode s c.td ∧ (dom s c.td).qpTab.isNone then finishErr c.id 0x43 s
        else
          let (x, s) := draw 24 s
          let qp := newQp s c.td q (le c.body 4 3) (le c.body 8 3) (le c.body 12 3) win x (byteAt c.body 18)
          let s := { s with net := { s.net with qpnHold := rem s.net.qpnHold q } }
          let s := match takeSlot c.td s with
            | some s => setQps (fun l => l ++ [qp]) s
            | none => spill q (setQps (fun l => l ++ [qp]) s)
          finishOk c.id (leBytes q 4 ++ leBytes x 4) s) s)

/-- QP_DESTROY (R406, R407): frames held for the queue pair are discarded; a reply in its send stream is undelivered. -/
def execQpDestroy (ch : Nat) (s : State) : Res :=
  .next (runCmd ch 0x0502 (fun c s =>
    let n := le c.body 0 4
    match qp? s n with
    | none => finishErr c.id 3 s
    | some q =>
      if !qpnOf c.td n ∨ q.td ≠ c.td then finishErr c.id 3 s
      else
        let s := setQps (fun l => l.filter (fun x => x.qpn != n)) s
        let s := { s with net := { s.net with qpnHold := put s.net.qpnHold n s.now, fetches := s.net.fetches.filter (fun f => f.qpn != n) } }
        let s := q.sendq.foldl (fun s m => ownerFailed m.owner s) s
        finishOk c.id [] s) s)

/-- QP_TABLE (R409, R564). -/
def execQpTable (ch : Nat) (s : State) : Res :=
  .next (runCmd ch 0x0503 (fun c s =>
    let a := le c.body 0 8
    let n := le c.body 8 4
    if a % 4096 ≠ 0 ∨ (n ≠ 0 ∧ n ≠ 16384) then finishErr c.id 1 s
    else if n = 0 ∧ s.net.qps.any (fun q => q.td == c.td && !q.onNode) then finishErr c.id 0x42 s
    else finishOk c.id [] (updDom c.td (fun d => { d with qpTab := if n = 0 then none else some a }) s)) s)

end Sys2Proof.Machine
end

