-- ==== Sys2Proof/Machine/Accept.lean ====
section
/-! DEFINITION. Attention requests from descriptor to acceptance, and their replies (R85 to R106, R248, R475, R483 to R485, R573, R701, R702). -/

namespace Sys2Proof.Machine

/-! ### The descriptor (R85 to R88) -/

structure AttD where
  opc : Nat
  ver : Nat
  mask : Nat
  path : Nat
  fin : Bool
  app : Bool
  fence : Bool
  rot : Bool
  ncmt : Nat
  epoch : Nat
  sva : Nat
  rkey : Nat
  tag : Nat
  rstart : Nat
  rend : Nat
  qpos : Nat
  c : Nat
  g : Nat
  qfmt : Nat
  qzp : Nat
  hmask : Nat
  tree : Nat
  sscale : F32
  qscale : F32
  ykey : Nat
  yqpn : Nat
  yaddr : Nat
  ylen : Nat
  dlen : Nat
  apos : Nat
  napp : Nat
  afmt : Nat
  rsvOk : Bool
  deriving DecidableEq, Repr

def AttD.ofBytes (bs : List Byte) : AttD :=
  let w := fun i => le bs (8 * i) 8
  let app := nbits (w 0) 46 46 == 1
  { opc := nbits (w 0) 63 56, ver := nbits (w 0) 55 52, mask := nbits (w 0) 51 50, path := nbits (w 0) 49 48, fin := nbits (w 0) 47 47 == 1
    app := app, fence := nbits (w 0) 45 45 == 1, rot := nbits (w 0) 44 44 == 1, ncmt := nbits (w 0) 43 40, epoch := nbits (w 0) 31 0
    sva := w 1, rkey := nbits (w 2) 63 32, tag := nbits (w 2) 31 0, rstart := nbits (w 3) 63 32, rend := nbits (w 3) 31 0
    qpos := nbits (w 4) 63 32, c := nbits (w 4) 28 26 + 1, g := nbits (w 4) 25 22 + 1, qfmt := nbits (w 4) 19 16, qzp := nbits (w 4) 15 8
    hmask := w 5, tree := w 6, sscale := BitVec.ofNat 32 (nbits (w 7) 63 32), qscale := BitVec.ofNat 32 (nbits (w 7) 31 0)
    ykey := nbits (w 8) 63 32, yqpn := nbits (w 8) 23 0, yaddr := w 9, ylen := nbits (w 10) 63 32, dlen := nbits (w 10) 31 0
    apos := nbits (w 11) 63 32, napp := nbits (w 11) 31 28 + 1, afmt := nbits (w 11) 27 24
    rsvOk := nbits (w 0) 39 32 == 0 && nbits (w 4) 31 29 == 0 && nbits (w 4) 21 20 == 0 && nbits (w 4) 7 0 == 0 && nbits (w 8) 31 24 == 0
      && (!app || nbits (w 11) 23 0 == 0) && w 12 == 0 && w 13 == 0 && w 14 == 0 && w 15 == 0 }

/-- Rows of the request (R90). -/
def AttD.n (d : AttD) : Nat := (headsOf d.hmask).length * d.g * d.c

/-- Formats of queries and append data (R229). -/
def queryFmt (f : Nat) : Bool := f == 0 || f == 1 || (decide (8 ≤ f) && decide (f ≤ 13))
def appendFmt (f : Nat) : Bool := f == 8 || f == 9 || f == 10

/-- Bytes of a row or vector of w elements, padded to 32 B (R86). -/
def padded (f w : Nat) : Nat := (w * fmtBits f / 8 + 31) / 32 * 32

/-- The length that R88 gives. -/
def AttD.size (d : AttD) (w : Nat) : Nat :=
  128 + d.n * padded d.qfmt w + (if d.app then (headsOf d.hmask).length * d.napp * 2 * padded d.afmt w else 0)

/-- Tree bits of candidates beyond C (R93). -/
def treeOk (d : AttD) : Bool :=
  d.mask != 2 || (nats 64).all (fun b => !d.tree.testBit b || (decide (b / 8 < d.c) && decide (b % 8 < d.c)))

/-- Check 1 of R95, on a descriptor of n bytes. -/
def wellFormedD (d : AttD) (w n : Nat) (wq : Bool) : Bool :=
  d.opc == 0x41 && d.ver == 1 && d.mask != 3 && d.path != 3 && d.rsvOk && queryFmt d.qfmt && (!d.app || appendFmt d.afmt)
    && (d.qzp == 0 || d.qfmt == 11 || d.qfmt == 12) && decide (d.rstart ≤ d.rend) && d.dlen == d.size w && d.dlen == n && decide (d.dlen ≤ 524288)
    && d.sva % 2 ^ 32 == 0 && treeOk d
    && (if wq then d.yqpn == 0xFFFFFF && d.ykey == 0 else d.yqpn != 0xFFFFFF)

/-- A query element in FP32 (R248). A NaN element is a NaN. -/
def queryElem (f zp p : Nat) : F32 :=
  if f = 10 then BitVec.ofNat 32 p
  else match fspec? f with
    | some _ => enc32 (decElem f p)
    | none =>
      let (b, sg) := intSpec f
      let z : Int := if f = 11 then intVal 8 true zp else zp
      round32 ((intVal b sg p - z : Int) : Rat)

/-- Query rows (R86). -/
def queryRows (d : AttD) (w : Nat) (bs : List Byte) : List (List F32) :=
  (nats d.n).map (fun i => (unpack d.qfmt bs (128 + i * padded d.qfmt w) w).map (queryElem d.qfmt d.qzp))

/-- Append vectors: by head and position, key then value (R87). -/
def appendData (d : AttD) (w : Nat) (bs : List Byte) : List (List Nat) :=
  if d.app then
    let o := 128 + d.n * padded d.qfmt w
    (nats ((headsOf d.hmask).length * d.napp * 2)).map (fun i => unpack d.afmt bs (o + i * padded d.afmt w) w)
  else []

/-! ### Replies (R97, R102 to R105, R573, R701, R702) -/

/-- What the header of a reply says. -/
structure Reply where
  form : Bool
  poison : Bool
  nonfinite : Bool
  zephyr : Bool
  findecl : Bool
  applied : Bool
  tcheck : Bool
  status : Nat
  oexp : Nat
  tokens : Nat
  ptokens : Nat
  pmask : Nat
  pfirst : Nat
  len : Nat
  hint : Nat
  rkey : Nat
  rows : List RowP
  deriving DecidableEq, Repr

/-- A reply that is a header with a status (R97). -/
def Reply.refusal (status len rkey hint : Nat) : Reply :=
  { form := false, poison := false, nonfinite := false, zephyr := false, findecl := false, applied := false, tcheck := false, status := status
    oexp := 0, tokens := 0, ptokens := 0, pmask := 0, pfirst := 0, len := len, hint := hint, rkey := rkey, rows := [] }

/-- Where a reply goes. -/
structure Dest where
  sender : Sender
  td : Nat
  host : Nat
  tag : Nat
  hmask : Nat
  ykey : Nat
  yqpn : Nat
  yaddr : Nat
  deriving DecidableEq, Repr

def AttD.dest (d : AttD) (sender : Sender) (td host : Nat) : Dest :=
  { sender := sender, td := td, host := host, tag := d.tag, hmask := d.hmask, ykey := d.ykey, yqpn := d.yqpn, yaddr := d.yaddr }

/-- The header of R102. -/
def replyHeader (s : State) (d : Dest) (r : Reply) (gust : Nat) : List Byte :=
  leBytes (0x51 * 2 ^ 56 + 2 ^ 52 + gust * 2 ^ 48 + b2n r.form * 2 ^ 47 + b2n r.poison * 2 ^ 46 + b2n r.nonfinite * 2 ^ 45 + b2n r.zephyr * 2 ^ 44
    + b2n r.findecl * 2 ^ 43 + b2n r.applied * 2 ^ 42 + b2n r.tcheck * 2 ^ 41 + d.tag) 8
  ++ leBytes (r.status * 2 ^ 48 + (r.rows.length - 1) * 2 ^ 40 + r.oexp * 2 ^ 32 + s.cmp.epoch.toNat) 8
  ++ leBytes (r.tokens * 2 ^ 32 + r.ptokens) 8 ++ leBytes d.hmask 8 ++ leBytes r.pmask 8 ++ leBytes (r.pfirst * 2 ^ 32 + r.len) 8
  ++ leBytes (r.hint * 2 ^ 46) 8 ++ leBytes (r.rkey * 2 ^ 32 + nodeId s) 8

/-- A row (R103). -/
def rowBytes (x : RowP) : List Byte := leBytes x.m.toNat 4 ++ leBytes x.l.toNat 4 ++ x.o.flatMap (fun v => leBytes v.toNat 4)

/-- The function of a channel (R539): 64 the physical function. -/
def chanFn (ch : Nat) : Nat := if ch < 8 then 64 else ch - 8

def updWq (ch q : Nat) (f : Wq → Wq) (s : State) : State := updChan ch (fun c => { c with wq := modify c.wq q f }) s

-- DESIGN CHOICE, unsafe, log entry 34.
/-- Send a reply: rows, then the header as the write flagged FINAL (R105); to host memory for a work queue (R573). -/
def sendReply (d : Dest) (r : Reply) (s : State) : State :=
  let rid := s.att.nextReq
  let s := { s with att := { s.att with nextReq := rid + 1 } }
  let rows := r.rows.flatMap rowBytes
  match d.sender with
  | .gone => s
  | .wq ch q idx =>
    let hdr := replyHeader s d r (max (gustDomain s d.td) (max (gustBudget s d.host) (gustIngress s d.host)))
    let s := if rows = [] then s else dmaOut (chanFn ch) (.dmaWrite (chanFn ch) (d.yaddr + 64) rows) s
    let s := dmaOut (chanFn ch) (.dmaWrite (chanFn ch) d.yaddr hdr) s
    updWq ch q (fun w => { w with ready := put w.ready idx (r.status, d.tag, 64 + rows.length) }) s
  | .qp _ _ =>
    let s := { s with att := { s.att with replies := put s.att.replies rid (d.td, d.tag) } }
    match qp? s d.yqpn with
    | none => replyLost rid 0xFF s
    | some q =>
      if q.td ≠ d.td ∨ q.state ≠ .ready then replyLost rid 0xFF s
      else
        let hdr := replyHeader s d r (gust s ((routePort s q.peer q.pqpn).getD 0) d.td d.host false)
        let fr := (if rows = [] then [] else writeFrames q .reply (d.yaddr + 64) d.ykey rows) ++ writeFrames q .reply d.yaddr d.ykey hdr
        sendMsg d.yqpn fr (.reply rid) s

/-! ### Checks 2 to 12 of R95 -/

/-- Answer of the epoch check (R483). -/
inductive EpochR where
  | pass
  | revoked
  | redirect (hint : Nat)
  | hold
  deriving DecidableEq, Repr

def cmpGrace (s : State) : Nat := fld s.cmp.ctl 63 48 * 100000
def cmpHtime (s : State) : Nat := max 1 (fld s.cmp.ctl 47 32) * 1000000

/-- The epoch check of R483, and whether the grace of an old epoch served it. -/
def epochCheck (s : State) (sender sva epoch : Nat) : EpochR × Bool :=
  let a := Sva.ofNat sva
  if a.td ≠ sender then (.pass, false)
  else match seq? s a.td a.seqn with
    | none => (.pass, false)
    | some d =>
      if d.state = .lost then (.pass, false)
      else if (match ext? s d.ext with | some x => x.state != ExtState.active | none => true) then (.revoked, false)
      else
        let peer := match d.mig with | some m => m.peer | none => 0
        let inc := match d.mig with | some m => m.incoming | none => false
        let th := match d.mig with | some m => m.thandoff | none => 0
        if d.state = .forwarded then (.redirect peer, false)
        else if d.state == .migrating && inc then (.redirect peer, false)
        else if d.state = .handoff then (if s.now - th < cmpHtime s then (.hold, false) else (.redirect peer, false))
        else
          let cur := s.cmp.epoch.toNat
          let diff := (epoch + 2 ^ 32 - cur) % 2 ^ 32
          if diff = 0 then (.pass, false)
          else if diff < 2 ^ 31 then (.redirect (nodeId s), false)
          else match look s.cmp.tchange ((epoch + 1) % 2 ^ 32) with
            | some t => if s.now - t < cmpGrace s then (.pass, true) else (.redirect (nodeId s), false)
            | none => (.redirect (nodeId s), false)

/-- Tenant path policy (R99, R559): die only. -/
def dieOnly (s : State) (td : Nat) : Bool := fld (dom s td).policy 1 0 == 1

/-- The heads' eligibility for the bank path (R99): the units compute every stored format (R258). -/
def bankEligible (g c : Nat) : Bool := decide (g * c ≤ 4)

/-- Positions of the append in order. -/
def AttD.positions (d : AttD) : List Nat := (nats d.napp).map (d.apos + ·)

-- DEDUCED, unsafe, log entry 57.
-- DEDUCED, unsafe, log entry 59.
-- DESIGN CHOICE, unsafe, log entry 144.
/-- The first status of checks 4 to 11 that fails, or zero; the sequence is held and the sender its own. A sequence whose HEND is bounded
accepts no append (R58). An empty range lies within every range (R79, R113). -/
def requestCheck (s : State) (d : AttD) (q : SeqD) : Nat :=
  let dm := dom s q.td
  let t := geomT dm.geom
  let w := geomW dm.geom
  let layer := (Sva.ofNat d.sva).layer
  let len := d.ncmt + q.len
  if rkeyOf q ≠ d.rkey then 4
  else if q.nlayer < layer ∨ (headsOf d.hmask).any (fun h => decide (q.nhead < h))
      ∨ (d.app && d.rot && fmtRdim dm.fmt != 0 && dm.rotary.length != fmtRdim dm.fmt / 2) = true then 2
  else if 128 < d.n ∨ d.hmask = 0 then 9
  else if d.path = 2 ∧ (dieOnly s q.td || !bankEligible d.g d.c) = true then 0x0A
  else if d.ylen < 64 + d.n * (8 + 4 * w) then 0x0B
  else if q.tfront < len then 5
  else if d.app && d.positions.any (fun p => decide (1024 * t ≤ p)) then 6
  else if d.app && (q.hend != 0xFFFFFFFF || d.positions.any (fun p => decide (p < max len q.base ∨ len + 16 ≤ p ∨ q.hend ≤ p))) then 5
  else if 1 < d.c ∧ (d.qpos < len ∨ len + 16 < d.qpos + d.c) then 5
  else if d.rstart < d.rend ∧ (d.rstart < q.base ∨ min (min q.hend (len + 16)) (1024 * t) < d.rend) then 3
  else 0

-- DEDUCED, unsafe, log entry 65.
/-- Check 12: frames and table space for the append, taken at once. A page that fails the tenant check takes none (R96). -/
def reserveAppend (q : SeqD) (layer : Nat) (heads pages : List Nat) (s : State) : Nat × State :=
  (heads.flatMap (fun h => pages.map (fun tp => pageIx layer h tp))).foldl (fun (acc : Nat × State) pix =>
    if acc.1 ≠ 0 then acc
    else match (seq? acc.2 q.td q.seqn).map (fun d => walk acc.2 d pix) with
      | some (.tcheck _) => acc
      | _ => if isMoving acc.2 q.td q.seqn pix then acc else ensureFrame q.td q.seqn pix acc.2) (0, s)

/-- A new request (R96), before its work is issued. -/
def newReq (s : State) (d : AttD) (q : SeqD) (sender : Sender) (host home len : Nat) (bs : List Byte) : Req :=
  let g := (dom s q.td).geom
  let heads := headsOf d.hmask
  { id := s.att.nextReq, td := q.td, seqn := q.seqn, layer := (Sva.ofNat d.sva).layer, sender := sender, host := host, home := home, tag := d.tag
    mask := d.mask, path := if dieOnly s q.td then 1 else d.path, fin := d.fin, fence := d.fence, rot := d.rot, c := d.c, g := d.g
    hmask := d.hmask, tree := d.tree, rstart := d.rstart, rend := d.rend, qpos := d.qpos, sscale := d.sscale, qscale := d.qscale
    rows := queryRows d (geomW g) bs, ykey := d.ykey, yqpn := d.yqpn, yaddr := d.yaddr, app := d.app, apos := d.apos
    napp := if d.app then d.napp else 0, afmt := d.afmt, appd := appendData d (geomW g) bs, len := len, stage := .accepted
    after := if d.fence then openAppends s q.td q.seqn else []
    appLeft := if d.app then (nats heads.length).flatMap (fun k => (appendPages (geomT g) d.apos d.napp).map (fun tp => (k, tp))) else []
    issueNo := 0, bankHeld := [], zphRows := [], unitLeft := [], grpLeft := [], zphLeft := [], stackParts := [], homeParts := [], zephyr := false, tcheck := false, recomputed := false }

/-- Refuse a request: its reply is a header. -/
def refuse (d : AttD) (sender : Sender) (td host status len rkey hint : Nat) (s : State) : State :=
  let s := if status = 0x0C then bump (ctrTd td 0x120) s else s
  let s := if status = 7 then bump (ctrTd td 0x008) s else s
  let s := if status = 8 then bump (ctrTd td 0x00C) s else s
  sendReply (d.dest sender td host) (Reply.refusal status len rkey hint) (bump (ctrTd td 0x004) s)

/-- The sender's host is the extent's (R475); work queues are exempt. -/
def hostHolds (s : State) (q : SeqD) (sender : Sender) (host : Nat) : Bool :=
  match sender with
  | .qp _ _ => (match ext? s q.ext with | some x => x.host == host | none => false)
  | _ => true

/-- Checks 2 to 12 and acceptance (R95, R96). -/
def acceptFrom2 (bs : List Byte) (sender : Sender) (td host home : Nat) (s : State) : State :=
  let d := AttD.ofBytes bs
  let a := Sva.ofNat d.sva
  let refuse_ := refuse d sender td host
  let (e, graced) := epochCheck s td d.sva d.epoch
  match e with
  | .revoked => refuse_ 0x0D 0 0 0 s
  | .redirect h => refuse_ 0x0C 0 0 h s
  | .hold => { s with att := { s.att with handoffHeld := s.att.handoffHeld ++ [{ td := td, seqn := a.seqn, home := home, host := host, sender := sender, desc := bs }] } }
  | .pass =>
    let s := if graced then bump (ctrTd td 0x124) s else s
    match (if a.td = td then seq? s td a.seqn else none) with
    | none => refuse_ 3 0 0 0 s
    | some q =>
      if !q.here ∨ !hostHolds s q sender host then refuse_ 3 0 0 0 s
      else
        let st := requestCheck s d q
        if st = 4 then refuse_ 4 q.len 0 0 s
        else if st ≠ 0 then refuse_ st q.len (rkeyOf q) 0 s
        else
          let pages := if d.app then appendPages (tokT s td) d.apos d.napp else []
          let (st, s') := reserveAppend q a.layer (headsOf d.hmask) pages s
          if st ≠ 0 then refuse_ st q.len (rkeyOf q) 0 s
          else
            let s := s'
            let len := q.len + d.ncmt
            let r := newReq s d q sender host home len bs
            let front := if d.app then max (max q.tfront len) (d.apos + d.napp) else max q.tfront len
            let s := updSeq td a.seqn (fun q => { q with len := len, tfront := front, tlast := s.now }) s
            let s := { s with att := { s.att with reqs := s.att.reqs ++ [r], nextReq := s.att.nextReq + 1 } }
            bump (ctrTd td 0x000) (stageOnAccept td a.seqn a.layer s)

/-- A request arrives whole (R85, R95): check 1, then the others. -/
def submit (bs : List Byte) (sender : Sender) (td host home : Nat) (s : State) : State :=
  let d := AttD.ofBytes bs
  let wq := match sender with | .qp _ _ => false | _ => true
  if !wellFormedD d (geomW (dom s td).geom) bs.length wq then refuse d sender td host 1 0 0 0 s
  else acceptFrom2 bs sender td host home s

/-- Held requests of a sequence are checked again from check 2 (R485). -/
def releaseHeld (td seqn : Nat) (s : State) : State :=
  let l := s.att.handoffHeld.filter (fun h => h.td == td && h.seqn == seqn)
  let s := { s with att := { s.att with handoffHeld := s.att.handoffHeld.filter (fun h => !(h.td == td && h.seqn == seqn)) } }
  l.foldl (fun s h => acceptFrom2 h.desc h.sender h.td h.host h.home s) s

end Sys2Proof.Machine
end

