-- ==== Sys2Proof/Machine/Path.lean ====
section
/-! DEFINITION. The two paths of an accepted request: issue (R99 to R101, R177 to R180, R187, R460, R461), bank units (R130 to R149), cluster
groups (R171 to R198), Zephyr's recovery work (R199 to R206), merges and the reply. -/

namespace Sys2Proof.Machine

/-! ### Pages as they are computed -/

/-- A page in flash that is computed from its decoded copy (R274): TIER absent marks it, FRAME is the logical page. -/
def isDirect (p : PageRef) : Bool := match p.leaf with | some l => l.tier == .absent | none => false
def markDirect (p : PageRef) : PageRef := { p with leaf := p.leaf.map (fun l => { l with tier := .absent }) }

/-- A page in flash for which no frame can be had and no read is in progress is computed directly (R274). -/
def directHit (s : State) (r : Req) (p : PageRef) : Bool :=
  inFlash p && !isMoving s r.td r.seqn (refPix r p) && !frameToBeHad s r.td

/-- The logical page of a page computed directly. -/
def directLpn (p : PageRef) : Option Nat := match p.leaf with | some l => if l.psn then none else some l.frame | none => none

/-- A page's direct read is done: its decoded copy stands in staging SRAM, or the page cannot be read at all. -/
def directReady (s : State) (p : PageRef) : Bool :=
  match directLpn p with
  | some n => s.mem.direct.contains n || flashGone s n
  | none => true

/-- The direct reads of pages queue (R274, R303). -/
def readDirect (l : List PageRef) (s : State) : State :=
  l.foldl (fun s p => match directLpn p with | some n => queueDirect n s | none => s) s

/-- A page of a request as the work on it begins: translated again when the request waited for appends (R96, R151, R183), and a page computed
from flash, which may have been promoted since. A page found poisoned or refused stays so. -/
def refreshed (r : Req) (p : PageRef) (s : State) : PageRef × State :=
  if (match p.leaf with | some l => l.psn | none => false) || !(r.fence || appendsTo s r p.tpage || isDirect p) then (p, s)
  else
    let (q, s) := translatePage r p.k p.tpage s
    (if isDirect p ∧ inFlash q then markDirect q else q, s)

/-- A page of a request that is in flash, with no read of it queued, is promoted for the request (R275, R282). -/
def needPage (r : Req) (p : PageRef) (s : State) : State :=
  let queued := match seq? s r.td r.seqn with
    | some d => d.wake.queue.contains (refPix r p)
    | none => true
  if !inFlash p || queued then s else (startPromotion r.td r.seqn (refPix r p) s).2

/-- A page without a fetch (R147, R187, R188, R274): absent, refused or poisoned, or computed from its decoded flash copy, in which
`uncorrectable` says whether a unit cannot be read (R297). -/
def plainPart (r : Req) (p : PageRef) (uncorrectable : Bool) (s : State) : Part × State :=
  match p.leaf with
  | none => (absentPart s r p, s)
  | some l =>
    let pix := refPix r p
    if l.psn ∨ (look s.mem.pages l.frame).isNone then (poisonPart s r p, s)
    else
      let s := { s with mem := { s.mem with direct := s.mem.direct.erase l.frame } }
      if uncorrectable || flashGone s l.frame then (poisonPart s r p, settleWork (flashBad r.td r.seqn pix (recordOf s r.td r.seqn pix) l.frame s))
      else (pagePart s r p (pageImage s r.td { l with tier := .flash }).1,
        heatUp r.td r.seqn pix (bump (ctrTd r.td 0x04C) { s with free := s.free + pageDraws r }))

/-- Fetch a page's frame into a slot, as a cluster or Zephyr does (R181, R188, R205): the codewords are counted, an uncorrectable one poisons
the page. -/
def fetchTile (slot : Nat) (r : Req) (p : PageRef) (l : Leaf) (s : State) : Tile × State :=
  let dm := dom s r.td
  let pix := refPix r p
  let rd := fetchRead dm.geom dm.fmt l.frame (readPage s r.td r.seqn pix l.frame)
  ({ slot := slot, page := p, leaf := l, rd := rd }, settleWork (pageReadDone r.td r.seqn pix l.frame r.tag rd { s with free := s.free + 4096 }))

/-- The channel of a page's frame retrains (R332). -/
def pageRetrains (s : State) (p : PageRef) : Bool := match p.leaf with | some l => l.tier == .dram && (ch s (frChan l.frame)).retraining | none => false

/-! ### Sampling (R220 to R222, R227) -/

/-- A page computation may be selected for Lull. A selection is SHIFT's block boundary. -/
def sampleSelect (die : Nat) (r : Req) (p : PageRef) (part : Part) (unit : Nat) (cluster : Option Nat) (s : State) : State :=
  if part.poison ∨ !bitOf s.att.lulCtl 31 ∨ !bitOf s.att.lulCtl 30 then s
  else
    let s := { s with att := { s.att with lulShift := fld s.att.lulCtl 20 16 } }
    let (x, s) := draw (max 6 s.att.lulShift) s
    if x ≠ 0 then s
    else if 128 ≤ (zph s die).samples.length then bump (ctrTd r.td 0x164) (bump (ctrDie die 1) s)
    else
      let groups := (rowsPerHead r + 15) / 16
      let (y, s) := if cluster.isSome then draw 32 s else (0, s)
      let row0 := 16 * (y % max 1 groups)
      let copy : Part := { part with rows := (part.rows.drop row0).take 16 }
      let smp : Sample := {
        state := .held
        taken := s.now
        td := r.td
        page := p
        key := s.free
        cluster := cluster
        unit := unit
        tag := r.tag
        row0 := row0
        copy := copy
        req := r
        steps := 0
        ref := none }
      let s := { s with free := s.free + 1 }
      bump (ctrTd r.td 0x160) (bump (ctrDie die 0) (updZph die (fun z => { z with samples := z.samples ++ [smp] }) s))

/-! ### Issue (R99 to R101, R145, R147, R177, R179, R187, R274, R460, R461) -/

/-- The request's heads go to the bank path (R99). -/
def onBank (r : Req) : Bool := r.path == 2 || (r.path == 0 && bankEligible r.g r.c)

/-- Some of the request's work falls to the die path (R99, R100), pages computed directly from flash among it (R274). -/
def dieWork (s : State) (r : Req) : Bool :=
  !onBank r || (pagesOf s r).any (fun e =>
    let pix := pageIx r.layer (headOf r e.1) e.2
    match (seq? s r.td r.seqn).bind (fun d => effLeaf s d pix) with
    | some l => !l.psn && ((l.tier == .dram && codeUnit s (frUnit l.frame) != .good)
        || (l.tier == .flash && !isMoving s r.td r.seqn pix && !frameToBeHad s r.td))
    | none => false)

/-- Pages of a request in flash that wait for no frame are promoted for it; for those that can have none, direct computation: on the home die's
group, or on Zephyr (R187, R274, R282). -/
def serveFlash (rid : Nat) (s : State) : State :=
  match req? s rid with
  | none => s
  | some r =>
    if r.stage ≠ .issued then s
    else
      let s := (r.unitLeft ++ r.grpLeft ++ r.zphLeft).foldl (fun s p => needPage r p s) s
      match req? s rid with
      | none => s
      | some r =>
        let u := r.unitLeft.filter (directHit s r)
        let g := r.grpLeft.filter (directHit s r)
        let s := readDirect (u ++ g ++ r.zphLeft.filter (directHit s r)) s
        let s := updReq rid (fun r => { r with
          unitLeft := r.unitLeft.filter (fun p => !u.contains p)
          grpLeft := r.grpLeft.map (fun p => if g.contains p then markDirect p else p) }) s
        issueFused rid (u.map markDirect) (g.foldl (fun s p => placeGroupPage (markDirect p) s) s)

/-- Pages of a request that are computed: those that have contents or will have them by an append the page waits for. An absent, zero, refused
or poisoned page is supplied without a computation (R145, R147, R188). -/
def computedPages (s : State) (r : Req) : List (Nat × Nat) :=
  (pagesOf s r).filter (fun p => match (seq? s r.td r.seqn).map (fun d => walk s d (pageIx r.layer (headOf r p.1) p.2)) with
    | some (.page _ e) => !e.psn
    | some .absent | some .zero => pageWaits s r p.1 p.2
    | _ => false)

/-- Pages of the budget's charge (R460): one computation each, on Zephyr one for each pass of 16 rows. -/
def chargePages (s : State) (r : Req) : Nat :=
  let n := (computedPages s r).length
  if !onBank r && noClusters s r.td then n * ((rowsPerHead r + 15) / 16) else n

/-- Charge a host's budget for pages of 65,536 B (R460); SCH_CHARGED counts the whole MiB among them. -/
def charge (h pages : Nat) (s : State) : State :=
  let n := lookD 0 s.fab.charged h
  bumpBy (ctrHost h 5) ((n + pages) / 16 - n / 16) { s with fab := { s.fab with
    budget := put s.fab.budget h (budgetLevel s h - (65536 * pages : Nat), s.now)
    charged := putD 0 s.fab.charged h (n + pages) } }

/-- Hand out a request's pages by its path: of a die-path page list, those that the request appends to come last (R177). -/
def issuePages (r : Req) (s : State) : State :=
  if onBank r then issueBankPages r.id s
  else
    let (pages, s) := translate r s
    issueFused r.id (pages.filter (fun p => !appendsTo s r p.tpage) ++ pages.filter (fun p => appendsTo s r p.tpage)) s

/-- Issue a request's work: appends first, then its pages. -/
def issueReq (r : Req) (s : State) : State :=
  let bank := if onBank r then pagesOf s r else []
  let s := updReq r.id (fun r => { r with stage := .issued, issueNo := s.att.nextIssue, bankHeld := bank }) s
  let s := issueAppends r.id { s with att := { s.att with nextIssue := s.att.nextIssue + 1 } }
  serveFlash r.id (issuePages r (charge r.host (chargePages s r) s))

/-- Requests of the host that the budget holds, in order of acceptance. -/
def heldOf (s : State) (h : Nat) : List Nat := lookD [] s.fab.held h

/-- Hold a request by its host's budget (R461): request numbers rise in order of acceptance. -/
def holdReq (r : Req) (s : State) : State :=
  let l := heldOf s r.host
  bump (ctrHost r.host 4) (updReq r.id (fun r => { r with stage := .held })
    { s with fab := { s.fab with held := put s.fab.held r.host (l.filter (· < r.id) ++ [r.id] ++ l.filter (r.id < ·)) } })

/-- The group's queue has no room for a request's die-path work, or work waits before it (R171, R179). -/
def groupBusy (s : State) (r : Req) : Bool := dieWork s r && (groupFull s r.td || groupWaits s r.td)

/-- REQUEST_ISSUE (R99 to R101, R177, R179, R461): of an issued request, pages that no frame can be had for pass to direct computation. -/
def execRequestIssue (rid : Nat) (s : State) : Res :=
  match req? s rid with
  | none => .next s
  | some r =>
    if r.stage = .issued then .next (serveFlash rid s)
    else if r.stage = .held then .next s
    else if !budgetOk s r.host ∨ heldOf s r.host ≠ [] then .next (holdReq r s)
    else if groupBusy s r then .next (updReq rid (fun r => { r with stage := .queueHeld }) s)
    else .next (issueReq r s)

/-- HELD_REQUEST_RELEASE (R461): the first held request of the host is issued once its bucket is at zero or above, and its group has room (R179);
those accepted after it wait with it. -/
def execHeldRequestRelease (host : Nat) (s : State) : Res :=
  match heldOf s host with
  | [] => .next s
  | rid :: rest =>
    if !budgetOk s host || (match req? s rid with | some r => groupBusy s r | none => false) then .next s
    else
      let s := { s with fab := { s.fab with held := if rest = [] then rem s.fab.held host else put s.fab.held host rest } }
      match req? s rid with
      | none => .next s
      | some r => .next (issueReq r s)

/-! ### Bank units (R18, R130 to R149, R151) -/

/-- A page on its bank unit (R130, R131, R143): its partial, and what the read leaves. A pair whose channel has been fenced gives a poisoned one. -/
def unitPart (r : Req) (p : PageRef) (l : Leaf) (s : State) : Part × State :=
  if codeChan s (frChan l.frame) ≠ .good then (poisonPart s r p, s)
  else
    let pix := refPix r p
    let x := readFor s r p.tpage l.frame
    let part := if x.bad = [] then pagePart s r p x.bytes else poisonPart s r p
    (part, pageReadDone r.td r.seqn pix l.frame r.tag x (heatUp r.td r.seqn pix { s with free := s.free + pageDraws r }))

/-- BANK_ATTEND (R18, R130 to R133, R143): the unit's next operation is an ATTEND. -/
def execBankAttend (unit : Nat) (s : State) : Res :=
  if !pairRuns s unit ∨ codeUnit s unit ≠ .good then .next s
  else match nextOp s unit with
    | some (.attend p) => match req? s p.rid, p.leaf with
      | some r, some l =>
        let (part, s) := unitPart r p l (popOp unit s)
        let s := updReq r.id (fun r => { unitDone p r with stackParts := r.stackParts ++ [(unit / 288, part)] }) s
        .next (issuePostponed unit (settleWork (sampleSelect (if unit < 3456 then 0 else 1) r p part unit none s)))
      | _, _ => .next (popOp unit s)
    | _ => .next s

/-- BANK_APPEND (R18, R135 to R138, R169): the pair's next operation is an APPEND, applied by its unit or by the controller. One whose page lies
in this pair no more is issued again. -/
def execBankAppend (unit : Nat) (s : State) : Res :=
  if !pairRuns s unit then .next s
  else match nextOp s unit with
    | some (.append rid k tp) => match req? s rid with
      | none => .next (popOp unit s)
      | some r =>
        let pix := pageIx r.layer (headOf r k) tp
        let s := popOp unit s
        match appendFrame s r.td r.seqn pix, (seq? s r.td r.seqn).bind (fun d => leafOf d pix) with
        | some f, some l =>
          if frUnit f ≠ unit ∨ !r.appLeft.contains (k, tp) then .next (settleWork s)
          else .next (issuePostponed unit (settleWork (dropAppend rid (k, tp) (applyAppend r k tp l s))))
        | _, _ => .next (settleWork s)
    | _ => .next s

/-- A page of the request may still be computed in the stack: it waits to be issued or to land, or stands on one of the stack's units. -/
def leftFor (s : State) (r : Req) (stack : Nat) : Bool :=
  let at_ := fun (l : Leaf) => if l.tier = .dram then frChan l.frame / 32 == stack else !l.psn || supplyStack s r.td r.home == stack
  r.unitLeft.any (fun p => match p.leaf with | some l => at_ l | none => true)
    || r.bankHeld.any (fun e => match (seq? s r.td r.seqn).bind (fun d => effLeaf s d (pageIx r.layer (headOf r e.1) e.2)) with
      | some l => at_ l
      | none => supplyStack s r.td r.home == stack)

/-- STACK_PARTIAL_SEND (R146, R148, R149): the stack's last page of the request is done; its partials merge and go to the home die, and its place in
the stack's merge unit is free. -/
def execStackPartialSend (stack rid : Nat) (s : State) : Res :=
  match req? s rid with
  | none => .next s
  | some r =>
    let mine := (r.stackParts.filter (fun x => x.1 == stack)).map (·.2)
    if r.stage ≠ .issued ∨ leftFor s r stack ∨ mine = [] then .next s
    else
      let (l, s) := mergeAll (geomW (dom s r.td).geom) mine s
      .next (settleWork (updReq rid (fun r => { r with stackParts := r.stackParts.filter (fun x => x.1 != stack), homeParts := r.homeParts ++ l }) s))

/-! ### Cluster groups (R171 to R189, R196, R198) -/

/-- The command that the cluster computes: the first of which its share is not done (R185). -/
def currentCmd (s : State) (c : Nat) : Option GCmd := s.att.gcmds.find? (fun g => g.busyAt c)

/-- A page of the share is still to be fetched, or may be: the request's own append to it, or one before a fence, is to give it its frame. -/
def fetchLeft (s : State) (g : GCmd) (p : PageRef) : Bool :=
  needsFetch p || (match req? s g.rid with
    | some r => pageWaits s r p.k p.tpage && (match p.leaf with | some l => !l.psn | none => true)
    | none => false)

/-- The command that the cluster fetches for: the first of which pages are left to fetch, or wait for promotion (R185). -/
def fetchCmd (s : State) (c : Nat) : Option GCmd := s.att.gcmds.find? (fun g => lookD [] g.wait c != [] || (lookD [] g.share c).any (fetchLeft s g))

/-- The rows, scores and accumulators of a command exceed ways 12 and 13: more than 64 rows at w = 512 (R174). -/
def largeCmd (s : State) (g : GCmd) : Bool :=
  match req? s g.rid with
  | some r => geomW (dom s r.td).geom == 512 && decide (64 < r.rows.length)
  | none => false

-- DEDUCED, unsafe, log entry 145.
/-- Stream slots left to a cluster: 45, and one less from the fetch of a large command on until it is computed, so that its excess finds slot 44
free (R173, R174). -/
def streamSlots (s : State) (c : Nat) : Nat :=
  let l := s.att.gcmds.filter (fun g => g.busyAt c)
  let k := match fetchCmd s c with | some f => l.findIdx (fun g => g.id == f.id) + 1 | none => 1
  if (l.take k).any (largeCmd s) then 44 else 45

/-- Ways that hold rows, scores and accumulators of the command being computed: way 11, where slot 44 lies, with the excess of a large one
(R173, R174). -/
def computeWays (s : State) (c : Nat) : List Nat := if (match currentCmd s c with | some g => largeCmd s g | none => false) then [11, 12, 13] else [12, 13]

/-- The lowest free stream slot. -/
def freeSlot (s : State) (c : Nat) : Option Nat :=
  (nats (streamSlots s c)).find? (fun k => s.att.gcmds.all (fun g => (lookD [] g.fetched c).all (fun t => t.slot != k)))

/-- Ways that a stream slot of 68 KiB lies in (R173). -/
def slotWays (k : Nat) : List Nat := [k * 69632 / 262144, (k * 69632 + 69631) / 262144].eraseDups

/-- The command of the same request on the other die that takes a page whose frame, by a new translation, lies there (R180). -/
def otherGroup (s : State) (g : GCmd) (q : PageRef) : Option GCmd :=
  match q.leaf with
  | some l => if l.tier = .dram ∧ !l.psn ∧ frDie l.frame ≠ g.die then
      s.att.gcmds.find? (fun x => x.rid == g.rid && x.die != g.die && x.members != []) else none
  | none => none

/-- A page of a cluster's share as a new translation has it: one now in flash waits, and is promoted; one whose frame lies in the other die
passes to that die's group (R180). -/
def replacePage (gid c : Nat) (p q : PageRef) (s : State) : State :=
  let swap := fun (x : PageRef) => if samePage p x then q else x
  let s := updReq p.rid (fun r => { r with grpLeft := r.grpLeft.map swap }) s
  let s := match (s.att.gcmds.find? (fun g => g.id == gid)).bind (fun g => otherGroup s g q), req? s p.rid with
    | some o, some r =>
      updG o.id (fun g => g.add (fun x => appendsTo s r x.tpage) (r.grpLeft.findIdx (samePage q)) q)
        (updG gid (fun g => { g with share := put g.share c ((lookD [] g.share c).filter (fun x => !samePage p x)) }.offer c) s)
    | _, _ => updG gid (fun g =>
      if inFlash q then { g with
        share := put g.share c ((lookD [] g.share c).filter (fun x => !samePage p x))
        wait := put g.wait c (lookD [] g.wait c ++ [q]) }
      else { g with share := put g.share c ((lookD [] g.share c).map swap) }) s
  match req? s p.rid with
  | some r => needPage r q s
  | none => s

/-- The page goes from the share into a stream slot; query rows stand in ways 12 and 13, or for the next command in 14 and 15 (R173). -/
def takeTile (gid c : Nat) (t : Tile) (s : State) : State :=
  let rows := if (currentCmd s c).map (·.id) = some gid then computeWays s c else [14, 15]
  useWays c (slotWays t.slot ++ rows) (updG gid (fun g => { g with
    share := put g.share c ((lookD [] g.share c).filter (fun x => !samePage t.page x))
    fetched := put g.fetched c (lookD [] g.fetched c ++ [t]) }) s)

-- DESIGN CHOICE, safe, log entry 157.
/-- CLUSTER_PAGE_FETCH (R181, R183, R185, R186, R188, R196): the next page of the cluster's share comes into a free stream slot. -/
def execClusterPageFetch (cluster : Nat) (s : State) : Res :=
  match fetchCmd s cluster with
  | none => .next s
  | some g => match (lookD [] g.share cluster).find? (fun p => needsFetch p && !(match req? s g.rid with | some r => pageWaits s r p.k p.tpage | none => true)),
      req? s g.rid with
    | some p, some r =>
      if !clusterServes s g.td cluster then .next s
      else
        let (q, s) := refreshed r p s
        if !needsFetch q || (otherGroup s g q).isSome then .next (replacePage g.id cluster p q s)
        else match q.leaf, freeSlot s cluster with
          | some l, some slot =>
            if pageRetrains s q then .next s
            else
              let (t, s) := fetchTile slot r q l s
              .next (takeTile g.id cluster t (keepTranslation (some cluster) r.td r.seqn (refPix r q) l s))
          | _, _ => .next s
    | _, _ => .next s

/-- A page computed by a cluster enters its running partial; a share that is done is offered for merging (R184, R189). A page computed directly from
flash is no candidate for Lull (R640, N11). -/
def clusterDone (gid c : Nat) (r : Req) (p : PageRef) (part : Part) (s : State) : State :=
  let g0 := s.att.gcmds.find? (fun g => g.id == gid)
  let (l, s) := addPart (geomW (dom s r.td).geom) ((g0.map (fun g => lookD [] g.parts c)).getD []) part s
  let s := updG gid (fun g =>
    let g := { g with
      share := put g.share c ((lookD [] g.share c).filter (fun x => !samePage p x))
      fetched := put g.fetched c ((lookD [] g.fetched c).filter (fun x => !samePage p x.page))
      done := put g.done c (lookD [] g.done c ++ [p])
      parts := put g.parts c l }
    g.offer c) s
  let unit := match p.leaf with | some l => frUnit l.frame | none => 0
  let s := useWays c (match g0 with | some g => if largeCmd s g then [11, 12, 13] else [12, 13] | none => [12, 13]) s
  settleWork (if isDirect p then s else sampleSelect (dieOfCluster c) r p part unit (some c) s)

/-- CLUSTER_PAGE_COMPUTE (R184, R185, R187, R188, R274): the next fetched page of the command, or a page that needs no fetch. -/
def execClusterPageCompute (eng : PageReader) (s : State) : Res :=
  match currentCmd s eng.ix with
  | none => .next s
  | some g => match req? s g.rid with
    | none => .next s
    | some r =>
      if !clusterServes s g.td eng.ix then .next s
      else match (lookD [] g.fetched eng.ix).head? with
        | some t =>
          let part := if t.rd.bad = [] then pagePart s r t.page t.rd.bytes else poisonPart s r t.page
          let s := heatUp r.td r.seqn (refPix r t.page) { s with free := s.free + pageDraws r }
          .next (clusterDone g.id eng.ix r t.page part s)
        | none => match (lookD [] g.share eng.ix).find? (fun p => !needsFetch p && !pageWaits s r p.k p.tpage && (!isDirect p || directReady s p)) with
          | none => .next (readDirect ((lookD [] g.share eng.ix).filter isDirect) s)
          | some p =>
            let (q, s) := refreshed r p s
            if needsFetch q || inFlash q then .next (replacePage g.id eng.ix p q s)
            else
              let (part, s) := plainPart r q eng.uncorrectable s
              .next (clusterDone g.id eng.ix r q part s)

/-- Fused commands that waited for a place in their groups' queues are issued in order, their pages translated now (R179, R180). -/
def issueWaiting : Nat → State → State
  | 0, s => s
  | n + 1, s =>
    match s.att.gwait.find? (fun x => match req? s x.1 with | some r => !groupFull s r.td | none => true) with
    | none => s
    | some x =>
      let s := { s with att := { s.att with gwait := s.att.gwait.erase x } }
      match req? s x.1 with
      | none => issueWaiting n s
      | some r =>
        let y := x.2.foldl (fun (acc : List PageRef × State) e => let z := translatePage r e.1 e.2 acc.2; (acc.1 ++ [z.1], z.2)) ([], s)
        issueWaiting n (serveFlash r.id (handOut r y.1 y.2))

/-- GROUP_MERGE (R179, R189): every cluster of the request's first command on the die has offered its partial; they merge in the order they
arrived, in the lowest-ranked cluster's ways 14 and 15, and the command leaves the queue. -/
def execGroupMerge (die rid : Nat) (s : State) : Res :=
  match req? s rid, s.att.gcmds.find? (fun g => g.rid == rid && g.die == die) with
  | some r, some g =>
    if g.members.any (fun c => g.busyAt c) ∨ r.stage ≠ .issued then .next s
    else
      let done := g.done.flatMap (·.2)
      let (l, s) := mergeAll (geomW (dom s r.td).geom) (g.arrived.flatMap (fun c => lookD [] g.parts c)) s
      let s := match g.members.head? with
        | some c => useWays c [14, 15] s
        | none => s
      let s := updReq rid (fun r => { r with homeParts := r.homeParts ++ l, grpLeft := r.grpLeft.filter (fun p => !done.any (samePage p)) }) s
      .next (issueWaiting 64 (syncZph { s with att := { s.att with gcmds := s.att.gcmds.filter (fun x => x.id != g.id) } }))
  | _, _ => .next s

/-- Translate pages of a cluster's share again, for the cluster that takes them over. -/
def refreshPages (r : Req) (l : List PageRef) (s : State) : List PageRef × State :=
  l.foldl (fun (acc : List PageRef × State) p =>
    if (match p.leaf with | some x => x.psn | none => false) then (acc.1 ++ [p], acc.2)
    else let x := translatePage r p.k p.tpage acc.2; (acc.1 ++ [x.1], x.2)) ([], s)

-- DESIGN CHOICE, safe, log entry 146.
/-- Hand the pages of a cluster that leaves a command to the others (R176, R196, R198): its running partial is discarded, and its whole share is
dealt round robin to the rest of the group; with none left it passes to the other die's command, to a new one there, or to Zephyr. -/
def dropFrom (c gid : Nat) (s : State) : State :=
  match s.att.gcmds.find? (fun g => g.id == gid) with
  | none => s
  | some g => match req? s g.rid with
    | none => s
    | some r =>
      let old := lookD [] g.share c ++ (lookD [] g.fetched c).map (·.page) ++ lookD [] g.done c
      let (pages, s) := refreshPages r old s
      let s := updReq r.id (fun r => { r with grpLeft := r.grpLeft.map (fun p => (pages.find? (samePage p)).getD p) }) s
      let all := pages ++ lookD [] g.wait c
      let ms := g.members.filter (· != c)
      let late := fun (p : PageRef) => appendsTo s r p.tpage
      let deal := fun (g : GCmd) (l : List PageRef) => l.zipIdx.foldl (fun (g : GCmd) e => g.add late e.2 e.1) g
      if ms ≠ [] then updG gid (fun g => deal { g with
        members := ms, share := rem g.share c, wait := rem g.wait c, fetched := rem g.fetched c, done := rem g.done c, parts := rem g.parts c
        arrived := g.arrived.filter (· != c) } all) s
      else
        let s := { s with att := { s.att with gcmds := s.att.gcmds.filter (fun x => x.id != gid) } }
        match s.att.gcmds.find? (fun x => x.rid == g.rid && x.die != g.die && x.members != []) with
        | some o => updG o.id (fun x => deal x (all.filter (fun p => !x.waits p))) s
        | none =>
          let os := groupOf s g.td (1 - g.die)
          if os ≠ [] then addG (deal (GCmd.empty 0 g.rid g.td (1 - g.die) os) all) s
          else
            let z := all.filter (fun p => !s.att.gcmds.any (fun x => x.rid == g.rid && x.waits p))
            updReq g.rid (fun r => { r with zephyr := true, zphLeft := r.zphLeft ++ z, grpLeft := r.grpLeft.filter (fun p => !z.any (samePage p)) }) s

/-- A cluster leaves every command that it belongs to. -/
def dropCluster (c : Nat) (s : State) : State :=
  let ids := (s.att.gcmds.filter (fun g => g.members.contains c)).map (·.id)
  let rids := ((s.att.gcmds.filter (fun g => g.members.contains c)).map (·.rid)).eraseDups
  issueWaiting 64 (rids.foldl (fun s i => serveFlash i s) (ids.foldl (fun s i => dropFrom c i s) s))

/-- CLUSTER_HANDOVER (R176): a leaving cluster passes its work on and stops. -/
def execClusterHandover (cluster : Nat) (s : State) : Res :=
  .next (if (clus s cluster).leaving then
    updClus cluster (fun k => { k with leaving := false, dirty := true, joining := false }) (dropCluster cluster s) else s)

/-- CLUSTER_ZERO_FILL (R68, R175): all 16 ways and the translation cache are cleared; the cluster serves its extent's domain, or is idle. -/
def execClusterZeroFill (cluster : Nat) (s : State) : Res :=
  let k := clus s cluster
  if !k.dirty ∨ k.leaving then .next s
  else
    let td := k.ext.bind (fun e => (ext? s e).map (·.td))
    .next (tcDrop (fun e => e.cluster == some cluster) (updClus cluster (fun k => { k with dirty := false, joining := false, td := td, ways := [] }) s))

/-! ### Zephyr's recovery work (R101, R190, R199 to R206) -/

/-- A page that Zephyr may take: it waits for no append, no promotion and no direct read, and its channel does not retrain. -/
def zphReady (s : State) (r : Req) (p : PageRef) : Bool :=
  !pageWaits s r p.k p.tpage && (!inFlash p || (directHit s r p && directReady s p)) && !pageRetrains s p

/-- The home die's merge of a request falls to Zephyr (R190). -/
def mergeOnZph (s : State) (r : Req) : Bool := workDone s r && noClusters s r.td

/-- Requests with work for a Zephyr, pages or a merge, in order of issue (R204). -/
def zphWork (s : State) (die : Nat) : List Req :=
  (issuedReqs s).filter (fun r => zphFor s r.home == die && (r.zphLeft.any (zphReady s r) || mergeOnZph s r))

/-- The domain served next: in turn after the last one (R204). -/
def nextDom (s : State) (die : Nat) : Option Nat :=
  let l := ((zphWork s die).map (·.td)).eraseDups
  let z := (zph s die).last
  l.foldl (fun o t => match o with
    | none => some t
    | some u => if (t + 64 - z - 1) % 64 < (u + 64 - z - 1) % 64 then some t else o) none

/-- Zephyr turns to a domain: before work for another one its row store, accumulators and page buffer are zero-filled (R203). -/
def enterZph (die td : Nat) (s : State) : State :=
  updZph die (fun z => if z.td = some td then z else { z with td := some td, rowStore := [], acc := [], buf := [] }) s

/-- Key of a page in `Req.zphRows`, and its rows that are done. -/
def zphKey (p : PageRef) : Nat := 1024 * p.k + p.tpage
def zphRowsDone (r : Req) (p : PageRef) : Nat := (lookD [] r.zphRows (zphKey p)).length

/-- The pages of the pass that comes next, in page order: of the lowest head, those with the fewest rows done (R200, R202). -/
def zphPass (s : State) (r : Req) : List PageRef :=
  let l := r.zphLeft.filter (zphReady s r)
  let before := fun (a b : PageRef) => decide (a.k < b.k ∨ (a.k = b.k ∧ zphRowsDone r a < zphRowsDone r b))
  match l.foldl (fun (o : Option PageRef) p => match o with | none => some p | some q => if before p q then some p else o) none with
  | none => []
  | some q => l.filter (fun p => p.k == q.k && zphRowsDone r p == zphRowsDone r q)

/-- A page of Zephyr's work as a new translation has it. -/
def zphReplace (p q : PageRef) (s : State) : State :=
  let s := updReq p.rid (fun r => { r with zphLeft := r.zphLeft.map (fun x => if samePage p x then q else x) }) s
  match req? s p.rid with
  | some r => needPage r q s
  | none => s

/-- Fetch a page into Zephyr's page buffer (R202, R205), unless it stands there. -/
def zphFetch (die : Nat) (r : Req) (p : PageRef) (s : State) : State :=
  let buf := (zph s die).buf
  if buf.any (fun t => samePage p t.page) ∨ !needsFetch p then s
  else
    let (q, s) := refreshed r p s
    match q.leaf, (nats 4).find? (fun k => buf.all (fun t => t.slot != k)) with
    | some l, some slot =>
      if !needsFetch q then zphReplace p q s
      else if pageRetrains s q then s
      else
        let (t, s) := fetchTile slot r q l s
        updZph die (fun z => { z with buf := z.buf ++ [t] }) s
    | none, _ => zphReplace p q s
    | _, _ => s

/-- A page is done on Zephyr: its partial goes to the home die's merge. -/
def zphPageDone (p : PageRef) (part : Part) (s : State) : State :=
  updReq p.rid (fun r => { r with
    zephyr := true, zphLeft := r.zphLeft.filter (fun q => !samePage p q), zphRows := rem r.zphRows (zphKey p), homeParts := r.homeParts ++ [part] }) s

/-- One row over a page on Zephyr: its triple, SMAG and VABS (R200, R201). -/
def zphRow (s : State) (r : Req) (img : List Byte) (k tp n : Nat) : ZRow :=
  let dm := dom s r.td
  let x := pageRow dm.geom dm.fmt r img (queryRow r k n) (candOf r n) tp (s.free + 4096 * n)
  let y := rowSums dm.geom dm.fmt r img (queryRow r k n) (candOf r n) tp (s.free + 4096 * n)
  { row := x, smag := y.1, vabs := y.2 }

/-- One pass over a page in the page buffer: at most 16 rows (R200). With its last rows the page is done. -/
def zphCompute (die : Nat) (r : Req) (t : Tile) (s : State) : State :=
  let p := t.page
  let n0 := zphRowsDone r p
  let ns := ((nats (rowsPerHead r)).drop n0).take 16
  let acc := ns.map (zphRow s r t.rd.bytes p.k p.tpage)
  let whole := pagePart s r p t.rd.bytes
  let rows := lookD [] r.zphRows (zphKey p) ++ acc.map (·.row)
  let s := updZph die (fun z => { z with
    rowStore := ns.map (queryRow r p.k), acc := acc, buf := z.buf.filter (fun x => x.slot != t.slot) }) s
  let s := { s with free := s.free + pageDraws r }
  if t.rd.bad ≠ [] then zphPageDone p (poisonPart s r p) s
  else if rows.length < rowsPerHead r then updReq r.id (fun r => { r with zephyr := true, zphRows := put r.zphRows (zphKey p) rows }) s
  else zphPageDone p { whole with nonfinite := rows.any (fun x => isNan32 x.m), rows := rows } (heatUp r.td r.seqn (refPix r p) s)

/-- A page that Zephyr computes without a fetch (R187, R188, R274). -/
def zphPlain (r : Req) (p : PageRef) (uncorrectable : Bool) (s : State) : State :=
  let (q, s) := refreshed r p s
  if needsFetch q ∨ (inFlash q ∧ !directHit s r q) then zphReplace p q s
  else
    let (part, s) := plainPart r (if inFlash q then markDirect q else q) uncorrectable s
    zphPageDone p part s

-- DESIGN CHOICE, safe, log entry 82.
/-- ZEPHYR_PASS (R199 to R205): one pass of at most 16 rows over the first page of the pass that stands in the page buffer, for the domain in
turn; up to four pages of the pass are fetched ahead. Where the turn is a merge's, HOME_DIE_MERGE takes it. -/
def execZephyrPass (eng : PageReader) (s : State) : Res :=
  let z := zph s eng.ix
  if !z.good ∨ z.fenced then .next s
  else match nextDom s eng.ix with
    | none => .next s
    | some td => match (zphWork s eng.ix).find? (fun r => r.td == td) with
      | none => .next s
      | some r =>
        if mergeOnZph s r then .next s
        else
        let pass := zphPass s r
        let s := enterZph eng.ix td (sampleBack eng.ix s)
        let s := updZph eng.ix (fun z => { z with last := td, buf := z.buf.filter (fun t => pass.any (samePage t.page)) }) s
        match pass with
        | [] => .next s
        | p :: _ =>
          if !needsFetch p then .next (zphPlain r p eng.uncorrectable s)
          else
            let s := (pass.take 4).foldl (fun s p => zphFetch eng.ix r p s) s
            match pass.findSome? (fun p => (zph s eng.ix).buf.find? (fun t => samePage p t.page)) with
            | some t => .next (zphCompute eng.ix r t s)
            | none => .next s

/-! ### The home die's merge and the reply (R32, R108, R111, R190) -/

/-- Heads whose covered count differs from the range. -/
def badHeads (r : Req) (l : List Part) : List Nat :=
  (nats (headsOf r.hmask).length).filter (fun k => match l.find? (fun p => p.head == k) with
    | some p => p.tokens != r.rend - r.rstart
    | none => r.rend != r.rstart)

/-- Inputs of the merge differ in shape (R108): every head of the request is affected. -/
def shapesDiffer (l : List Part) : Bool := l.any (fun p => mismatch l p)

/-- The partial of a head with no page: its range is empty (R112, R113). -/
def emptyPart (r : Req) (w k : Nat) : Part :=
  { head := k, tokens := 0, ptokens := 0, pfirst := 0xFFFFFFFF, poison := false, nonfinite := false, rows := List.replicate (rowsPerHead r) (emptyRow w) }

/-- The partial of a head whose merge failed twice. -/
def failedPart (r : Req) (w k : Nat) : Part :=
  { emptyPart r w k with tokens := r.rend - r.rstart, ptokens := r.rend - r.rstart, pfirst := r.rstart, poison := true }

/-- The reply of an accepted request from its heads' partials (R102, R111). -/
def replyOf (s : State) (r : Req) (l : List Part) (zephyr : Bool) : Reply × State :=
  let d := seq? s r.td r.seqn
  let whole := match d with | some d => d.base == 0 && d.hend == 0xFFFFFFFF | none => false
  let poison := l.any (·.poison)
  let fin := r.fin && whole && !poison
  let w := geomW (dom s r.td).geom
  let l' := if fin then l.zipIdx.map (fun x => finalPart w (s.free + 2 ^ 18 * x.2) x.1) else l
  let s := if fin then { s with free := s.free + 2 ^ 18 * l.length } else s
  ({ form := fin, poison := poison, nonfinite := l'.any (·.nonfinite), zephyr := zephyr, findecl := r.fin && !fin, applied := true, tcheck := r.tcheck
     status := 0, oexp := fmtVbias (dom s r.td).fmt, tokens := r.rend - r.rstart, ptokens := (l.map (·.ptokens)).sum
     pmask := (l.filter (·.poison)).foldl (fun n p => n + 2 ^ headOf r p.head) 0, pfirst := l.foldl (fun m p => min m p.pfirst) 0xFFFFFFFF
     len := r.len, hint := 0, rkey := match d with | some d => rkeyOf d | none => 0, rows := l'.flatMap (·.rows) }, s)

def Req.dest (r : Req) : Dest :=
  { sender := r.sender, td := r.td, host := r.host, tag := r.tag, hmask := r.hmask, ykey := r.ykey, yqpn := r.yqpn, yaddr := r.yaddr }

/-- The request is over. -/
def dropReq (rid : Nat) (s : State) : State :=
  let s := dropOps (fun o => match o with
    | .attend p => p.rid == rid
    | .append i _ _ => i == rid
    | _ => false) s
  { s with att := { s.att with
    reqs := s.att.reqs.filter (fun r => r.id != rid), gcmds := s.att.gcmds.filter (fun g => g.rid != rid)
    gwait := s.att.gwait.filter (fun x => x.1 != rid) } }

/-- Where the home die's merge runs (R190): in ways 14 and 15 of the lowest-numbered good cluster of the domain on the home die, or on the other
die; with none, on Zephyr in the domain's turn (R204). None when neither can now. -/
def mergePlace (r : Req) (s : State) : Option State :=
  match (groupOf s r.td r.home ++ groupOf s r.td (1 - r.home)).head? with
  | some c => some (useWays c [14, 15] s)
  | none =>
    let die := zphFor s r.home
    let turn := nextDom s die == some r.td && ((zphWork s die).find? (fun x => x.td == r.td)).map (·.id) == some r.id
    if !(zph s die).good ∨ (zph s die).fenced ∨ !turn then none
    else some (updReq r.id (fun r => { r with zephyr := true }) (updZph die (fun z => { z with last := r.td }) (enterZph die r.td (sampleBack die s))))

/-- HOME_DIE_MERGE (R29, R32, R108, R190): merge, check, finalise and reply. Heads whose count is wrong, and all of them when shapes differ, are computed
once more on the die path. -/
def execHomeDieMerge (rid : Nat) (s : State) : Res :=
  match req? s rid with
  | none => .next s
  | some r =>
    if !workDone s r then .next s
    else match mergePlace r s with
    | none => .next s
    | some s =>
      let w := geomW (dom s r.td).geom
      let (l, s) := mergeAll w r.homeParts s
      let shape := shapesDiffer l
      let bad := if shape then nats (headsOf r.hmask).length else badHeads r l
      if bad ≠ [] ∧ !r.recomputed then
        let (pages, s) := translate r s
        let s := updReq rid (fun r => { r with recomputed := true, homeParts := l.filter (fun p => !bad.contains p.head) }) s
        .next (serveFlash rid (issueFused rid (pages.filter (fun p => bad.contains p.k)) s))
      else
        let s := if r.recomputed ∧ bad = [] then bump (ctrNode 0x18) s else s
        let s := if bad ≠ [] then
            report { err0 3 0x0031 (if shape then 2 else 1) with td := some r.td, sva := svaOf r.td r.seqn 0, tag := r.tag } s
          else s
        let heads := (nats (headsOf r.hmask).length).map (fun k =>
          if bad.contains k then failedPart r w k else (l.find? (fun p => p.head == k)).getD (emptyPart r w k))
        let (rep, s) := replyOf s r heads (r.zephyr || noClusters s r.td)
        .next (syncZph (dropReq rid (sendReply r.dest rep s)))

end Sys2Proof.Machine
end

