-- ==== Sys2Proof/Machine/Lull.lean ====
section
/-! DEFINITION. Fences of units, clusters and Zephyrs (R167, R196 to R198, R206, R207), and Lull (R208, R214 to R228, R350). -/

namespace Sys2Proof.Machine

/-! ### Fences -/

/-- Samples of a unit or cluster fenced for another cause (R223). -/
def fenceSamples (p : Sample → Bool) (s : State) : State :=
  [0, 1].foldl (fun s d => ((samplesOf s d).filter p).foldl (fun s x =>
    if x.state = .retrying then sampleDone d x 6 0x178 (lullSoft d x 2 s) else sampleDone d x 3 0x16C s) s) s

/-- The domain that owns a unit's channel. -/
def unitOwner (s : State) (u : Nat) : Option Nat := chanOwner s (u / 9)

/-- Queued ATTENDs of a fenced unit pass to the die path (R100, R167), those of a request by one command (R191). -/
def moveAttends (u : Nat) (s : State) : State :=
  let ps := (lookD [] s.att.units u).filterMap (fun o => match o with | .attend p => some p | _ => none)
  let s := dropOps (fun o => match o with | .attend p => ps.contains p | _ => false) s
  ((ps.map (·.rid)).eraseDups).foldl (fun s i =>
    let mine := ps.filter (fun p => p.rid == i)
    issueFused i mine (updReq i (fun r => { r with unitLeft := r.unitLeft.filter (fun q => !mine.any (samePage q)) }) s)) s

/-- The raw operation that a fenced unit runs stops (R167): all but FILL and COPY, which the controller completes, like appends and zero fills. -/
def stopRaw (u : Nat) (s : State) : State :=
  match nextOp s u with
  | some (.raw id) =>
    if s.mbx.cmds.any (fun c => c.id == id && (let o := (RawD.ofBytes c.body).opc; o == 1 || o == 2)) then s else rawStop id s
  | _ => s

/-- An island latches a parity error (R635). -/
def latchParity (island : Nat) (s : State) : State := { s with err := { s.err with parity := island :: s.err.parity } }

/-- A bank unit is fenced (R167): cause as INFO gives it, TAG of the request concerned. -/
def fenceUnit (u cause tag : Nat) (s : State) : State :=
  if codeUnit s u ≠ .good then s
  else
    let owner := unitOwner s u
    let s := fenceCode (fun f => { f with unit := put f.unit u .fenced }) s
    let s := fenceSamples (fun x => x.cluster.isNone && x.unit == u) s
    let s := settleWork (moveAttends u (stopRaw u s))
    let s := if cause = 1 then latchParity (234 + u / 288) s else s
    report { err0 2 0x0021 cause with td := owner, lkind := 3, loc := u, tag := tag } s

/-- A cluster is fenced (R197, R198): its share goes to the rest of its group; a spare takes its place in its extent (R610). -/
def fenceCluster (c cause tag : Nat) (s : State) : State :=
  if codeClus s c ≠ .good then s
  else
    let e := extOfClus s c
    let owner := match e.bind (ext? s) with | some x => some x.td | none => (clus s c).td
    let s := fenceCode (fun f => { f with clus := put f.clus c .fenced }) s
    let s := fenceSamples (fun x => x.cluster == some c) s
    let s := updClus c (fun _ => Clus.idle) (dropCluster c s)
    let s := tcDrop (fun x => x.cluster == some c) s
    let s := match e with
      | some e => substituteSoon e c true s
      | none => s
    let s := if cause = 2 then latchParity c s else s
    report { err0 4 0x0041 cause with td := owner, lkind := 4, loc := c, tag := tag } s

/-- A Zephyr fails its known answers in service (R206, R207). -/
def fenceZephyr (die : Nat) (s : State) : State :=
  let s := report (err0 0 0x0008 die) (syncZph (updZph die (fun z => { z with fenced := true }) (sampleBack die s)))
  if (zph s (1 - die)).fenced then fatalStop (err0 5 0x0053 0) 6 s else s

/-- UNIT_FENCE (R167): the unit reports a parity or microcode error. -/
def execUnitFence (unit : Nat) (cause : FenceCause) (s : State) : Res := .next (if s.up then fenceUnit unit cause 0 s else s)

/-- CLUSTER_FENCE (R197): the cluster reports an SRAM or parity error. -/
def execClusterFence (cluster : Nat) (cause : FenceCause) (s : State) : Res := .next (if s.up then fenceCluster cluster cause 0 s else s)

/-! ### When a step may begin (R214 to R216) -/

def lullBit (s : State) (b : Nat) : Bool := s.up && bitOf s.att.lulCtl 31 && bitOf s.att.lulCtl b

/-- No request of the domain is accepted and unanswered. -/
def domQuiet (s : State) (td : Nat) : Bool := s.att.reqs.all (fun r => r.td != td)

/-- No request work is queued on a unit, and its channel carries accesses. -/
def pairQuiet (s : State) (u : Nat) : Bool := !streaming s u && pairRuns s u

/-- Zephyr may begin a Lull step. -/
def zphQuiet (s : State) (die : Nat) : Bool := let z := zph s die; z.good && !z.fenced && !recovNow s die

def lullStep (die : Nat) (s : State) : State := bump (ctrDie die 7) s

/-! ### Samples (R208, R221 to R226) -/

/-- Rows of a sample. -/
def Sample.nrows (x : Sample) : Nat := x.copy.rows.length

/-- The frame of a sample's page, if it lies in one. -/
def Sample.frame (x : Sample) : Option Nat := x.page.leaf.bind (fun l => if l.tier = .dram then some l.frame else none)

-- DEDUCED, unsafe, log entry 87.
/-- Lull steps that read the page, 24 KiB each, and that run the pass, up to 2 µs each at a token-slot boundary (R202, R214). -/
def readSteps (g : W64) (fmt : List W64) : Nat := (65536 + geomT g * geomW g / 16 + fmtNoc fmt * 2 * geomT g + 24575) / 24576
def passSteps (g : W64) (rows : Nat) : Nat :=
  let perSlot := max 1 (rows * ((geomW g + 63) / 64))
  let slots := max 1 (3000 / perSlot)
  (geomT g + slots - 1) / slots

/-- Steps that read a sample's page, and all its steps. A page that is absent has nothing to read. -/
def Sample.reads (x : Sample) (g : W64) (fmt : List W64) : Nat := if x.page.leaf.isSome then readSteps g fmt else 0
def Sample.total (x : Sample) (g : W64) (fmt : List W64) : Nat := x.reads g fmt + passSteps g x.nrows

/-- The page of a sample as it is read again, by Zephyr or a cluster whole, by a bank unit as R131 has it. -/
def sampleRead (s : State) (x : Sample) (byUnit : Bool) : PRead :=
  match x.page.leaf with
  | none => { bytes := [], corr := [], bad := [] }
  | some l =>
    if l.tier ≠ .dram then { bytes := (pageImage s x.td { l with tier := .flash }).1, corr := [], bad := [] }
    else if byUnit then readFor s x.req x.page.tpage l.frame
    else fetchRead (dom s x.td).geom (dom s x.td).fmt l.frame (rdPage s.mem l.frame 0 69632)

/-- What the read of a sample's page leaves: counts, poison, or a flash read (R300). -/
def sampleReadDone (x : Sample) (rd : PRead) (s : State) : State :=
  match x.page.leaf with
  | none => s
  | some l => if l.tier ≠ .dram then arrayRead l.frame s else settleWork (pageReadDone x.td x.req.seqn (refPix x.req x.page) l.frame x.tag rd s)

-- DESIGN CHOICE, safe, log entry 76.
/-- The saved rows over the page with their comparison sums (R201). -/
def sampleRows (s : State) (x : Sample) (img : List Byte) : List ZRow :=
  match x.page.leaf with
  | none => (((absentPart s x.req x.page).rows.drop x.row0).take x.nrows).map (fun r =>
      { row := r, smag := 0, vabs := List.replicate (geomW (dom s x.td).geom) 0 })
  | some _ => (nats x.nrows).map (fun i => zphRow s x.req img x.page.k x.page.tpage (x.row0 + i))

/-- R208 for one row, with f = exp(a.m − z.m) as a number between its bounds. -/
def rowAgrees (sc f : Rat) (a : RowP) (z : ZRow) : Bool :=
  if isNan32 a.m || isNan32 z.row.m then isNan32 a.m && isNan32 z.row.m
  else if a.m = ninf32 ∨ z.row.m = ninf32 then a.m == ninf32 && z.row.m == ninf32 && val32 a.l == 0 && a.o.all (fun v => val32 v == 0)
  else
    let ds := pow2 (-17) * |sc| * z.smag
    let t := pow2 (-15) + 2 * ds
    decide (|val32 a.m - val32 z.row.m| ≤ ds) && decide (|val32 a.l * f - val32 z.row.l| ≤ t * val32 z.row.l)
      && (a.o.zip (z.row.o.zip z.vabs)).all (fun y => decide (|val32 y.1 * f - val32 y.2.1| ≤ t * y.2.2))

/-- within_tolerance of R208 for the saved rows: a partial of `tokens` positions under test, and Zephyr's rows. -/
def agrees (s : State) (x : Sample) (tokens : Nat) (a : List RowP) (z : List ZRow) : Bool :=
  let sc := val32 x.req.sscale * val32 x.req.qscale
  tokens == (pagePositions x.req (tokT s x.td) x.page.tpage).length && (a.zip z).zipIdx.all (fun y =>
    let d := val32 y.1.1.m - val32 y.1.2.row.m
    rowAgrees sc (val32 (within (s.free + y.2) (expLo d) (expHi d))) y.1.1 y.1.2)

def setSample (die : Nat) (x : Sample) (s : State) : State :=
  updZph die (fun z => { z with samples := z.samples.map (fun y => if y.key = x.key then x else y) }) s

/-- The sample's domain is idle, and so is its page's pair (R216). -/
def sampleQuiet (s : State) (x : Sample) : Bool := domQuiet s x.td && (match x.frame with | some f => pairQuiet s (frUnit f) | none => true)

/-- The sample that Zephyr works on, or the next held one that may begin (R216, R225): while the one it works on is being retried, none. -/
def nextSample (s : State) (die : Nat) : Option Sample :=
  let l := samplesOf s die
  match (zph s die).active with
  | some k => l.find? (fun x => x.key == k && x.state == .checking && sampleQuiet s x)
  | none => l.find? (fun x => x.state == .held && sampleQuiet s x)

/-- Zephyr has read a sample's page into its buffer (R223): an uncorrectable codeword changes the page's entry, and the sample is void. -/
def sampleFetched (die : Nat) (x : Sample) (s : State) : State :=
  let rd := sampleRead s x false
  let s := sampleReadDone x rd s
  if rd.bad ≠ [] then (if (samplesOf s die).any (fun y => y.key == x.key) then sampleDone die x 3 0x16C s else s)
  else match x.page.leaf with
    | some l => updZph die (fun z => { z with buf := [{ slot := 0, page := x.page, leaf := l, rd := rd }] }) s
    | none => s

/-- The pass over a sample's page ends (R208, R223): it closes as passed, or its origin is to compute the page again. -/
def samplePassed (die : Nat) (x : Sample) (s : State) : State :=
  let img := match (zph s die).buf.head? with | some t => t.rd.bytes | none => []
  let z := sampleRows s x img
  let s := { s with free := s.free + pageDraws x.req }
  let ok := agrees s x x.copy.tokens x.copy.rows z
  let s := { s with free := s.free + 16 }
  let s := updZph die (fun k => { k with rowStore := (nats x.nrows).map (fun i => queryRow x.req x.page.k (x.row0 + i)), acc := z, buf := [] }) s
  if ok then sampleDone die x 2 0x168 s
  else bump (ctrDie die 5) (bump (ctrTd x.td 0x174) (setSample die { x with state := .retrying, ref := some z } s))

-- DEDUCED, unsafe, log entry 85.
/-- LULL_SAMPLE_STEP (R203, R214, R216, R223, R225): the next step of the sample on which Zephyr works. -/
def execLullSampleStep (die : Nat) (s : State) : Res :=
  if !(lullBit s 30 && zphQuiet s die) then .next s
  else match nextSample s die with
    | none => .next s
    | some x =>
      let g := (dom s x.td).geom
      let fmt := (dom s x.td).fmt
      let x := { x with state := .checking, steps := x.steps + 1 }
      let s := lullStep die (updZph die (fun z => { z with active := some x.key }) (enterZph die x.td (setSample die x s)))
      .next (if x.steps = x.reads g fmt then sampleFetched die x s else if x.steps < x.total g fmt then s else samplePassed die x s)

/-- Units and clusters idle for a recomputation (R224). -/
def originIdle (s : State) (x : Sample) : Bool :=
  sampleQuiet s x && (match x.cluster with
    | some c => codeClus s c == .good && s.att.gcmds.all (fun g => !g.busyAt c)
    | none => codeUnit s x.unit == .good)

/-- SAMPLE_RETRY (R223, R224): the original unit or cluster recomputes the page with the saved rows. A codeword found uncorrectable changes the
page's entry: the mismatch stays unconfirmed. -/
def execSampleRetry (die : Nat) (s : State) : Res :=
  match (samplesOf s die).find? (fun x => x.state == .retrying) with
  | none => .next s
  | some x =>
    if !s.up ∨ !originIdle s x then .next s
    else
      let rd := sampleRead s x x.cluster.isNone
      let a := (sampleRows s x rd.bytes).map (·.row)
      let s := sampleReadDone x rd { s with free := s.free + pageDraws x.req }
      if rd.bad ≠ [] then .next (if (samplesOf s die).any (fun y => y.key == x.key) then lullSoft die x 2 s else s)
      else
        let ok := agrees s x x.copy.tokens a (x.ref.getD [])
        let s := { s with free := s.free + 16 }
        if ok then .next (lullSoft die x 1 s)
        else
          let s := sampleDone die x 6 0x178 s
          .next (match x.cluster with
            | some c => fenceCluster c 3 x.tag s
            | none => fenceUnit x.unit 3 x.tag s)

def ageNs (s : State) : Nat := max 1 (fld s.att.lulCtl 15 0) * 1000000

/-- SAMPLE_AGE_EXPIRY (R223, R227): sample number `idx` of the die's buffer has reached AGE. -/
def execSampleAgeExpiry (die idx : Nat) (s : State) : Res :=
  match (samplesOf s die)[idx]? with
  | none => .next s
  | some x =>
    if s.now < x.taken + ageNs s then .next s
    else if x.state = .retrying then .next (lullSoft die x 2 s)
    else .next (sampleDone die x 4 0x170 s)

/-! ### The other activities (R214, R218, R219, R207, R350) -/

/-- Free frames of a channel's owner (R218). -/
def ownerFree (s : State) (c : Nat) : Nat :=
  match chanOwner s c with
  | some td => freeFrames s td
  | none => 0

/-- Lull steps done on a frame that may be tested: it is free, or under test. -/
def testSteps (s : State) (ix : Nat) : Option Nat :=
  match look s.mem.frames ix with
  | none | some .dirty => some 0
  | some (.testing n) => some n
  | _ => none

/-- Codewords of a frame that a step of its test covers: five patterns in turn, each over the frame in five steps (R214, R218). -/
def testCovers (n off : Nat) : Bool := decide (n % 5 * 480 ≤ off / 32 ∧ off / 32 < min 2176 (n % 5 * 480 + 480))

/-- The memory test of a unit's frame may take a step: the owner of its channel is idle (R216) and has 64 other free frames (R218). A channel
of no extent, a spare included, has no owner, and neither condition applies to it (R640, N12). -/
def testMay (s : State) (unit ix : Nat) : Bool :=
  lullBit s 29 && pairQuiet s unit && codeChan s (unit / 9) == .good
    && (match chanOwner s (unit / 9) with
      | none => true
      | some td => domQuiet s td
        && decide (64 + (if (match look s.mem.frames ix with | some (.testing _) => true | _ => false) then 0 else 1) ≤ ownerFree s (unit / 9)))

-- DEDUCED, unsafe, log entry 147.
/-- LULL_MEMORY_TEST (R214, R216, R218): a step of up to 480 codewords of the test of a free frame, the zeros pattern last. `badCodeword` is the
offset of a codeword that fails: it retires the frame. -/
def execLullMemoryTest (unit slot : Nat) (badCodeword : Option Nat) (s : State) : Res :=
  let ix := unit * 2560 + slot
  let die := if unit < 3456 then 0 else 1
  match testSteps s ix with
  | none => .next s
  | some n =>
    if !testMay s unit ix ∨ 2560 ≤ slot then .next s
    else
      let s := lullStep die (dropZero (fun f => frameIx f == ix) { s with mem := zeroFrame s.mem ix })
      .next (match badCodeword.filter (testCovers n) with
        | some o => report { err0 1 0x0010 o with td := chanOwner s (unit / 9), lkind := 1, loc := frameOf unit slot } (bump (ctrDie die 8) (retireFrame ix s))
        | none => { s with mem := { s.mem with frames := if n + 1 < 25 then put s.mem.frames ix (.testing (n + 1)) else rem s.mem.frames ix } })

-- DEDUCED, unsafe, log entry 86.
/-- Spare lanes are numbered 64 × stack + lane for stack ports, 1,536 + lane for the die-to-die link, 2,048 + lane for fabric lanes:
die whose LUL_STEPS counts the step, and the lane's place in a record. -/
def laneDie (lane : Nat) : Nat := if lane < 1536 then lane / 768 else if 2052 ≤ lane then 1 else 0
def laneLoc (lane : Nat) : Nat × Nat := if 2048 ≤ lane then (6, lane % 8) else (0, 0)

/-- The lane is a spare one (R214, R593): of a stack port or the die-to-die link a spare that the fuses leave and no repair has taken, of the
fabric one that is wired and in no enabled port. -/
def spareLane (s : State) (lane : Nat) : Bool :=
  match s.boot.fuses with
  | none => false
  | some f =>
    if lane < 1536 then decide (lane % 64 < f.stackSpares.getD (lane / 64) 0 - lookD 0 s.boot.stackSparesUsed (lane / 64))
    else if lane < 2048 then decide (lane - 1536 < f.d2dSpares - s.boot.d2dSparesUsed)
    else decide (lane < 2056) && s.boot.board.flanes.testBit (lane - 2048) && (port s ((lane - 2048) / 2)).state == .disabled

/-- LULL_SPARE_LANE (R219): a spare lane is exercised in loopback. Repairs take spares only while ports are trained (R593), when no Lull step
begins. -/
def execLullSpareLane (lane : Nat) (ok : Bool) (s : State) : Res :=
  if !lullBit s 28 ∨ !spareLane s lane ∨ s.att.badLanes.contains lane then .next s
  else
    let s := lullStep (laneDie lane) s
    .next (if ok then s else report { err0 0 0x0004 0x10000 with lkind := (laneLoc lane).1, loc := (laneLoc lane).2 }
      { s with att := { s.att with badLanes := lane :: s.att.badLanes } })

/-- An entry agrees with its copy and its group's header (R350). -/
def entryOk (s : State) (e : DirE) : Bool := entryCopy? s (keyTd e.key) e.key == some e && headerOk s (keyTd e.key) e

/-- What Lull checks in a bank: its entries by slot, and the copies that belong there, which name a slot only once they are written. -/
def checkItems (s : State) (bank : Nat) : List (Nat × DirE) :=
  bankTab s bank ++ ((s.pfx.copies.flatMap (·.2)).filter (fun e => bankOf e.key == bank)).map (fun e => (0, e))

/-- An entry or copy under check: rewritten from the copy when they disagree, or the bank lacks it. -/
def checkItem (bank : Nat) (x : Nat × DirE) (s : State) : State :=
  match (bankTab s bank).find? (fun y => y.2.key == x.2.key) with
  | some y => if entryOk s y.2 then s else repairEntry (keyTd x.2.key) bank y.1 x.2.key s
  | none => if (entryCopy? s (keyTd x.2.key) x.2.key).isSome then repairEntry (keyTd x.2.key) bank x.1 x.2.key s else s

/-- LULL_PREFIX_CHECK (R214, R350): the next 64 entries or copies of the bank whose turn it is; after its last ones the turn passes to the next of the
16 banks. The directory lies on die 0. -/
def execLullPrefixCheck (bank : Nat) (s : State) : Res :=
  if !lullBit s 27 ∨ s.pfx.turn ≠ bank then .next s
  else
    let items := checkItems s bank
    let at_ := lookD 0 s.pfx.cursor bank
    let more := decide (at_ + 64 < items.length)
    let s := lullStep 0 { s with pfx := { s.pfx with
      cursor := putD 0 s.pfx.cursor bank (if more then at_ + 64 else 0), turn := if more then bank else (bank + 1) % 16 } }
    .next (((items.drop at_).take 64).foldl (fun s x => checkItem bank x s) s)

/-- LULL_ZEPHYR_CHECK (R207): one part of the known-answer set. -/
def execLullZephyrCheck (die : Nat) (matches_ : Bool) (s : State) : Res :=
  if !(s.up && bitOf s.att.lulCtl 31 && zphQuiet s die) then .next s
  else
    let s := lullStep die s
    .next (if matches_ then s else fenceZephyr die s)

end Sys2Proof.Machine
end

