-- ==== Sys2Proof/Machine/Errors.lean ====
section
/-! DEFINITION. The error handler (R626 to R632): its steps, the domain audit, the orphan sweep, the end of a handling, the watchdog, fatal errors
(R633) and signals held back by the rate limit (R623, R691). -/

namespace Sys2Proof.Machine

/-! ### The domain audit (R53, R629) -/

/-- A finding of an audit: the sequence becomes LOST, its record carries AUDIT and REL. -/
def lostByAudit (td seqn check rel : Nat) (s : State) : State :=
  report { err0 3 0x0032 check with td := some td, sva := td * 2 ^ 58 + seqn * 2 ^ 40, audit := true, rel := rel } (makeLost td seqn s)

/-- Frames that the leaf entries of a sequence name. -/
def privateFrames (d : SeqD) : List Nat := (d.leaves.filter (fun l => l.2.tier == .dram)).map (fun l => l.2.frame)

/-- The first check of R53 that an entry of the sequence fails: 1 tenant check field, 2 channel ownership. -/
def entryFault (s : State) (d : SeqD) : Option Nat :=
  if (d.root :: (d.l1 ++ d.l2).map (·.2)).any (fun e => e.tdc != d.td) then some 1
  else d.leaves.findSome? (fun l =>
    if l.2.tdc ≠ d.td then some 1
    else if l.2.tier = .dram ∧ !ownedChan s d.td (frChan l.2.frame) then some 2 else none)

/-- Audit of one sequence: its entries, and frames that an entry of a sequence read before it also names. -/
def auditSeq (td seqn rel : Nat) (s : State) : State :=
  match seq? s td seqn with
  | none => s
  | some d =>
    if d.state = .lost then s
    else match entryFault s d with
      | some k => lostByAudit td seqn k rel s
      | none =>
        let fs := privateFrames d
        let before := (s.seqs.map (·.2)).filter (fun e => e.td == td && decide (e.seqn < seqn) && (privateFrames e).any (fs.contains ·))
        if before = [] ∧ fs.eraseDups.length = fs.length then s
        else before.foldl (fun s e => lostByAudit td e.seqn 3 rel s) (lostByAudit td seqn 3 rel s)

/-! ### The orphan sweep (R628) -/

/-- Frames of a domain that a table entry, a page record or a change of leaf entry refers to. -/
def referencedFrames (s : State) (td : Nat) : List Nat :=
  (domPages s td).map (fun p => frameIx p.leaf.frame)
    ++ (s.mem.chgs.filter (fun c => c.td == td)).flatMap (fun c => c.frames.map frameIx)

def sweepChan (td c : Nat) (s : State) : State :=
  if !(domChans s td).contains c then s
  else
    let refs := referencedFrames s td
    let gone := (s.mem.frames.filter (fun e => e.2 == .used && e.1 / 2560 / 9 == c && !refs.contains e.1)).map (·.1)
    if codeChan s c ≠ .good then s
    else gone.foldl (fun s ix => bump (ctrNode 0x1C) (giveFrame (frameOf (ix / 2560) (ix % 2560)) s)) s

/-- Logical flash pages of a domain that something refers to. -/
def referencedFlash (s : State) (td : Nat) : List Nat :=
  (s.seqs.filter (fun x => x.2.td == td)).flatMap (fun x => (mappedPages x.2).filterMap (fun p =>
    match leafOf x.2 p with | some l => if l.tier = .flash then some l.frame else none | none => none))
  ++ (s.pfx.groups.filter (fun g => g.td == td)).flatMap (fun g => g.recs.filterMap (fun r => if r.2.leaf.tier = .flash then some r.2.leaf.frame else none))
  ++ (s.mem.chgs.filter (fun c => c.td == td)).flatMap (fun c => c.flash)

def sweepFlash (td : Nat) (s : State) : State :=
  let refs := referencedFlash s td
  ((s.mem.pages.filter (fun p => p.2.td == td && !refs.contains p.1)).map (·.1)).foldl (fun s n => bump (ctrNode 0x1C) (freeFlash n s)) s

/-! ### Steps and handlings (R630, R631) -/

/-- One step of the handling of record number `rel`. -/
def runStep (rel : Nat) (h : HStep) (s : State) : State :=
  match h with
  | .tableArea c => (tableObjs s c).foldl (fun s o => tableError c rel true o s) s
  | .auditSeq td seqn => auditSeq td seqn rel s
  | .sweepChan td c => sweepChan td c s
  | .sweepFlash td => sweepFlash td s
  | .bookkeeping => s

/-- a is taken before b: the higher class, suspended before queued, then by ESEQ. -/
def hdlBefore (a b : Hdl) : Bool :=
  decide (b.rec_.cls < a.rec_.cls) || (a.rec_.cls == b.rec_.cls &&
    ((a.suspended && !b.suspended) || (a.suspended == b.suspended && decide (a.rec_.eseq < b.rec_.eseq))))

def nextHdl (q : List Hdl) : Option Hdl :=
  q.foldl (fun o h => match o with | none => some h | some k => if hdlBefore h k then some h else some k) none

/-- A handling completes: what it contains is discarded and counted, and the next is taken. -/
def completeHdl (h : Hdl) (s : State) : State :=
  let sub := s.err.queue.filter (fun k => contains h.rec_ k.rec_.code k.rec_.cls k.rec_.tdv k.rec_.sva)
  let q := s.err.queue.filter (fun k => !contains h.rec_ k.rec_.code k.rec_.cls k.rec_.tdv k.rec_.sva)
  let s := if sub = [] then s else bumpBy (ctrNode 0x14) sub.length s
  match nextHdl q with
  | some k => { s with err := { s.err with active := some { k with suspended := false }, queue := q.erase k } }
  | none => { s with err := { s.err with active := none, queue := q } }

/-- HANDLING_STEP (R630, R631): the active handling runs its next step. -/
def execHandlingStep (s : State) : Res :=
  if s.err.fatal then .next s
  else match s.err.active with
    | none => .next s
    | some h => match h.work with
      | [] => .next (completeHdl h s)
      | w :: rest =>
        let s := runStep h.rec_.eseq w { s with err := { s.err with active := some { h with work := rest } } }
        .next (if rest = [] then completeHdl { h with work := [] } s else s)

/-- HANDLER_WATCHDOG (R631, R632): 1 the step has not ended in 10 ms, 2 a fault of the handler. -/
def execHandlerWatchdog (cause : WatchCause) (s : State) : Res :=
  .next (if s.err.active.isSome && !s.err.fatal && (cause == 1 || cause == 2) then watchdogTrip cause s else s)

/-- CAUSE that a node-scope error leaves in BOOT_STAT (R633). -/
def fatalCause (code info : Nat) : Option Nat :=
  if code = 0x0051 then some 4 else if code = 0x0052 then some 5 else if code = 0x0053 then some 6 else if code = 0x0054 then some 7
  else if code = 0x0055 then some info else none

/-- FATAL_ERROR (R633): a node-scope error of R618 is detected; a further one is counted in the crash snapshot (R631). -/
def execFatalError (code info : Nat) (s : State) : Res :=
  match fatalCause code info with
  | some c => .next (if s.outOfReset && (s.boot.running || s.boot.phase == .released || s.err.fatal) then fatalStop (err0 5 code info) c s else s)
  | none => .next s

/-! ### Signals held back (R623, R691) -/

/-- INTERRUPT_HOLDOFF_EXPIRY (R623, R691): 10 µs after the last signal, one held back is raised. -/
def execInterruptHoldoffExpiry (sideband : Bool) (s : State) : Res :=
  if sideband then
    match s.err.pendSb with
    | [] => .next s
    | b :: rest =>
      let due := match s.err.lastSb with | some t => decide (t + 10000 ≤ s.clk) | none => true
      .next (if due then sidebandSend b { s with err := { s.err with pendSb := rest } } else s)
  else if s.err.pendPf then
    let due := match s.err.lastPf with | some t => decide (t + 10000 ≤ s.clk) | none => true
    .next (if due then signalPf { s with err := { s.err with pendPf := false } } else s)
  else .next s

end Sys2Proof.Machine
end

