-- ==== Sys2Proof/Machine/Extents.lean ====
section
/-! DEFINITION. Extents (R473 to R482, R486, R487): EXT_SET, EXT_GET and EXT_REVOKE, composition changes, evacuation and release. -/

namespace Sys2Proof.Machine

/-! ### The extent descriptor (R473) -/

structure ExtD where
  id : Nat
  td : Nat
  host : Nat
  flash : Nat
  qpq : Nat
  chan : List Nat
  clus : List Nat
  roZero : Bool
  deriving DecidableEq, Repr

def ExtD.ofBytes (bs : List Byte) : ExtD :=
  let w := fun i => le bs (8 * i) 8
  { id := nbits (w 0) 63 52, td := nbits (w 0) 49 44, host := nbits (w 0) 43 34, flash := nbits (w 1) 61 32, qpq := nbits (w 1) 30 16
    chan := bitsSet (fit (slice bs 16 96) 96)
    clus := bitsSet (fit (slice bs 112 24) 24) ++ (bitsSet (fit (slice bs 136 2) 2)).map (192 + ·)
    roZero := nbits (w 0) 51 50 == 0 && nbits (w 0) 33 0 == 0 && nbits (w 1) 63 62 == 0 && nbits (w 1) 31 31 == 0 && nbits (w 1) 15 0 == 0
      && nbits (w 17) 63 16 == 0 && (nats 6).all (fun i => w (18 + i) == 0) }

def ExtState.code : ExtState → Nat | .active => 1 | .draining => 2 | .revoked => 3

/-- The descriptor as EXT_GET returns it; a FREE extent gives its number alone. -/
def extBytes (s : State) (id : Nat) : List Byte :=
  match ext? s id with
  | none => leBytes (id * 2 ^ 52) 8 ++ zeros 184
  | some x =>
    leBytes (id * 2 ^ 52 + x.state.code * 2 ^ 50 + x.td * 2 ^ 44 + x.host * 2 ^ 34 + x.epoch) 8
    ++ leBytes (x.flash * 2 ^ 32 + x.qpq * 2 ^ 16 + x.deadline) 8 ++ bitsBytes x.chan 96 ++ bitsBytes (x.clus.filter (· < 192)) 24
    ++ bitsBytes ((x.clus.filter (192 ≤ ·)).map (· - 192)) 2 ++ zeros 54

/-! ### Checks (R476) -/

/-- Extents that count toward shares and slots. -/
def Ext.counts (x : Ext) : Bool := x.state == .active || x.state == .draining

/-- Flash shares and slots of the other extents that count. -/
def sumOthers (s : State) (id : Nat) (p : Ext → Bool) (f : Ext → Nat) : Nat :=
  s.cmp.exts.foldl (fun n e => if e.1 ≠ id ∧ e.2.counts && p e.2 then n + f e.2 else n) 0

/-- Good channels of the domain's ACTIVE extents, with this extent's as they would stand. -/
def chansAfter (s : State) (id td : Nat) (l : List Nat) : List Nat :=
  ((s.cmp.exts.flatMap (fun e => if e.1 ≠ id ∧ e.2.td = td ∧ e.2.state = .active then e.2.chan else [])) ++ l).filter (fun c => codeChan s c == .good)

/-- Check 9. -/
def tablesFit (s : State) (td : Nat) (after : List Nat) : Bool := after != [] && decide (tableUsed s td ≤ 6 * 2 ^ 20 * after.length)

/-- A sequence that the change of extent `id` leaves alive: on a revocation, one bound to another extent (R480). -/
def survives (revoke : Bool) (id : Nat) (d : SeqD) : Bool := !(revoke && d.ext == id)

/-- Pages of surviving sequences, and shared pages, in some channels. -/
def pagesIn (s : State) (td id : Nat) (revoke : Bool) (cs : List Nat) : Nat :=
  ((domPages s td).filter (fun p => cs.contains (frChan p.leaf.frame) &&
    (p.record.isSome || (match seq? s td p.seqn with | some d => survives revoke id d | none => false)))).length

/-- Pages of a domain in flash, its shared pages among them. -/
def pagesInFlash (s : State) (td : Nat) : Nat :=
  (s.seqs.filter (fun x => x.2.td == td)).foldl (fun n x => n + countTier x.2 .flash) 0
    + ((s.pfx.groups.filter (fun g => g.td == td)).flatMap (fun g => g.recs.filter (fun r => r.2.leaf.tier == .flash))).length

/-- Check 10: room for the pages of removed channels, and a flash share for the pages in flash. -/
def pagesFit (s : State) (td id share : Nat) (revoke : Bool) (after removed : List Nat) : Bool :=
  let busy := (s.mem.frames.filter (fun e => FrameUse.inUse e.2 && after.contains (e.1 / 2560 / 9))).length
  let free := after.foldl (fun n c => n + usableFrames s c) 0 - busy
  let fl := pagesInFlash s td
  decide (pagesIn s td id revoke removed ≤ free + (share - fl) ∧ fl ≤ share)

/-- Queue pairs of a domain that are not FREE, with those of slots that would remain. -/
def slotsFit (s : State) (td slots : Nat) : Bool :=
  decide ((s.net.qps.filter (fun q => q.td == td)).length ≤ slots) || (dom s td).qpTab.isSome

/-- The first check of R476 that fails, or zero. -/
def extSetCheck (s : State) (d : ExtD) : Nat :=
  let old := ext? s d.id
  let others := s.cmp.exts.filter (fun e => e.1 != d.id)
  let hits := fun (x : Ext) => x.chan.any (d.chan.contains ·) || x.clus.any (d.clus.contains ·)
  let share := sumOthers s d.id (fun x => x.td == d.td) (·.flash) + d.flash
  let after := chansAfter s d.id d.td d.chan
  let removed := match old with | some x => x.chan.filter (fun c => !d.chan.contains c) | none => []
  if !d.roZero ∨ 16384 < d.qpq then 1
  else if s.cmp.pendingExt.isSome then 0x44
  else if (match old with | some x => x.state != ExtState.active | none => false) then 0x0D
  else if (match old with | some x => x.td != d.td || x.host != d.host | none => false)
      || others.any (fun e => (e.2.td == d.td && e.2.host == d.host) || (e.2.state == ExtState.active && hits e.2)) then 0x40
  else if d.chan.any (fun c => codeChan s c != Code.good) || d.clus.any (fun k => codeClus s k != Code.good) then 0x41
  else if others.any (fun e => e.2.state != ExtState.active && hits e.2) || d.chan.any (fun c => (ch s c).releasing.isSome)
      || d.clus.any (fun k => (clus s k).leaving || ((clus s k).dirty && (clus s k).ext.isNone)) then 0x42
  else if s.mem.flsCap < sumOthers s d.id (fun _ => true) (·.flash) + d.flash ∨ 16384 < sumOthers s d.id (fun _ => true) (·.qpq) + d.qpq
      ∨ !slotsFit s d.td (sumOthers s d.id (fun x => x.td == d.td) (·.qpq) + d.qpq) then 0x43
  else if !tablesFit s d.td after then 0x08
  else if !pagesFit s d.td d.id share false after removed then 0x07
  else 0

/-! ### Leaving and joining (R175, R176, R478, R480) -/

/-- A channel leaves its extent: it is released. -/
def chanLeaves (td c : Nat) (s : State) : State := updCh c (fun k => { k with releasing := some td }) s
/-- A cluster leaves its domain. -/
def clusLeaves (c : Nat) (s : State) : State := updClus c (fun k => { k with leaving := true, joining := false, ext := none }) s
def clusJoins (e td c : Nat) (s : State) : State := updClus c (fun k => { k with ext := some e, dirty := true, joining := true, td := some td }) s

/-- EXT_SET (R476, R478): checked, and the extent takes its new form. -/
def execExtSet (ch : Nat) (s : State) : Res :=
  .next (runCmd ch 0x0601 (fun c s =>
    let d := ExtD.ofBytes c.body
    match extSetCheck s d with
    | 0 =>
      let old := ext? s d.id
      let c0 := match old with | some x => x.chan | none => []
      let k0 := match old with | some x => x.clus | none => []
      let ep := match old with | some x => x.epoch | none => 0
      let x : Ext := { state := .active, td := d.td, host := d.host, epoch := ep, flash := d.flash, qpq := d.qpq, deadline := 0, tdl := 0, chan := d.chan, clus := d.clus }
      let s := if old.isNone then { s with regs := { s.regs with ctr := rem (rem s.regs.ctr (ctrExt d.id 0)) (ctrExt d.id 1) } } else s
      let s := setExt d.id x s
      let s := (c0.filter (fun c => !d.chan.contains c)).foldl (fun s c => chanLeaves d.td c s) s
      let s := (k0.filter (fun k => !d.clus.contains k)).foldl (fun s k => clusLeaves k s) s
      let s := (d.clus.filter (fun k => !k0.contains k)).foldl (fun s k => clusJoins d.id d.td k s) s
      let s := { s with floor := { s.floor with
        spareCh := d.chan.foldl clearSpare s.floor.spareCh, spareCl := d.clus.foldl clearSpare s.floor.spareCl } }
      let s := if c0 = d.chan then s else listChanged d.td s
      keepRunning c.id { s with cmp := { s.cmp with pendingExt := some (d.id, c.id, false) } }
    | st => finishErr c.id st s) s)

/-- The composition epoch is incremented (R479, R484). -/
def bumpEpoch (s : State) : State :=
  let e := (s.cmp.epoch.toNat + 1) % 2 ^ 32
  let keep := (put s.cmp.tchange e s.now).filter (fun x => decide ((e + 2 ^ 32 - x.1) % 2 ^ 32 < 64))
  bump (ctrNode 0x70) { s with cmp := { s.cmp with epoch := BitVec.ofNat 32 e, tchange := keep } }

/-- A composition change takes effect: epoch, response, and substitutions that waited for it (R478, R611). -/
def changeDone (e cid : Nat) (s : State) : State :=
  let s := bumpEpoch s
  let s := updExt e (fun x => { x with epoch := s.cmp.epoch.toNat }) s
  let s := finishOk cid (leBytes s.cmp.epoch.toNat 4) s
  let w := s.cmp.substWait
  let s := { s with cmp := { s.cmp with pendingExt := none, substWait := [] } }
  w.foldl (fun s x => substitute x.1 x.2.1 x.2.2 s) s

/-- No cluster still has work to hand over. -/
def handedOver (s : State) : Bool := s.att.clus.all (fun k => !k.2.leaving)

/-- EXT_SET_COMPLETE (R478): added clusters have joined and contexts are within the quota. -/
def execExtSetComplete (ext : Nat) (s : State) : Res :=
  match s.cmp.pendingExt, ext? s ext with
  | some (e, cid, false), some x =>
    if e ≠ ext ∨ !handedOver s ∨ x.clus.any (fun k => codeClus s k == .good && ((clus s k).dirty || (clus s k).joining)) then .next s
    else
      let s := spillToSlots x.td s
      .next (if slotsOf s x.td < onNode s x.td then s else changeDone e cid s)
  | _, _ => .next s

-- DEDUCED, unsafe, log entry 97.
/-- EXT_GET (R473, R541): a virtual function sees its own domain's extents. -/
def execExtGet (ch : Nat) (s : State) : Res :=
  .next (runCmd ch 0x0602 (fun c s =>
    let id := le c.body 0 2
    let foreign := match ext? s id with | some x => decide (8 ≤ ch ∧ ch < 72) && x.td != c.td | none => false
    if 4095 < id then finishErr c.id 1 s
    else if foreign then finishErr c.id 3 s else finishOk c.id (extBytes s id) s) s)

/-- A sample that the revocation of an extent affects (R226): of its sequences, its channels or its clusters. -/
def inExtent (s : State) (id : Nat) (e : Ext) (x : Sample) : Bool :=
  x.td == e.td && ((match seq? s x.td x.req.seqn with | some d => d.ext == id | none => false)
    || (match x.frame with | some f => e.chan.contains (frChan f) | none => false)
    || (match x.cluster with | some c => e.clus.contains c | none => false))

-- DEDUCED, unsafe, log entry 96.
/-- EXT_REVOKE (R486, R487): check 1 of R476, the deadline, checks 3, 9 and 10, then by the extent's state. While the extent drains its FLASH counts
toward the domain's share (R474). -/
def execExtRevoke (ch : Nat) (s : State) : Res :=
  .next (runCmd ch 0x0603 (fun c s =>
    let id := le c.body 0 2
    let dl := le c.body 2 2
    if dl = 0 ∨ 4095 < id then finishErr c.id 1 s
    else if s.cmp.pendingExt.isSome then finishErr c.id 0x44 s
    else match ext? s id with
      | none => finishErr c.id 3 s
      | some x =>
        let ok := leBytes s.cmp.epoch.toNat 4
        let after := chansAfter s id x.td []
        if !tablesFit s x.td after then finishErr c.id 0x08 s
        else if !pagesFit s x.td id (flashShare s x.td) true after x.chan then finishErr c.id 0x07 s
        else match x.state with
        | .revoked => finishOk c.id ok s
        | .draining =>
          let t := s.now + dl * 1000000
          finishOk c.id ok (if t < x.tdl then updExt id (fun x => { x with deadline := dl, tdl := t }) s else s)
        | .active =>
          let s := updExt id (fun x => { x with state := .draining, deadline := dl, tdl := s.now + dl * 1000000 }) s
          let s := x.chan.foldl (fun s c => chanLeaves x.td c s) s
          let s := x.clus.foldl (fun s k => clusLeaves k s) s
          let s := closeIf (inExtent s id x) s
          keepRunning c.id { listChanged x.td s with cmp := { s.cmp with pendingExt := some (id, c.id, true) } }) s)

/-- REVOKE_EPOCH_INCREMENT (R486): the clusters have handed over; the revocation takes effect. -/
def execRevokeEpochIncrement (ext : Nat) (s : State) : Res :=
  match s.cmp.pendingExt with
  | some (e, cid, true) => .next (if e = ext ∧ handedOver s = true then changeDone e cid s else s)
  | _ => .next s

/-! ### The deadline (R486) -/

/-- A running request is aborted: a header-only reply with EXTENT_REVOKED and APPLIED (R102). -/
def abortRequest (r : Req) (s : State) : State :=
  let key := match seq? s r.td r.seqn with | some d => rkeyOf d | none => 0
  let rep := { Reply.refusal 0x0D r.len key 0 with applied := true, pfirst := 0xFFFFFFFF, tcheck := r.tcheck, zephyr := r.zephyr, oexp := fmtVbias (dom s r.td).fmt }
  settleWork (dropReq r.id (sendReply r.dest rep s))

/-- A publication that runs on a sequence ends with ABORTED and its results so far (R363). -/
def abortPublications (td seqn : Nat) (s : State) : State :=
  (s.mbx.cmds.filter (fun c => c.stage == .running && c.code == 0x0402 && (cmdObjs c).contains (1, seqKey td seqn))).foldl (fun s c =>
    let s := match c.obj, c.todo with
      | k + 1, i :: _ => publishUndo td k (keyAt c.body 32 i) s
      | _, _ => s
    finish c.id 0x0062 false (leBytes (c.part.length / 8) 1 ++ zeros 15 ++ c.part) s) s

/-- A sequence of the extent goes at the deadline (R486, R496). -/
def revokeSeq (d : SeqD) (s : State) : State :=
  let s := releaseHeld d.td d.seqn s
  let s := abortPublications d.td d.seqn s
  let s := if d.state = .migrating then sendAbort d s else s
  match seq? s d.td d.seqn with
  | some d => (releaseSeq d s).2
  | none => s

/-- REVOKE_DEADLINE (R486): requests, migrations and exports are aborted, sequences released, queue pairs of the host in ERROR,
contexts beyond the domain's slots written to its table (R408). -/
def execRevokeDeadline (ext : Nat) (s : State) : Res :=
  match ext? s ext with
  | none => .next s
  | some x =>
    if x.state ≠ .draining ∨ s.now < x.tdl then .next s
    else
      let mine := fun (td seqn : Nat) => match seq? s td seqn with | some d => d.ext == ext | none => false
      let s' := (s.att.reqs.filter (fun r => mine r.td r.seqn)).foldl (fun s r => abortRequest r s) s
      let s' := ((s.seqs.map (·.2)).filter (fun d => d.ext == ext)).foldl (fun s d => revokeSeq d s) s'
      let s' := (s'.net.qps.filter (fun q => q.td == x.td && hostOf s' q.peer == x.host)).foldl (fun s q => qpError q.qpn 3 s) s'
      .next (spillToSlots x.td (updExt ext (fun x => { x with state := .revoked, deadline := 0 }) s'))

/-! ### Evacuation, zero-fill, release (R480 to R482) -/

/-- The page of a move: a sequence's, or for sequence number 0x40000 the shared page of a record. -/
def evacLoc (s : State) (td seqn page : Nat) : Option PageLoc := (domPages s td).find? (fun p => p.seqn == seqn && p.pix == page)

-- DEDUCED, unsafe, log entry 98.
/-- EVACUATION_MOVE (R480, R481): a page of a surviving sequence starts its move out of a channel being released, after forced demotion where the
pool has no frame for it (R273, R318): that may take the page itself to flash. -/
def execEvacuationMove (td seqn page : Nat) (s : State) : Res :=
  match evacLoc s td seqn page with
  | none => .next s
  | some p =>
    let stays := match p.record with
      | some _ => true
      | none => (match (seq? s td seqn).bind (fun d => ext? s d.ext) with | some x => x.state == .active | none => false)
    if (ch s (frChan p.leaf.frame)).releasing ≠ some td ∨ !stays ∨ locMoving s td p then .next s
    else
      let s := forceRoom td (p.seqn % 0x40000) (p.pix % 2 ^ 24) s
      match evacLoc s td seqn page, placeLoc s td p none with
      | some p, some f => .next (if locMoving s td p then s else startMove td p f false s)
      | _, _ => .next s

/-- Channels whose frames a change of leaf entry holds. -/
def chgChans (c : Chg) : List Nat := c.frames.map frChan

/-- Tables that the channel holds move to another channel of the domain's current list (R480). -/
def moveTables (td c : Nat) (s : State) : State :=
  let l := (placeChans s td).filter (· != c)
  let (v, s) := takeFree s
  match l[v.toNat % l.length]? with
  | some k => ((s.seqs.map (·.2)).filter (fun d => d.td == td && d.tchan == c)).foldl (fun s d => wcSync td d.seqn (setSeq (renumber k d) s)) s
  | none => s

/-- CHANNEL_ZERO_FILL (R480, R482): nothing of a surviving sequence is left; the channel is filled with zeros. -/
def execChannelZeroFill (c : Nat) (s : State) : Res :=
  match (ch s c).releasing with
  | none => .next s
  | some td =>
    let held := (domPages s td).any (fun p => frChan p.leaf.frame == c) || s.mem.chgs.any (fun g => (chgChans g).contains c)
    let draining := s.cmp.exts.any (fun e => e.2.state == .draining && e.2.chan.contains c)
    if held ∨ draining then .next s
    else
      let s := moveTables td c s
      let lo := 9 * c * 2560 * 69632
      let hi := 9 * (c + 1) * 2560 * 69632
      let s := dropZero (fun f => frChan f == c) (dropWriteback lo hi s)
      .next (tcTrim td <| updCh c (fun k => { k with releasing := none }) { s with mem := { s.mem with
        dram := clrBytes s.mem.dram lo hi
        chk := clrBytes s.mem.chk (lo / 8) (hi / 8)
        frames := s.mem.frames.filter (fun e => e.1 / 2560 / 9 != c || e.2 == .retired)
        decoded := s.mem.decoded.filter (fun e => e.1 / 2560 / 9 != c) } })

/-- EXTENT_RELEASE_COMPLETE (R486, R487): every channel and cluster of a REVOKED extent is released; the extent is FREE. -/
def execExtentReleaseComplete (ext : Nat) (s : State) : Res :=
  match ext? s ext with
  | none => .next s
  | some x =>
    let busy := x.chan.any (fun c => (ch s c).releasing.isSome) || x.clus.any (fun k => (clus s k).leaving || (clus s k).dirty)
      || (match s.cmp.pendingExt with | some (e, _, _) => e == ext | none => false)
    .next (if x.state = .revoked ∧ busy = false then { s with cmp := { s.cmp with exts := rem s.cmp.exts ext } } else s)

end Sys2Proof.Machine
end

