-- ==== Sys2Proof/Machine/Migrate.lean ====
section
/-! DEFINITION. Sequence migration (R488 to R496): what each OWNER message does, HANDOFF, the timers, RESOLVE; export and import of
checkpoints (R497 to R501). -/

namespace Sys2Proof.Machine

/-! ### Manifests (R490) -/

/-- The format record as bytes (R242, R489). -/
def fmtBytes (s : State) (td : Nat) : List Byte := (dom s td).fmt.flatMap (fun w => leBytes w.toNat 8)

/-- Token pages that a manifest covers: one past the largest mapped token page. -/
def ntpOf (d : SeqD) : Nat := (mappedPages d).foldl (fun n p => max n (pixT p + 1)) 0

/-- Pages in the order of R490. -/
def pageOrder (d : SeqD) (ntp : Nat) : List Nat :=
  (nats (d.nlayer + 1)).flatMap (fun l => (nats (d.nhead + 1)).flatMap (fun h => (nats ntp).map (pageIx l h)))

/-- Class of a page (R490): 0 no data, 1 DRAM, 2 flash, 3 poisoned. A page that fails the tenant check cannot be read. -/
def pageClass (s : State) (d : SeqD) (pix : Nat) : Nat :=
  match walk s d pix with
  | .page _ e => if e.psn then 3 else match e.tier with
    | .dram => 1
    | .flash => 2
    | _ => 0
  | .tcheck _ => 3
  | _ => 0

/-- Four 2-bit classes to a byte. -/
def pack2 : List Nat → List Byte
  | [] => []
  | [a] => [BitVec.ofNat 8 a]
  | [a, b] => [BitVec.ofNat 8 (a + 4 * b)]
  | [a, b, c] => [BitVec.ofNat 8 (a + 4 * b + 16 * c)]
  | a :: b :: c :: d :: t => BitVec.ofNat 8 (a + 4 * b + 16 * c + 64 * d) :: pack2 t

def class2 (bs : List Byte) (i : Nat) : Nat := byteAt bs (i / 4) / 4 ^ (i % 4) % 4
def bit1 (bs : List Byte) (i : Nat) : Bool := (byteAt bs (i / 8)).testBit (i % 8)

-- DEDUCED, unsafe, log entry 111.
def manifestBytes (s : State) (d : SeqD) : List Byte := pack2 ((pageOrder d (ntpOf d)).map (pageClass s d))

def changeBytes (d : SeqD) : List Byte :=
  let l := pageOrder d (ntpOf d)
  bitsBytes ((l.zipIdx.filter (fun e => d.chgMig.contains e.1)).map (·.2)) ((l.length + 7) / 8)

/-- An OWNER message (R488). -/
structure OwnerM where
  mtype : Nat
  ver : Nat
  st : Nat
  complete : Bool
  lostd : Bool
  mgen : Nat
  status : Nat
  sva : Nat
  node : Nat
  peer : Nat
  host : Nat
  base : Nat
  hend : Nat
  len : Nat
  tfront : Nat
  key : Nat
  pages : Nat
  ntp : Nat
  geomw : Nat
  body : List Byte
  deriving DecidableEq, Repr

def OwnerM.ofBytes (bs : List Byte) : OwnerM :=
  let w := fun i => le bs (8 * i) 8
  { mtype := nbits (w 0) 63 56, ver := nbits (w 0) 55 52, st := nbits (w 0) 51 49, complete := nbits (w 0) 47 47 == 1
    lostd := nbits (w 0) 46 46 == 1, mgen := nbits (w 0) 31 16, status := nbits (w 0) 15 0, sva := w 1, node := nbits (w 2) 63 46
    peer := nbits (w 2) 45 28, host := nbits (w 2) 27 18, base := nbits (w 3) 63 32, hend := nbits (w 3) 31 0, len := nbits (w 4) 63 32
    tfront := nbits (w 4) 31 0, key := nbits (w 5) 63 32, pages := nbits (w 6) 63 32, ntp := nbits (w 6) 31 0, geomw := w 7
    body := bs.drop 64 }

/-! ### Parts of a migration -/

def updMig (td seqn : Nat) (f : Mig → Mig) (s : State) : State := updSeq td seqn (fun d => { d with mig := d.mig.map f }) s

def Mig.fresh (incoming : Bool) (peer qpn now : Nat) (cmd : Option Nat) : Mig :=
  { incoming := incoming, peer := peer, qpn := qpn, thandoff := 0, progress := now, tclaim := none, cmd := cmd, toRead := [], inFlight := [],
    handoffSent := false, manifest := [], handoffHdr := [], host := 0, tfwd := 0 }

/-- The pages and tables of a sequence go; its descriptor stays (R492, R495). -/
def emptySeq (td seqn : Nat) (s : State) : State :=
  match seq? s td seqn with
  | none => s
  | some d =>
    let s := abortExport td seqn s
    let s := abortPublications td seqn s
    let s := endWake td seqn (voidSeq td seqn s)
    let s := settleChgs td seqn (freeAllPages d s)
    let s := tcDrop (fun e => e.td == td && e.seqn == seqn) s
    wcSync td seqn (updSeq td seqn (fun d => { d with l1 := [], l2 := [], leaves := [], chgMig := [], chgExp := [] }) s)

-- DEDUCED, unsafe, log entry 101.
/-- A sequence number becomes FREE with its key unchanged: a destination's copy, or a forward record, goes (R496). -/
def freeSameKey (td seqn : Nat) (s : State) : State :=
  match seq? s td seqn with
  | none => s
  | some d => closeDesc (seqKey td seqn) { kidx := d.kidx, sgen := d.sgen, kbase := d.kbase } (emptySeq td seqn s)

/-- The running SEQ_MIGRATE of a sequence is answered. -/
def migrateDone (d : SeqD) (status : Nat) (s : State) : State :=
  match d.mig.bind (·.cmd) with
  | some id => finishErr id status s
  | none => s

/-- The source takes the sequence back: OWN, and requests held in HANDOFF are served (R485, R496). -/
def backToOwn (d : SeqD) (status : Nat) (s : State) : State :=
  let s := updSeq d.td d.seqn (fun d => { d with state := .own, mig := none }) (migrateDone d status s)
  releaseHeld d.td d.seqn s

/-- The node's sender of an OWNER message on queue pair `q` is the sequence's migration peer. -/
def isPeer (d : SeqD) (qpn peer : Nat) : Bool :=
  match d.mig with
  | some m => m.qpn == qpn && m.peer == peer
  | none => false

def destOf (d : SeqD) : Bool := match d.mig with | some m => m.incoming && d.state == .migrating | none => false
def sourceOf (d : SeqD) : Bool := match d.mig with | some m => !m.incoming && d.state == .migrating | none => false

/-! ### The destination (R491 to R493) -/

/-- Issue page-image reads up to 64 in flight. -/
def pumpReads (td seqn : Nat) : Nat → State → State
  | 0, s => s
  | n + 1, s =>
    match seq? s td seqn with
    | none => s
    | some d => match d.mig with
      | none => s
      | some m => match m.toRead, qp? s m.qpn with
        | p :: rest, some q =>
          if 64 ≤ m.inFlight.length ∨ q.state ≠ .ready then s
          else
            let f := { txTo q 0x3 .bulk with addr := svaOf td seqn p, rkey := m.handoffHdr.getD 4 0, alen := 69632 }
            let s := sendMsg m.qpn [f] .other s
            let s := updQp m.qpn (fun q => { q with
              ownReads := q.ownReads ++ [{ psn := 2 ^ 24, td := td, seqn := seqn, page := p, cmd := none, got := [], nak := none }] }) s
            pumpReads td seqn n (updMig td seqn (fun m => { m with toRead := rest, inFlight := m.inFlight ++ [p] }) s)
        | _, _ => s

-- DEDUCED, unsafe, log entry 102.
/-- D adopts what HANDOFF carried and owns the sequence (R492 t4, R493). -/
def adopt (d : SeqD) (m : Mig) (s : State) : State :=
  let g := fun i => m.handoffHdr.getD i 0
  let s := updSeq d.td d.seqn (fun d => { d with
    state := .own, base := g 0, hend := g 1, len := g 2, tfront := g 3, kidx := g 4 / 0x10000, sgen := g 4 % 0x10000, mgen := g 5, ckep := 0
    mig := none }) s
  let s := sendOwner m.qpn d.td d.seqn 0x05 0 m.peer false 0 0 [] s
  bump (ctrTd d.td 0x12C) s

/-- Nothing left to read: COPIED before HANDOFF, adoption after it. -/
def readsDone (td seqn : Nat) (s : State) : State :=
  match seq? s td seqn with
  | none => s
  | some d => match d.mig with
    | none => s
    | some m =>
      if !destOf d ∨ m.toRead ≠ [] ∨ m.inFlight ≠ [] then s
      else if m.handoffSent then adopt d m s
      else sendOwner m.qpn td seqn 0x03 0 m.peer false 0 0 [] s

def pump (td seqn : Nat) (s : State) : State := readsDone td seqn (pumpReads td seqn 64 s)

-- DEDUCED, unsafe, log entry 103.
/-- A zeroed frame with PSN for a poisoned page (R493); answers the status. -/
def poisonedPage (td seqn pix : Nat) (s : State) : Nat × State :=
  match ensureFrame td seqn pix s with
  | (0, s) => (0, updLeafAt td seqn pix (fun l => { l with psn := true }) s)
  | r => r

/-- Demote a page that has just been written, within the domain's share (R493). -/
def toFlash (td seqn pix : Nat) (s : State) : State :=
  if !shareFree s td then s
  else match pickTarget s (storedSize 0 true) with
    | none => s
    | some k => demoteTo (.page td seqn pix) k false s

/-- A page's image of 69,632 B goes into its frame, but for bytes beyond the blocks (R45). The page has none before. -/
def writeImage (td seqn pix : Nat) (img : List Byte) (s : State) : Nat × State :=
  match ensureFrame td seqn pix s with
  | (0, s) => match appendFrame s td seqn pix with
    | some f => (0, { s with mem := (wrPage s.mem f 0 (maskPage (dom s td).geom (dom s td).fmt 0 (fit img 69632))).1 })
    | none => (3, s)
  | r => r

-- DEDUCED, unsafe, log entry 110.
/-- A page-image read has ended at D (R491, R493): its bytes, or the NAK. A page that is refused, or for which no frame can be had, stays among
those in flight: the states of R496 give it no transition, and the migration ends by its timer. -/
def imageArrived (td seqn page : Nat) (img : List Byte) (nak : Option Nat) (s : State) : State :=
  match seq? s td seqn with
  | none => s
  | some d => match d.mig with
    | none => s
    | some m =>
      if !destOf d ∨ !m.inFlight.contains page then s
      else
        let s := updMig td seqn (fun m => { m with progress := s.now }) s
        let arrived := fun s => updMig td seqn (fun m => { m with inFlight := m.inFlight.filter (· != page) }) s
        match nak with
        | some 4 => match poisonedPage td seqn page s with
          | (0, s) => pump td seqn (arrived s)
          | (_, s) => s
        | some _ => s
        | none => match writeImage td seqn page img s with
          | (0, s) => pump td seqn (if lookD 0 m.manifest page = 2 then toFlash td seqn page (arrived s) else arrived s)
          | (_, s) => s

-- DESIGN CHOICE, safe, log entry 100.
/-- Geometries (NLAYER, NHEAD) whose manifest of NTP token pages fills n bytes. -/
def geomsFor (ntp n : Nat) : List (Nat × Nat) :=
  ((nats 256).flatMap (fun l => (nats 64).map (fun h => (l, h)))).filter (fun g => ((g.1 + 1) * (g.2 + 1) * ntp + 3) / 4 == n)

/-- The sequence that an OFFER makes at D: the checks of R492 t1, its extent that of the sender's host (R475). Answers the refusal's status. -/
def offerCheck (qpn : Nat) (q : Qp) (host : Nat) (m : OwnerM) (s : State) : Nat × State :=
  let a := Sva.ofNat m.sva
  let key := seqKey a.td a.seqn
  if a.td ≠ q.td ∨ m.sva % 2 ^ 40 ≠ 0 then (3, s)
  else if m.geomw ≠ (dom s a.td).geom.toNat ∨ m.body.take 64 ≠ fmtBytes s a.td then (2, s)
  else match s.cmp.exts.find? (fun e => e.2.td == a.td && e.2.host == m.host && e.2.state == .active && m.host == host) with
    | none => (3, s)
    | some e =>
      let man := m.body.drop 64
      let gs := geomsFor m.ntp man.length
      let (v, s) := takeFree s
      match gs[v.toNat % gs.length]? with
      | none => (2, s)
      | some g =>
        let mig := { Mig.fresh true (q.peer % 2 ^ 18) qpn s.now none with
          handoffHdr := [m.base, m.hend, m.len, m.tfront, m.key, m.mgen], host := m.host }
        let (t, s) := tableChan s a.td
        let d : SeqD := { SeqD.blank a.td a.seqn e.1 t s.now (freeKey s key) with
          state := .migrating, nlayer := g.1, nhead := g.2, len := m.len, base := m.base, hend := m.hend, tfront := m.tfront }
        let cls := (pageOrder d m.ntp).zipIdx.map (fun x => (x.1, class2 man x.2))
        let need := (cls.filter (fun c => c.2 != 0)).length
        if freeFrames s a.td + (flashShare s a.td - flashUsed s a.td) < need then (7, s)
        else if !descRoom s a.td key then (8, s)
        else
          let man := cls.filter (fun c => c.2 != 0)
          let mig := { mig with manifest := man, toRead := (cls.filter (fun c => c.2 == 1 || c.2 == 2)).map (·.1) }
          let s := placeDesc { d with mig := some mig } s
          (cls.filter (fun c => c.2 == 3)).foldl (fun (r : Nat × State) c => if r.1 = 0 then poisonedPage a.td a.seqn c.1 r.2 else r) (0, s)

/-- An OWNER message discarded and counted (R489, R496). -/
def ignoreOwner (s : State) : State := { s with cmp := { s.cmp with ignored := satAdd32 s.cmp.ignored 1 } }

-- DEDUCED, unsafe, log entry 152.
/-- The sender's host is the extent's (R475); a FREE number has no extent. -/
def ownerHost (s : State) (host td seqn : Nat) : Bool :=
  match (seq? s td seqn).map (·.ext) with
  | none => true
  | some e => match ext? s e with
    | some x => x.host == host
    | none => false

/-- Refuse an OWNER message with RANGE_NOT_HELD (R475): an answer that shows nothing of the sequence. -/
def refuseOwner (qpn : Nat) (q : Qp) (a : Sva) (mtype status : Nat) (s : State) : State :=
  match qp? s qpn with
  | none => s
  | some _ =>
    let bs := ownerHeader (dropSeq a.td a.seqn s) a.td a.seqn mtype status (q.peer % 2 ^ 18) false 0 0
    if q.state ≠ .ready then s else sendMsg qpn [{ txTo q 0x7 .owner with payload := bs }] .other s

/-- OFFER arrives (R492 t1, R496). -/
def onOffer (qpn : Nat) (q : Qp) (host : Nat) (m : OwnerM) (s : State) : State :=
  let a := Sva.ofNat m.sva
  let answer := fun st s => sendOwner qpn a.td a.seqn 0x02 st (q.peer % 2 ^ 18) false 0 0 [] s
  let check := fun s => match offerCheck qpn q host m s with
    | (0, s) => pump a.td a.seqn (answer 0 s)
    | (st, _) => answer st s
  match (if a.td = q.td then seq? s a.td a.seqn else none) with
  | some d =>
    if !ownerHost s host a.td a.seqn then refuseOwner qpn q a 0x02 3 s
    else if d.state ≠ .forwarded then answer 0x45 s
    else check (freeSameKey a.td a.seqn s)
  | none => check s

/-- HANDOFF arrives (R492 t4, R496). -/
def onHandoff (qpn : Nat) (q : Qp) (host : Nat) (m : OwnerM) (s : State) : State :=
  let a := Sva.ofNat m.sva
  let refuse_ := fun s => sendOwner qpn a.td a.seqn 0x06 0 (q.peer % 2 ^ 18) false 0 0 [] s
  match (if a.td = q.td then seq? s a.td a.seqn else none) with
  | none => refuse_ s
  | some d =>
    if !ownerHost s host a.td a.seqn then refuseOwner qpn q a 0x06 3 s
    else if !destOf d ∨ !isPeer d qpn (q.peer % 2 ^ 18) then refuse_ s
    else
      let order := pageOrder d m.ntp
      let bits := m.body.drop ((order.length + 3) / 4)
      let cls := order.zipIdx.map (fun x => (x.1, class2 m.body x.2, bit1 bits x.2))
      let s := updSeq a.td a.seqn (fun d => { d with base := m.base, hend := m.hend, len := m.len, tfront := m.tfront }) s
      let held := fun p => match leafOf d p with | some l => l.tier != .absent | none => false
      let inFlight := match d.mig with | some g => g.inFlight ++ g.toRead | none => []
      let fresh := cls.filter (fun c => c.2.1 != 0 && (c.2.2 || !(held c.1 || inFlight.contains c.1)))
      let gone := (mappedPages d).filter (fun p => held p && (!cls.any (fun c => c.1 == p && c.2.1 != 0) || fresh.any (fun c => c.1 == p)))
      let s := gone.foldl (fun s p => freePage a.td a.seqn p s) s
      let r := (fresh.filter (fun c => c.2.1 == 3)).foldl (fun (r : List Nat × State) c =>
        match poisonedPage a.td a.seqn c.1 r.2 with
        | (0, s) => (r.1, s)
        | (_, s) => (r.1 ++ [c.1], s)) ([], s)
      let s := updMig a.td a.seqn (fun g => { g with
        handoffSent := true, handoffHdr := [m.base, m.hend, m.len, m.tfront, m.key, m.mgen]
        manifest := (cls.filter (fun c => c.2.1 != 0)).map (fun c => (c.1, c.2.1)), inFlight := g.inFlight ++ r.1
        toRead := g.toRead ++ ((fresh.filter (fun c => c.2.1 != 3)).map (·.1)).filter (fun p => !g.toRead.contains p) }) r.2
      pump a.td a.seqn s

/-! ### The source (R492, R496) -/

/-- ACCEPT arrives. -/
def onAccept (d : SeqD) (m : OwnerM) (s : State) : State :=
  if !sourceOf d then ignoreOwner s else if m.status = 0 then s else backToOwn d m.status s

/-- COPIED arrives (R492 t2, t3). -/
def onCopied (d : SeqD) (s : State) : State :=
  if !sourceOf d then ignoreOwner s
  else updMig d.td d.seqn (fun m => { m with thandoff := s.now }) (updSeq d.td d.seqn (fun d => { d with state := .handoff }) s)

/-- TAKEN arrives (R492 t5): held requests redirected, the sequence FORWARDED, its pages freed. -/
def onTaken (d : SeqD) (s : State) : State :=
  if d.state ≠ .handoff then ignoreOwner s
  else
    let s := migrateDone d 0 s
    let s := updSeq d.td d.seqn (fun d => { d with state := .forwarded }) s
    let s := releaseHeld d.td d.seqn s
    let s := emptySeq d.td d.seqn s
    let s := updMig d.td d.seqn (fun m => { m with tfwd := s.now, cmd := none }) s
    bump (ctrTd d.td 0x128) s

/-- ABORT arrives. -/
def onAbort (d : SeqD) (s : State) : State :=
  if destOf d then freeSameKey d.td d.seqn s
  else if sourceOf d ∨ d.state = .handoff then backToOwn d 0x0062 s
  else ignoreOwner s

/-! ### RESOLVE (R494, R495) -/

/-- A CLAIM about a sequence; `shown` false hides a sequence that the requester may not see. -/
def sendClaim (qpn td seqn status peer : Nat) (shown : Bool) (s : State) : State :=
  match qp? s qpn with
  | none => s
  | some q =>
    let bs := ownerHeader (if shown then s else dropSeq td seqn s) td seqn 0x09 status peer false 0 0
    let s := updMig td seqn (fun m => { m with tclaim := some s.now }) s
    if q.state ≠ .ready then s else sendMsg qpn [{ txTo q 0x7 .owner with payload := bs }] .other s

/-- eligible of R494. -/
def eligible (c : OwnerM) : Bool := c.complete && decide (0 < c.pages)

/-- pick of R494: the winner's node ID, or none for lost. -/
def pick (a b : OwnerM) : Option Nat :=
  if !eligible a && !eligible b then none
  else if !eligible b then some a.node
  else if !eligible a then some b.node
  else
    let d := (a.mgen + 2 ^ 16 - b.mgen % 2 ^ 16) % 2 ^ 16
    if d ≠ 0 ∧ d < 2 ^ 15 then some a.node
    else if 2 ^ 15 ≤ d then some b.node
    else if a.st = 1 ∧ b.st ≠ 1 then some a.node
    else if b.st = 1 ∧ a.st ≠ 1 then some b.node
    else some (min a.node b.node)

/-- RESOLVE arrives (R495). -/
def onResolve (qpn : Nat) (q : Qp) (host : Nat) (m : OwnerM) (s : State) : State :=
  let a := Sva.ofNat m.sva
  let ok := decide (a.td = q.td) && ownerHost s host a.td a.seqn
  sendClaim qpn a.td a.seqn (if ok then 0 else 3) m.peer ok s

-- DEDUCED, unsafe, log entry 104.
/-- A forward or LOST record for a number that was FREE: bound to an ACTIVE extent of the sender's host, in a table area with room (R47). -/
def recordFor (host : Nat) (a : Sva) (s : State) : State :=
  match seq? s a.td a.seqn, s.cmp.exts.find? (fun e => e.2.td == a.td && e.2.host == host && e.2.state == .active) with
  | none, some e =>
    let key := seqKey a.td a.seqn
    if !descRoom s a.td key then s
    else
      let (t, s) := tableChan s a.td
      placeDesc { SeqD.blank a.td a.seqn e.1 t s.now (freeKey s key) with state := .lost, root := TabE.zero } s
  | _, _ => s

/-- STATE and MGEN that the node would claim now. -/
def claimNow (s : State) (a : Sva) : Nat × Nat := match seq? s a.td a.seqn with | some d => (d.state.code, d.mgen) | none => (0, 0)

/-- RESOLVE_SET arrives (R495). -/
def onResolveSet (qpn : Nat) (q : Qp) (host : Nat) (m : OwnerM) (s : State) : State :=
  let a := Sva.ofNat m.sva
  let c1 := OwnerM.ofBytes (slice m.body 0 64)
  let c2 := OwnerM.ofBytes (slice m.body 64 64)
  let me := nodeId s
  let own := if c1.node = me then some c1 else if c2.node = me then some c2 else none
  let other := if c1.node = me then c2.node else c1.node
  let want := if m.lostd then none else some m.peer
  if a.td ≠ q.td ∨ !ownerHost s host a.td a.seqn then sendClaim qpn a.td a.seqn 3 m.peer false s
  else if (match own with | some c => decide ((c.st, c.mgen) = claimNow s a) | none => false) && pick c1 c2 == want then
    let s := bump (ctrTd a.td 0x130) s
    match want with
    | some w =>
      if w = me then
        match seq? s a.td a.seqn with
        | some d => updSeq a.td a.seqn (fun d => { d with mgen := (d.mgen + 1) % 2 ^ 16 }) (backToOwn d 0x0062 s)
        | none => s
      else
        let s := recordFor host a s
        match seq? s a.td a.seqn with
        | some d =>
          let s := migrateDone d 0x0062 s
          let s := updSeq a.td a.seqn (fun d => { d with
            state := .forwarded, mig := some { Mig.fresh false w qpn s.now none with tfwd := s.now } }) s
          emptySeq a.td a.seqn (releaseHeld a.td a.seqn s)
        | none => s
    | none =>
      let s := recordFor host a s
      match seq? s a.td a.seqn with
      | some d =>
        let s := migrateDone d 0x0062 s
        let s := updSeq a.td a.seqn (fun d => { d with state := .lost, mig := none }) s
        emptySeq a.td a.seqn (releaseHeld a.td a.seqn s)
      | none => s
  else sendClaim qpn a.td a.seqn 0x0047 other true s

-- DEDUCED, unsafe, log entry 105.
/-- A message that may free pages waits while the sequence's pages are in use (R65, R71, R83): RESOLVE_SET; HANDOFF and ABORT at the
destination; TAKEN in HANDOFF. -/
def ownerWaits (s : State) (bs : List Byte) : Bool :=
  let m := OwnerM.ofBytes bs
  let a := Sva.ofNat m.sva
  match seq? s a.td a.seqn with
  | some d => seqBusy s d && (m.mtype == 0x0A || (destOf d && (m.mtype == 0x04 || m.mtype == 0x06)) || (d.state == .handoff && m.mtype == 0x05))
  | none => false

/-- A whole OWNER message is applied (R489, R496); `host` is its sender's requester host at receipt (R446, R475). Messages in states that ignore
them, those of another sender or host that no answer refuses, and reserved types are discarded and counted. -/
def ownerMessage (qpn host : Nat) (bs : List Byte) (s : State) : State :=
  match qp? s qpn with
  | none => s
  | some q =>
    let m := OwnerM.ofBytes bs
    let a := Sva.ofNat m.sva
    if m.ver ≠ 1 ∨ bs.length < 64 then ignoreOwner s
    else
      let d := if a.td = q.td then seq? s a.td a.seqn else none
      let mine := (match d with | some d => isPeer d qpn (q.peer % 2 ^ 18) | none => false) && ownerHost s host a.td a.seqn
      let s := if mine then updMig a.td a.seqn (fun g => { g with progress := s.now }) s else s
      let fromPeer := fun (f : SeqD → State → State) => match d with | some d => if mine then f d s else ignoreOwner s | none => ignoreOwner s
      match m.mtype with
      | 0x01 => onOffer qpn q host m s
      | 0x02 => fromPeer (fun d s => onAccept d m s)
      | 0x03 => fromPeer onCopied
      | 0x04 => onHandoff qpn q host m s
      | 0x05 => fromPeer onTaken
      | 0x06 => fromPeer onAbort
      | 0x08 => onResolve qpn q host m s
      | 0x0A => onResolveSet qpn q host m s
      | _ => ignoreOwner s

/-! ### Commands and timers -/

-- DEDUCED, unsafe, log entry 106.
/-- SEQ_MIGRATE (R492 t0, R496). -/
def execSeqMigrate (ch : Nat) (s : State) : Res :=
  .next (runCmd ch 0x0604 (fun c s =>
    let dst := le c.body 16 4
    let qpn := le c.body 20 4
    match srefCheck s c false with
    | (0, some d) =>
      if d.state ≠ .own then finishErr c.id 0x47 s
      else match qp? s qpn with
        | none => finishErr c.id 3 s
        | some q =>
          if q.td ≠ d.td ∨ q.peer ≠ dst then finishErr c.id 3 s
          else if (tcheckPage s d (mappedPages d)).isSome then finishErr c.id 3 (reportTcheck d (mappedPages d) s)
          else
            let s := updSeq d.td d.seqn (fun d => { d with
              state := .migrating, mgen := (d.mgen + 1) % 2 ^ 16, chgMig := []
              mig := some (Mig.fresh false (dst % 2 ^ 18) qpn s.now (some c.id)) }) s
            let s := match seq? s d.td d.seqn with
              | some d => sendOwner qpn d.td d.seqn 0x01 0 (dst % 2 ^ 18) false (ntpOf d) (dom s d.td).geom.toNat (fmtBytes s d.td ++ manifestBytes s d) s
              | none => s
            keepRunning c.id s
    | (st, _) => finishErr c.id st s) s)

/-- HANDOFF_SEND (R492 t3): every accepted request of the sequence has completed. A page whose tenant check fails stands in the manifest as
poisoned, and is reported (R54). -/
def execHandoffSend (td seqn : Nat) (s : State) : Res :=
  match seq? s td seqn with
  | none => .next s
  | some d => match d.mig with
    | none => .next s
    | some m =>
      if d.state ≠ .handoff ∨ m.handoffSent = true ∨ busySeq s td seqn = true ∨ openAppends s td seqn ≠ [] then .next s
      else
        let s := sendOwner m.qpn td seqn 0x04 0 m.peer false (ntpOf d) 0 (manifestBytes s d ++ changeBytes d) s
        .next (reportTcheck d (mappedPages d) (updMig td seqn (fun m => { m with handoffSent := true }) s))

def cmpMtime (s : State) : Nat := max 1 (fld s.cmp.ctl 31 16) * 100000000
def cmpFwdhold (s : State) : Nat := max 1 (fld s.cmp.ctl 15 0) * 1000000000

/-- No CLAIM within 100 ms (R495). -/
def claimQuiet (s : State) (m : Mig) : Bool := match m.tclaim with | some t => decide (t + 100000000 ≤ s.now) | none => true

/-- MIGRATION_TIMER (R496). -/
def execMigrationTimer (td seqn : Nat) (s : State) : Res :=
  match seq? s td seqn with
  | none => .next s
  | some d => match d.mig with
    | none => .next s
    | some m =>
      if d.state ≠ .migrating ∨ s.now < m.progress + cmpMtime s ∨ !claimQuiet s m ∨ (m.incoming = true ∧ seqBusy s d = true) then .next s
      else if m.incoming then
        let s := emptySeq td seqn (sendAbort d s)
        .next (updMig td seqn (fun m => { m with tfwd := s.now, incoming := false, toRead := [], inFlight := [] })
          (updSeq td seqn (fun d => { d with state := .forwarded }) s))
      else .next (backToOwn d 0x0062 (sendAbort d s))

/-- FWDHOLD_TIMER (R496): a forward record goes as on release. -/
def execFwdholdTimer (td seqn : Nat) (s : State) : Res :=
  match seq? s td seqn with
  | none => .next s
  | some d => match d.mig with
    | none => .next s
    | some m =>
      .next (if d.state = .forwarded ∧ m.tfwd + cmpFwdhold s ≤ s.now ∧ claimQuiet s m = true then (releaseSeq d s).2 else s)

/-! ### Export (R497 to R500, R566) -/

/-- Header of a record (R498). -/
def recHeader (s : State) (d : SeqD) (rtype cls blen sva newep since xid index : Nat) : List Byte :=
  leBytes (rtype * 2 ^ 56 + 2 ^ 52 + cls * 2 ^ 50 + blen) 8 ++ leBytes sva 8 ++ leBytes (newep * 2 ^ 32 + since) 8 ++ leBytes (xid * 2 ^ 32) 8
  ++ leBytes index 8 ++ leBytes (d.len * 2 ^ 32 + d.tfront) 8 ++ leBytes (d.base * 2 ^ 32 + d.hend) 8 ++ leBytes (dom s d.td).geom.toNat 8

def recIv (xid index : Nat) : BitVec 96 := BitVec.ofNat 96 (xid * 2 ^ 64 + index)

/-- A record with its body encrypted and its tag (R499). -/
def sealRecord (key : BitVec 256) (xid index : Nat) (hdr body : List Byte) : List Byte :=
  let ct := fit (gcmCrypt key (recIv xid index) body) body.length
  hdr ++ ct ++ beBytes (gcmTag key (recIv xid index) hdr ct).toNat 16

-- DEDUCED, unsafe, log entry 108.
/-- What an export reads of a page: class, body, and how the reading went. `bad` are logical flash pages in which it meets an uncorrectable unit. -/
def exportPage (s : State) (d : SeqD) (bad : List Nat) (pix : Nat) : Nat × List Byte × PRead :=
  let none_ : PRead := { bytes := [], corr := [], bad := [] }
  match walk s d pix with
  | .page _ e =>
    if e.psn then (3, [], none_)
    else if e.tier = .flash ∧ (flashGone s e.frame || bad.contains e.frame) = true then (3, [], none_)
    else if e.tier = .dram ∨ e.tier = .flash then
      let (img, r) := pageImage s d.td e
      if r.bad = [] then (1, img, r) else (3, [], r)
    else (0, [], none_)
  | _ => (0, [], none_)

/-- Pages that an export reads, in the order of R490. -/
def exportPages (d : SeqD) (since : Nat) : List Nat :=
  if since = 0 then mappedPages d else (d.chgExp.eraseDups).mergeSort (fun a b => decide (a ≤ b))

/-- The records of an export: bytes, and the pages read with their results. -/
def exportRecords (s : State) (d : SeqD) (bad : List Nat) (key : BitVec 256) (xid newep since : Nat) : List Byte × List (Nat × PRead) :=
  let ps := exportPages d since
  let n := ps.length
  let sva := svaOf d.td d.seqn 0
  let first := sealRecord key xid 0 (recHeader s d 0x58 0 64 sva newep since xid 0) (fmtBytes s d.td)
  let mid := ps.zipIdx.map (fun p =>
    let (c, body, r) := exportPage s d bad p.1
    (p.1, sealRecord key xid (p.2 + 1) (recHeader s d 0x59 c body.length (svaOf d.td d.seqn p.1) newep since xid (p.2 + 1)) body, r))
  let last := sealRecord key xid (n + 1) (recHeader s d 0x5A 0 8 sva newep since xid (n + 1)) (leBytes n 8)
  (first ++ mid.flatMap (fun x => x.2.1) ++ last, mid.map (fun x => (x.1, x.2.2)))

/-- The readings of an export leave their counts, and poison what could not be read. -/
def noteExport (td seqn : Nat) (bad : List Nat) (l : List (Nat × PRead)) (s : State) : State :=
  settleWork (l.foldl (fun s x => match (seq? s td seqn).bind (fun d => effLeaf s d x.1) with
    | some e =>
      if e.psn then s
      else if e.tier = .flash then
        let s := arrayRead e.frame s
        if flashGone s e.frame || bad.contains e.frame then flashPoison td seqn x.1 (recordOf s td seqn x.1) e.frame s else s
      else pageReadDone td seqn x.1 e.frame 0 x.2 s
    | none => s) s)

-- DEDUCED, unsafe, log entry 107.
/-- The queue pair is the domain's, READY. -/
def readyQp (s : State) (td qpn : Nat) : Option Qp :=
  match qp? s qpn with
  | some q => if q.td = td ∧ q.state = .ready then some q else none
  | none => none

/-- SEQ_EXPORT (R298, R497 to R500, R566): `r.badPages` are logical flash pages in which the reading meets an uncorrectable unit. -/
def execSeqExport (r : ChannelRead) (s : State) : Res :=
  .next (runCmd r.ch 0x0605 (fun c s =>
    let since := le c.body 16 4
    let newep := le c.body 20 4
    let speer := le c.body 24 4
    let kind := byteAt c.body 28
    let qpn := le c.body 32 4
    let key := le c.body 36 4
    let addr := le c.body 40 8
    let tlen := le c.body 48 8
    if 1 < kind then finishErr c.id 1 s
    else if kind = 1 ∧ !(decide (8 ≤ r.ch ∧ r.ch < 72)) then finishErr c.id 3 s
    else match srefCheck s c false with
    | (0, some d) =>
      if d.state ≠ .own ∧ !sourceOf d then finishErr c.id 0x47 s
      else if d.exp.isSome then finishErr c.id 0x42 s
      else if since ≠ 0 ∧ since ≠ d.ckep then finishErr c.id 0x46 s
      else match sess? s false d.td speer, readyQp s d.td qpn with
        | none, _ => finishErr c.id 3 s
        | some x, q =>
          if kind = 0 ∧ q.isNone then finishErr c.id 3 s
          else if (tcheckPage s d (exportPages d since)).isSome then finishErr c.id 3 (reportTcheck d (exportPages d since) s)
          else
            let (bs, reads) := exportRecords s d r.badPages x.exportKey x.xid newep since
            if tlen < bs.length then finishErr c.id 0x0B s
            else if kind = 1 ∧ dmaStopped s (chanFn r.ch) = true then finishErr c.id 0x62 s
            else
              let n := reads.length
              let s := updSess false d.td speer (fun x => { x with xid := x.xid + 1 }) s
              let s := noteExport d.td d.seqn r.badPages reads s
              let ps := exportPages d since
              let e : Exp := {
                cmd := c.id, since := since, newep := newep, xid := x.xid, speer := speer, hostDma := kind == 1, qpn := qpn, key := key, addr := addr
                cleared := d.chgExp.filter (ps.contains ·), records := n, bytes := bs.length, written := kind == 1 }
              let s := updSeq d.td d.seqn (fun d => { d with exp := some e, chgExp := d.chgExp.filter (fun p => !ps.contains p) }) s
              let s := bumpBy (ctrTd d.td 0x134) n s
              let s := match kind, q with
                | 0, some q => sendMsg qpn (writeFrames q .bulk addr key bs) (.exportEnd d.td d.seqn) s
                | _, _ => dmaOut (chanFn r.ch) (.dmaWrite (chanFn r.ch) addr bs) s
              keepRunning c.id s
    | (st, _) => finishErr c.id st s) s)

/-- EXPORT_COMPLETE (R500): the end record's write has completed, or the DMA of an export to host memory has ended in an error. -/
def execExportComplete (td : Nat) (end_ : ExportEnd) (s : State) : Res :=
  match seq? s td end_.seqn with
  | none => .next s
  | some d => match d.exp with
    | none => .next s
    | some e =>
      .next (if e.hostDma ∧ end_.ok = false then abortExport td end_.seqn s
        else if e.written then
          finishOk e.cmd (leBytes e.xid 4 ++ leBytes e.records 4 ++ leBytes e.bytes 8)
            (updSeq td end_.seqn (fun d => { d with exp := none, ckep := e.newep }) s)
        else s)

/-! ### Import (R501, R566) -/

/-- Progress of an import, in the command's `todo`: bytes asked for, XID of the start record, next INDEX, CKEP, page records, and the status of one
that has failed and waits to release its sequence. -/
structure Imp where
  off : Nat
  xid : Nat
  index : Nat
  ckep : Nat
  pages : Nat
  failed : Nat
  deriving DecidableEq, Repr

def Imp.ofCmd (c : Cmd) : Imp :=
  { off := c.todo.getD 0 0, xid := c.todo.getD 1 0, index := c.todo.getD 2 0, ckep := c.todo.getD 3 0, pages := c.todo.getD 4 0
    failed := c.todo.getD 5 0 }
def Imp.list (i : Imp) : List Nat := [i.off, i.xid, i.index, i.ckep, i.pages, i.failed]

def impSva (c : Cmd) : Sva := Sva.ofNat (le c.body 0 8)

/-- Length of the record at the front of the buffer, when its header is there. -/
def recLen (bs : List Byte) : Option Nat := if bs.length < 64 then none else some (80 + nbits (le bs 0 8) 31 0)

/-- The record at the front of the buffer is whole. -/
def frontRecord (bs : List Byte) : Option (List Byte) :=
  match recLen bs with
  | some n => if n ≤ bs.length then some (bs.take n) else none
  | none => none

/-- A failed import releases its sequence (R501), once nothing uses the sequence's pages (R65, R71); the response says whether the number was
re-keyed by the creation or the release (R62). -/
def failImport (id status : Nat) (s : State) : State :=
  match cmd? s id with
  | none => s
  | some c => match seq? s (impSva c).td (impSva c).seqn with
    | none => finish id status c.rekeyed [] s
    | some d =>
      if seqBusy s d then updCmd id (fun c => { c with todo := Imp.list { Imp.ofCmd c with failed := status } }) s
      else
        let r := releaseSeq d s
        finish id status (c.rekeyed || r.1) [] r.2

/-- The next piece of the source is asked for: 4,096 B at most, one read at a time. -/
def importRead (id : Nat) (s : State) : State :=
  match cmd? s id with
  | none => s
  | some c =>
    let i := Imp.ofCmd c
    let slen := le c.body 48 8
    let addr := le c.body 40 8 + i.off
    let n := min 4096 (slen - i.off)
    if n = 0 then failImport id 0x46 s
    else
      let s := updCmd id (fun c => { c with todo := Imp.list { i with off := i.off + n } }) s
      if byteAt c.body 28 = 1 then
        let did := s.mbx.nextDma
        dmaOut (chanFn c.ch) (.dmaRead did (chanFn c.ch) addr n) { s with mbx := { s.mbx with dma := s.mbx.dma ++ [(did, .importSource id)], nextDma := did + 1 } }
      else match readyQp s c.td (le c.body 32 4) with
        | none => failImport id 0x46 s
        | some q =>
          let s := sendMsg q.qpn [{ txTo q 0x3 .bulk with addr := addr, rkey := le c.body 36 4, alen := n }] .other s
          let a := impSva c
          updQp q.qpn (fun q => { q with
            ownReads := q.ownReads ++ [{ psn := 2 ^ 24, td := a.td, seqn := a.seqn, page := 0, cmd := some id, got := [], nak := none }] }) s

/-- Bytes of the source arrive: reading goes on until the buffer holds a whole record. -/
def importData (id : Nat) (bs : List Byte) (s : State) : State :=
  match cmd? s id with
  | none => s
  | some c =>
    if (Imp.ofCmd c).failed ≠ 0 then s
    else
    let buf := c.part ++ bs
    let s := updCmd id (fun c => { c with part := buf }) s
    if (frontRecord buf).isSome then s else importRead id s

/-- SEQ_IMPORT (R501, R566): the sequence is created, or found at CKEP, and the source is read. -/
def execSeqImport (ch : Nat) (s : State) : Res :=
  .next (runCmd ch 0x0606 (fun c s =>
    let w := le c.body 0 8
    let a := Sva.ofNat w
    let eid := le c.body 8 2
    let since := le c.body 16 4
    let kind := byteAt c.body 28
    let go := fun s => importRead c.id (updCmd c.id (fun c => { c with stage := .running, todo := [0, 0, 0, 0, 0, 0] }) s)
    if w % 2 ^ 40 ≠ 0 ∨ 1 < kind then finishErr c.id 1 s
    else if a.td ≠ c.td ∨ kind = 1 ∧ !(decide (8 ≤ ch ∧ ch < 72)) then finishErr c.id 3 s
    else match ext? s eid with
      | none => finishErr c.id 3 s
      | some x =>
        if x.td ≠ c.td ∨ (sess? s false c.td (le c.body 24 4)).isNone ∨ kind = 0 ∧ (readyQp s c.td (le c.body 32 4)).isNone then finishErr c.id 3 s
        else if x.state ≠ .active then finishErr c.id 0x0D s
        else match seq? s a.td a.seqn with
          | some d =>
            if since = 0 then finishErr c.id 0x45 s
            else if d.state ≠ .own ∨ d.ckep ≠ since ∨ d.ext ≠ eid then finishErr c.id 0x46 s
            else go s
          | none =>
            if since ≠ 0 then finishErr c.id 3 s
            else
              if !descRoom s a.td (seqKey a.td a.seqn) then finishErr c.id 8 s
              else
                let (d, re, s) := newDesc a.td a.seqn eid s
                let (u, s) := takeFree s
                let d := { d with nlayer := u.toNat % 256, nhead := u.toNat / 256 % 64 }
                go (placeDesc d (updCmd c.id (fun c => { c with rekeyed := re }) s))) s)

/-- A page record is applied; answers whether it could be. Its writes and frees set the page's changed bits (R498). -/
def importPage (td seqn pix cls : Nat) (body : List Byte) (s : State) : Bool × State :=
  let s := updSeq td seqn (fun d => { d with nlayer := max d.nlayer (pixLayer pix), nhead := max d.nhead (pixHead pix) }) s
  let s := freePage td seqn pix (touch td seqn pix s)
  let r := if cls = 1 then writeImage td seqn pix body s else if cls = 3 then poisonedPage td seqn pix s else (0, s)
  (r.1 == 0, r.2)

-- DEDUCED, unsafe, log entry 109.
/-- The next record of an import: checked against what R498, R499 and R501 say, then applied. -/
def importApply (c : Cmd) (bs : List Byte) (s : State) : State :=
  let i := Imp.ofCmd c
  let a := impSva c
  let w := fun k => le bs (8 * k) 8
  let rtype := nbits (w 0) 63 56
  let cls := nbits (w 0) 51 50
  let blen := nbits (w 0) 31 0
  let sv := Sva.ofNat (w 1)
  let xid := nbits (w 3) 63 32
  let index := w 4
  let newep := nbits (w 2) 63 32
  let since := le c.body 16 4
  let fail := failImport c.id 0x46
  match seq? s a.td a.seqn, sess? s false a.td (le c.body 24 4) with
  | none, _ => failImport c.id 0x62 s
  | _, none => fail s
  | some _, some x =>
    let hdr := bs.take 64
    let ct := slice bs 64 blen
    let tagOk := bs.drop (64 + blen) == beBytes (gcmTag x.exportKey (recIv xid index) hdr ct).toNat 16
    let body := fit (gcmCrypt x.exportKey (recIv xid index) ct) blen
    let same := index == i.index && (i.index == 0 || (xid == i.xid && newep == i.ckep)) && nbits (w 2) 31 0 == since
      && sv.td == a.td && sv.seqn == a.seqn && sv.off == 0 && nbits (w 0) 55 52 == 1 && w 7 == (dom s a.td).geom.toNat
    let whole := w 1 % 2 ^ 40 == 0
    let step := fun (i : Imp) (s : State) =>
      let s := updCmd c.id (fun c => { c with part := c.part.drop bs.length, todo := i.list }) s
      if (frontRecord (c.part.drop bs.length)).isSome then s else importRead c.id s
    if !tagOk || !same then fail s
    else if rtype = 0x58 ∧ i.index = 0 ∧ blen = 64 ∧ whole = true ∧ body = fmtBytes s a.td then
      step { i with xid := xid, index := 1, ckep := newep }
        (updSeq a.td a.seqn (fun d => { d with base := nbits (w 6) 63 32, hend := nbits (w 6) 31 0, len := nbits (w 5) 63 32, tfront := nbits (w 5) 31 0 }) s)
    else if rtype = 0x59 ∧ i.index ≠ 0 ∧ (cls = 1 ∧ blen = 69632 ∨ (cls = 0 ∨ cls = 3) ∧ blen = 0) then
      match importPage a.td a.seqn (w 1 / 2 ^ 16 % 2 ^ 24) cls body s with
      | (true, s) => step { i with index := i.index + 1, pages := i.pages + 1 } s
      | (false, s) => fail s
    else if rtype = 0x5A ∧ i.index ≠ 0 ∧ blen = 8 ∧ whole = true ∧ le body 0 8 = i.pages then
      let s := updSeq a.td a.seqn (fun d => { d with ckep := newep, len := nbits (w 5) 63 32, tfront := nbits (w 5) 31 0 }) s
      let key := match seq? s a.td a.seqn with | some d => rkeyOf d | none => 0
      finish c.id 0 c.rekeyed (leBytes key 4 ++ leBytes newep 4) s
    else fail s

/-- A running import whose source, sequence or session has gone. -/
def importDead (s : State) (c : Cmd) : Bool :=
  let a := impSva c
  (seq? s a.td a.seqn).isNone || (sess? s false a.td (le c.body 24 4)).isNone
    || (byteAt c.body 28 == 0 && (match readyQp s c.td (le c.body 32 4) with
        | some q => (frontRecord c.part).isNone && !q.ownReads.any (fun r => r.cmd == some c.id)
        | none => true))

/-- The page of a record is in use: operations of the sequence translated it, its entry is being changed, or appends to it wait (R65, R71). -/
def importWaits (s : State) (c : Cmd) (record : List Byte) : Bool :=
  let a := impSva c
  let pix := le record 8 8 / 2 ^ 16 % 2 ^ 24
  nbits (le record 0 8) 63 56 == 0x59 && (isMoving s a.td a.seqn pix || !(pendingAppends s a.td a.seqn pix).isEmpty
    || (match (seq? s a.td a.seqn).bind (fun d => effLeaf s d pix) with | some l => l.tier == .dram && pageUsers s a.td a.seqn l.frame | none => false))

/-- IMPORT_RECORD (R501): the record at the front of what the channel's import has read. An import whose source has gone fails, and one that has
failed ends when it may release its sequence. -/
def execImportRecord (ch : Nat) (record : List Byte) (s : State) : Res :=
  .next (match s.mbx.cmds.find? (fun c => c.ch == ch && c.code == 0x0606 && c.stage == .running
      && (frontRecord c.part == some record || importDead s c || (Imp.ofCmd c).failed != 0)) with
    | some c =>
      if (Imp.ofCmd c).failed ≠ 0 then failImport c.id (Imp.ofCmd c).failed s
      else if importDead s c then failImport c.id (if (seq? s (impSva c).td (impSva c).seqn).isNone then 0x62 else 0x46) s
      else if importWaits s c record then s
      else importApply c record s
    | none => s)

end Sys2Proof.Machine
end

