-- ==== Sys2Proof/Machine/Transport.lean ====
section
/-! DEFINITION. Frames received (R394, R456 to R458, R404, R412 to R415), selective repeat at both ends (R432 to R438), remote write and read
(R416 to R427, R706 to R708), ordered application (R428, R429), and the commands of the transport. -/

namespace Sys2Proof.Machine

/-! ### Checks on reception (R394 to R399, R540) -/

/-- Fabric management peer of an endpoint: the index of its channel (R540). -/
def fmPeer (s : State) (src : Nat) : Option Nat :=
  if src = 0 then none else (nats 4).find? (fun i => (lookD 0 s.mbx.fmpeer i).toNat % 2 ^ 24 == src)

/-- Check 1: a defined frame whose reserved fields are zero and whose lengths agree. -/
def frameOk (f : Frame) : Bool :=
  f.uver == 1 && decide (1 ≤ f.ftype ∧ f.ftype ≤ 9) && f.rsv1 == 0 && f.rsv2 == 0 && decide (f.plen ≤ 4096) && f.plen + 56 == f.sof
    && f.payload.length == f.plen

/-- Check 3. -/
def mgmtOk (s : State) (f : Frame) : Bool :=
  (if f.mgmt then f.td == 0 && f.ftype == 8 && (fmPeer s f.src).isSome else true) && (if f.ftype = 8 then f.mgmt else true)

/-- Check 5: under the session's key, or for 10 ms under the replaced one (R528). -/
def tagOk (s : State) (x : Sess) (f : Frame) : Bool :=
  frameTag x.frameKey f == f.tag || (match x.old with | some (k, t) => decide (s.now ≤ t) && frameTag k f == f.tag | none => false)

/-- The checks of R394 in order: the frame is handed on, or discarded and counted. -/
def checkFrame (p : Nat) (f : Frame) (s : State) : Bool × State :=
  if !(port s p).carries then (false, s)
  else if !frameOk f then (false, bump (ctrPort p 5) s)
  else if f.dst ≠ nodeId s then (false, bump (ctrPort p 6) s)
  else if !mgmtOk s f then (false, bump (ctrPort p 5) s)
  else match sess? s f.mgmt f.td f.src with
    | none => (false, bump (ctrPort p 7) s)
    | some x =>
      if tagOk s x f then (true, bump (ctrPort p 1) s)
      else (false, if f.mgmt then bump (ctrPort p 8) s else bump (ctrTd f.td 0x100) (bump (ctrPort p 8) s))

/-! ### Policing (R456 to R458, R470) -/

inductive Colour where
  | green | yellow | red
  deriving DecidableEq, Repr

def metered (f : Frame) : Bool := f.ftype == 1 || f.ftype == 2 || f.ftype == 3 || f.ftype == 4 || f.ftype == 7

/-- Rates of SCH_POL[h] in eightieths of a byte per ns, and bucket sizes in eightieths of a byte. -/
def cirOf (w : W64) : Nat := fld w 31 19
def pirOf (w : W64) : Nat := max (fld w 63 51) (cirOf w)
def cbsOf (w : W64) : Nat := max 5 (fld w 15 0) * 81920
def pbsOf (w : W64) : Nat := max 5 (fld w 47 32) * 81920

def polOf (s : State) (h : Nat) : W64 := lookD 0x0000008000000040#64 s.fab.pol h

/-- Buckets of a host now: committed, peak. -/
def bucketsNow (s : State) (h : Nat) : Nat × Nat :=
  let w := polOf s h
  match look s.fab.meter h with
  | none => (cbsOf w, pbsOf w)
  | some (c, p, t) => (min (cbsOf w) (c + cirOf w * (s.now - t)), min (pbsOf w) (p + pirOf w * (s.now - t)))

/-- The two-rate three-colour marker of RFC 2698, colour-blind. -/
def meter (h bytes : Nat) (s : State) : Colour × State :=
  let w := polOf s h
  if cirOf w = 0 then (.green, s)
  else
    let (c, p) := bucketsNow s h
    let n := 80 * bytes
    let set := fun c p => { s with fab := { s.fab with meter := put s.fab.meter h (c, p, s.now) } }
    if p < n then (.red, set c p) else if c < n then (.yellow, set c (p - n)) else (.green, set (c - n) (p - n))

-- DESIGN CHOICE, unsafe, log entry 166.
/-- Policing of a frame that has passed its checks: admitted or dropped. -/
def police (p : Nat) (f : Frame) (s : State) : Bool × State :=
  if !metered f then (true, s)
  else
    let h := hostOf s f.src
    let (c, s) := meter h (64 + f.plen) s
    match c with
    | .green => (true, bump (ctrHost h 0) s)
    | .yellow =>
      let s := bump (ctrHost h 1) { s with fab := { s.fab with lastYellow := put s.fab.lastYellow h s.now } }
      if max (max (gustEgress (port s p)) (gustDomain s f.td)) (gustBudget s h) < fld s.fab.schCtl 11 8 then (true, s)
      else (false, bump (ctrHost h 3) s)
    | .red => (false, bump (ctrHost h 2) { s with fab := { s.fab with lastRed := put s.fab.lastRed h s.now } })

/-! ### Remote access: the checks of R417 -/

/-- Token slots whose bits a byte of the page holds: first and last; none beyond the blocks of its region (R42, R43, R45). -/
def slotsOfByte (g : W64) (o : Nat) : Option (Nat × Nat) :=
  if o < 32768 then
    let b := blkBytes (geomK g)
    let j := o / b / geomW g
    let r := o % b
    let n := fmtBits (geomK g)
    if j < geomT g / 32 then some (32 * j + 8 * r / n, 32 * j + (8 * r + 7) / n) else none
  else
    let t := (o - 32768) / blkBytes (geomV g) / (geomW g / 32)
    if t < geomT g then some (t, t) else none

/-- R418 for bytes [off, off + n). -/
def writableBytes (g : W64) (d : SeqD) (tp off n : Nat) : Bool :=
  (nats n).all (fun i => match slotsOfByte g (off + i) with
    | some (a, b) => decide (max d.len d.base ≤ tp * geomT g + a ∧ tp * geomT g + b < d.hend ∧ tp * geomT g + b < 1024 * geomT g)
    | none => false)

/-- One past the highest position that the bytes hold, those of the codewords left unwritten apart. -/
def topPosition (g : W64) (tp off n : Nat) (unwritten : List Nat) : Nat :=
  (nats n).foldl (fun m i => if unwritten.contains ((off + i) / 32) then m else match slotsOfByte g (off + i) with
    | some (_, b) => max m (tp * geomT g + b + 1)
    | none => m) 0

/-- The page-image read of R491. -/
def isImageRead (f : Frame) : Bool := f.ftype == 3 && f.addr % 2 ^ 16 == 0 && f.alen == 69632

-- DEDUCED, unsafe, log entry 114.
-- DEDUCED, unsafe, log entry 115.
-- DEDUCED, unsafe, log entry 116.
/-- Checks 1 to 5 of R417 (R424 for a read), the host check of R475 on the sender's host at receipt (R446) and the tenant check: NAK code and INFO,
or code zero. A page-image read that R491 does not serve is refused with NAK_RANGE. -/
def accessCheck (s : State) (q : Qp) (host : Nat) (f : Frame) : Nat × Nat :=
  let a := Sva.ofNat f.addr
  let pix := pageIx a.layer a.head a.tpage
  let g := (dom s a.td).geom
  if (if f.ftype = 2 then !q.wr else !q.rd) || a.td != f.td then (nakAccess, 0)
  else match seq? s a.td a.seqn with
    | none => (if isImageRead f then nakRange else nakStale, 0)
    | some d =>
      if isImageRead f then
        if (sourceOf d || d.state == .handoff) && isPeer d q.qpn (q.peer % 2 ^ 18) && rkeyOf d == f.rkey && decide (a.layer ≤ d.nlayer ∧ a.head ≤ d.nhead) then
          (match walk s d pix with | .tcheck _ => (nakAccess, 0) | _ => (0, 0))
        else (nakRange, 0)
      else
        let x := ext? s d.ext
        let n := if f.ftype = 2 then f.plen else f.alen
        if (match x with | some x => x.host != host | none => false) then (nakAccess, 0)
        else if (match x with | some x => x.state != ExtState.active | none => true) then (nakRevoked, s.cmp.epoch.toNat)
        else if d.state == .forwarded || d.state == .handoff || destOf d then (nakRedirect, match d.mig with | some m => m.peer | none => 0)
        else if d.state = .lost ∨ rkeyOf d ≠ f.rkey then (nakStale, 0)
        else if d.nlayer < a.layer ∨ d.nhead < a.head ∨ 65536 < a.off + n ∨ (f.ftype = 3 ∧ n = 0) then (nakRange, 0)
        else if f.ftype = 2 ∧ !writableBytes g d a.tpage a.off n then (nakRange, 0)
        else match walk s d pix with
          | .tcheck _ => (nakAccess, 0)
          | .unmapped => if f.ftype = 3 then (nakRange, 0) else (0, 0)
          | _ => (0, 0)

/-- Answer a frame with a NAK (R423): it counts as received and applied. -/
def nakFrame (q : Qp) (f : Frame) (code info : Nat) (s : State) : State :=
  let s := if code = nakRedirect then bump (ctrTd q.td 0x120) s else s
  let a := Sva.ofNat f.addr
  let s := match seq? s a.td a.seqn with
    | some d => if code = nakAccess ∧ a.td = q.td then rawTcheck s d (pageIx a.layer a.head a.tpage) else s
    | none => s
  sendNak q.qpn f.psn code info s

/-! ### Remote write (R416 to R421) -/

/-- A frame for the page of a write, with the default side block for a page that had none; none while the page is Moving (R72, R80, R83). -/
def writeFrame (td seqn pix : Nat) (s : State) : Nat × Option Nat × State :=
  match seq? s td seqn with
  | none => (3, none, s)
  | some d =>
    let blank := match walk s d pix with
      | .absent | .zero | .unmapped => true
      | _ => false
    match ensureFrame td seqn pix s with
    | (0, s) => match appendFrame s td seqn pix with
      | some f => (0, some f, if blank then { s with mem := (wrPage s.mem f 65536 (defaultSide (dom s td).geom)).1 } else s)
      | none => (0, none, s)
    | (st, s) => (st, none, s)

/-- What a write of n bytes reads of a frame: the codewords that it covers in part (R316). -/
def edgeRead (m : Mem) (f off n : Nat) : PRead :=
  let part := (if off % 32 = 0 then [] else [off / 32]) ++ (if (off + n) % 32 = 0 then [] else [(off + n) / 32])
  part.eraseDups.foldl (fun (a : PRead) i => let y := rdPage m f (32 * i) 32; { a with corr := a.corr ++ y.corr, bad := a.bad ++ y.bad })
    { bytes := [], corr := [], bad := [] }

/-- Write a frame's bytes to its page's frame (R314, R316, R421): those of an uncorrectable codeword stay unwritten. -/
def storeWrite (q : Qp) (f : Frame) (fr : Nat) (s : State) : State :=
  let a := Sva.ofNat f.addr
  let pix := pageIx a.layer a.head a.tpage
  let rd := edgeRead s.mem fr a.off f.plen
  let s := noteRead rd (touch a.td a.seqn pix s)
  let w := wrPage s.mem fr a.off f.payload
  let s := { s with mem := w.1 }
  let lo := pageAddr fr + a.off / 32 * 32
  let s := dropWriteback lo (pageAddr fr + a.off + f.plen) s
  let s := updSeq a.td a.seqn (fun d => { d with tfront := max d.tfront (topPosition (dom s a.td).geom a.tpage a.off f.plen (w.2.map (fun c => (c - pageAddr fr) / 32))) }) s
  match rd.bad with
  | [] => s
  | c :: _ => sendNak q.qpn f.psn nakPoison (c - pageAddr fr - a.off) (poisonPage a.td a.seqn pix 1 fr (c - pageAddr fr) 0 s)

/-- Apply a write whose checks have passed: whether it is held, since its page is Moving or is to be promoted or copied first
(R72, R83), or since its channel retrains (R332). -/
def applyWrite (q : Qp) (f : Frame) (s : State) : Bool × State :=
  let a := Sva.ofNat f.addr
  if f.plen = 0 then (false, s)
  else match writeFrame a.td a.seqn (pageIx a.layer a.head a.tpage) s with
    | (0, some fr, s) => if (ch s (frChan fr)).retraining then (true, s) else (false, storeWrite q f fr s)
    | (0, none, s) => (true, s)
    | (st, _, s) => (false, sendNak q.qpn f.psn (if st = 7 ∨ st = 8 then nakNoframe else if st = 5 then nakRange else nakAccess) 0 s)

/-- The channel of a page's frame retrains: accesses wait (R332). -/
def accessWaits (s : State) (td seqn pix : Nat) : Bool :=
  match (seq? s td seqn).bind (fun d => effLeaf s d pix) with
  | some l => l.tier == .dram && (ch s (frChan l.frame)).retraining
  | none => false

/-- The page of a write is Moving (R72, R83), or its channel retrains (R332). -/
def writeMoving (s : State) (f : Frame) : Bool :=
  let a := Sva.ofNat f.addr
  let pix := pageIx a.layer a.head a.tpage
  f.ftype == 2 && f.plen != 0 && (isMoving s a.td a.seqn pix || accessWaits s a.td a.seqn pix)

/-! ### The receiver (R429, R432, R433) -/

/-- APSN (R432): the oldest PSN received and not applied, or EPSN. -/
def apsnOf (q : Qp) : Nat :=
  q.unapplied.foldl (fun m p => if psnSub p q.apsn < psnSub m q.apsn then p else m) q.epsn

/-- A frame has been applied. -/
def markApplied (qpn psn : Nat) (s : State) : State :=
  updQp qpn (fun q =>
    let q := { q with unapplied := q.unapplied.filter (· != psn), ordered := q.ordered.filter (fun x => x.f.psn != psn) }
    { q with apsn := apsnOf q }) s

/-- Advance EPSN past the PSNs received (R432). -/
def advance : Nat → Qp → Qp
  | 0, q => q
  | n + 1, q =>
    if q.rbits.contains 0 then advance n { q with rbits := (q.rbits.filter (· != 0)).map (· - 1), epsn := psnAdd q.epsn 1 }
    else { q with apsn := apsnOf q }

def isOrdered (f : Frame) : Bool := f.final || f.ftype == 3 || f.ftype == 4 || f.ftype == 7

/-- Bytes of an OWNER message so far, with this frame's. -/
def ownerBytes (q : Qp) (f : Frame) : List (Nat × Byte) :=
  let old := lookD [] q.owner f.msn
  old ++ (f.payload.zipIdx).map (fun b => (old.length + b.2, b.1))

/-- An ordered frame may be applied: every lower PSN of the queue pair has been applied, and nothing holds it. -/
def frameReady (s : State) (q : Qp) (f : Frame) : Bool :=
  let below := fun a b => decide (0 < psnSub b a ∧ psnSub b a < psnHalf)
  (if isOrdered f then below f.psn q.epsn && q.unapplied.all (fun u => !below u f.psn) else true) && !writeMoving s f
    && !(f.ftype == 7 && f.final && ownerWaits s ((ownerBytes q f).map (·.2)))

/-! ### Attention requests by frame (R393, R706) -/

def attBytes (m : AttMsg) : List Byte :=
  let n := m.bytes.foldl (fun n b => max n (b.1 + 1)) 0
  (nats n).map (fun i => lookD 0 m.bytes i)

/-- Keep the bytes of an ATTEND frame; nothing is kept of a message that is to be discarded (R706). -/
def keepAttend (f : Frame) (q : Qp) : Qp :=
  let add := fun (m : AttMsg) => if m.bad then m else { m with bytes := (f.payload.zipIdx).foldl (fun t b => put t (f.addr + b.2) b.1) m.bytes }
  if q.att.any (fun m => m.msn == f.msn) then { q with att := q.att.map (fun m => if m.msn = f.msn then add m else m) }
  else { q with att := q.att ++ [add { msn := f.msn, bytes := [], bad := false, last := none }] }

/-- A frame of the message was refused: nothing of the message is kept. A refused FINAL frame ends it, and what is still to come of it is passed over. -/
def markBad (f : Frame) (q : Qp) : Qp :=
  let last := if f.final then some f.psn else none
  if q.att.any (fun m => m.msn == f.msn) then
    { q with att := q.att.map (fun m => if m.msn = f.msn then { m with bytes := [], bad := true, last := if f.final then last else m.last } else m) }
  else { q with att := q.att ++ [{ msn := f.msn, bytes := [], bad := true, last := last }] }

/-- Messages that ended with a refused FINAL frame are over once every frame below it has been received. -/
def endAttends (q : Qp) : Qp :=
  { q with att := q.att.filter (fun m => match m.last with
    | some p => !decide (0 < psnSub q.epsn p ∧ psnSub q.epsn p < psnHalf)
    | none => true) }

def dropAtt (qpn msn : Nat) (s : State) : State := updQp qpn (fun q => { q with att := q.att.filter (fun m => m.msn != msn) }) s

/-- The checks of R706: the NAK, or zero. -/
def attendCheck (q : Qp) (f : Frame) : Nat := if !q.at_ then nakAccess else if 524288 < f.addr + f.plen then nakRange else 0

/-! ### Remote reads (R424 to R427) -/

/-- The node's own read that the next READ_RESP frame answers (R425): the first not refused. -/
def headRead (q : Qp) : Option OwnRead := q.ownReads.find? (fun r => r.psn != 2 ^ 24 && (r.nak == none || r.nak == some nakPoison))

/-- One of the node's reads is over. -/
def ownReadDone (r : OwnRead) (nak : Option Nat) (s : State) : State :=
  let bs := let n := r.got.foldl (fun n b => max n (b.1 + 1)) 0; (nats n).map (fun i => lookD 0 r.got i)
  match r.cmd with
  | some id => if nak.isSome then failImport id 0x46 s else importData id bs s
  | none => imageArrived r.td r.seqn r.page (fit bs 69632) nak s

-- DEDUCED, unsafe, log entry 113.
/-- A READ_RESP frame is applied; with no read outstanding it is counted (R707). -/
def readRespApply (qpn : Nat) (f : Frame) (s : State) : State :=
  match (qp? s qpn).bind headRead with
  | none => (match qp? s qpn with | some q => bump (ctrTd q.td 0xF4) s | none => s)
  | some r =>
    let r' := { r with got := (f.payload.zipIdx).foldl (fun t b => put t (f.addr + b.2) b.1) r.got }
    if f.final then
      ownReadDone r' r.nak (updQp qpn (fun q => { q with ownReads := q.ownReads.filter (fun x => x.psn != r.psn) }) s)
    else updQp qpn (fun q => { q with ownReads := q.ownReads.map (fun x => if x.psn = r.psn then r' else x) }) s

/-! ### Applying frames -/

-- DESIGN CHOICE, unsafe, log entry 150.
/-- Apply a frame whose turn has come (R429). -/
def applyFrame (x : Rcvd) (q : Qp) (s : State) : State :=
  let f := x.f
  match f.ftype with
  | 1 => match q.att.find? (fun m => m.msn == f.msn) with
    | some m =>
      let s := dropAtt q.qpn f.msn s
      if m.bad then s else submit (attBytes m) (.qp q.qpn f.src) q.td x.host (x.port / 2) s
    | none => s
  | 2 => match accessCheck s q x.host f with
    | (0, _) => (applyWrite q f s).2
    | (c, i) => nakFrame q f c i s
  | 3 => match accessCheck s q x.host f with
    | (0, _) =>
      let a := Sva.ofNat f.addr
      updQp q.qpn (fun q => { q with reads := q.reads ++ [{
        psn := f.psn, msn := f.msn, addr := f.addr, rkey := f.rkey, alen := f.alen, fence := f.fence
        after := if f.fence then openAppends s a.td a.seqn else [], image := isImageRead f }] }) s
    | (c, i) => nakFrame q f c i s
  | 4 => readRespApply q.qpn f s
  | 7 =>
    let bs := ownerBytes q f
    if f.final then ownerMessage q.qpn x.host (bs.map (·.2)) (updQp q.qpn (fun q => { q with owner := rem q.owner f.msn }) s)
    else updQp q.qpn (fun q => { q with owner := put q.owner f.msn bs }) s
  | _ => s

/-- A write whose turn has come must still wait for its page (R72, R83). -/
def writeHeld (x : Rcvd) (q : Qp) (s : State) : Bool := x.f.ftype == 2 && (accessCheck s q x.host x.f).1 == 0 && (applyWrite q x.f s).1

/-- A frame's turn has come: it is applied, or its page's promotion or copy begins. -/
def takeTurn (x : Rcvd) (q : Qp) (s : State) : State :=
  if writeHeld x q s then (applyWrite q x.f s).2 else settleWork (applyFrame x q (markApplied q.qpn x.f.psn s))

/-- Apply a held frame: it leaves the queue, APSN follows, and an ACK goes out when APSN passes a FINAL frame (R432). -/
def applyHeld (x : Rcvd) (q : Qp) (s : State) : State :=
  let s := takeTurn x q s
  if finalDue s q.qpn then sendAck q.qpn s else s

/-- What check_and_apply does with a new frame at once (R417, R706, R707): true when the frame waits for its turn. -/
def onNewFrame (q : Qp) (x : Rcvd) (s : State) : Bool × State :=
  let f := x.f
  match f.ftype with
  | 1 => match attendCheck q f with
    | 0 => (f.final, updQp q.qpn (keepAttend f) s)
    | c => (false, updQp q.qpn (markBad f) (sendNak q.qpn f.psn c 0 s))
  | 2 => match accessCheck s q x.host f with
    | (0, _) => if f.final then (true, s) else applyWrite q f s
    | (c, i) => (false, nakFrame q f c i s)
  | 3 => match accessCheck s q x.host f with
    | (0, _) => (true, s)
    | (c, i) => (false, nakFrame q f c i s)
  | 4 => if (headRead q).isSome then (true, s) else (false, bump (ctrTd q.td 0xF4) s)
  | 7 => (true, s)
  | _ => (false, s)

/-- The receive procedure of R432. A frame whose turn has come at once is applied, but for an attention request, which
ORDERED_FRAME_APPLY accepts. -/
def receive (x : Rcvd) (s : State) : State :=
  let f := x.f
  match qp? s f.qpn with
  | none => s
  | some q =>
    let n := f.qpn
    let d := psnSub f.psn q.epsn
    let note := fun (q : Qp) => { q with echo := f.tstamp, epsnf := f.psn, tlast := s.now }
    if psnHalf ≤ d then sendAck n (bump (ctrTd q.td 0xD0) (updQp n note s))
    else if q.win < d then bump (ctrTd q.td 0xD4) (updQp n (fun q => { q with tlast := s.now }) s)
    else if q.rbits.contains d then sendAck n (bump (ctrTd q.td 0xD0) (updQp n note s))
    else
      let s := updQp n (fun q => { note q with
        rbits := d :: q.rbits, unapplied := f.psn :: q.unapplied, finals := if f.final then f.psn :: q.finals else q.finals }) s
      let (wait, s) := onNewFrame q x s
      let s := if wait then updQp n (fun q => { q with ordered := q.ordered ++ [x] }) s else markApplied n f.psn s
      let s := updQp n (fun q => endAttends (advance 1025 q)) s
      let s := match qp? s n with
        | some q => if wait && f.ftype != 1 && frameReady s q f then takeTurn x q s else s
        | none => s
      if 0 < d ∨ f.final ∨ f.solicit ∨ finalDue s n then sendAck n s else ackSoon n s

/-! ### The sender (R436, R438) -/

-- DEDUCED, unsafe, log entry 118.
/-- Send again a frame not yet acknowledged, unless a NAK has answered it (R423) or the transport has a frame waiting for room (R455). -/
def retransmit (qpn psn : Nat) (s : State) : State :=
  match qp? s qpn with
  | none => s
  | some q => match q.sent.find? (fun x => x.psn == psn) with
    | none => s
    | some x =>
      if x.naked ∨ builderWaits s false q.peer q.pqpn = true then s
      else
      let s := updQp qpn (fun q => { q with tlast := s.now, sent := q.sent.map (fun y => if y.psn = psn then { y with at_ := s.now } else y) }) s
      sendFrame { x.f with retx := true, expedite := false, tstamp := s.now % 2 ^ 32 } (bump (ctrTd q.td 0xD8) s)

/-- Offset from SUNA of the highest PSN reported received. -/
def topMarked (q : Qp) : Nat := (q.sent.filter (·.marked)).foldl (fun m x => max m (psnSub x.psn q.suna)) 0

/-- cc_update of R438. -/
def ccUpdate (s : State) (echo newly : Nat) (q : Qp) : Qp × Bool :=
  let rtt := (s.now + 2 ^ 32 - echo) % 2 ^ 32
  let w := s.net.cc
  let target := max 1 (fld w 31 16) * 100
  if 2000000000 < rtt then (q, true)
  else
    let q := { q with
      rttvar := (3 * q.rttvar + ((Int.ofNat q.srtt - Int.ofNat rtt).natAbs)) / 4
      srtt := (7 * q.srtt + rtt) / 8 }
    let q :=
      if rtt ≤ target then { q with cwnd := q.cwnd + fld w 15 8 * newly * 4096 / q.cwnd }
      else if q.srtt ≤ (s.now + 2 ^ 32 - q.lastdec) % 2 ^ 32 then
        { q with cwnd := q.cwnd - q.cwnd * fld w 7 0 * (rtt - target) / (256 * rtt), lastdec := s.now % 2 ^ 32 }
      else q
    ({ q with cwnd := max (minwin s * 256) (min q.cwnd ((q.win + 1) * 256)) }, false)

/-- A message has completed at the node (R430). -/
def messageDone (m : TxMsg) (s : State) : State :=
  match m.owner, m.nak with
  | .reply rid, none => { s with att := { s.att with replies := rem s.att.replies rid } }
  | .reply rid, some c => replyLost rid c s
  | .exportEnd td seqn, none => updSeq td seqn (fun d => { d with exp := d.exp.map (fun e => { e with written := true }) }) s
  | .exportEnd td seqn, some _ => abortExport td seqn s
  | .other, _ => s

/-- The sender's window after the cumulative and selective marks of an acknowledgement (R436), and how many frames it newly marks. -/
def ackWindow (s : State) (cpsn : Nat) (marks : List Nat) (q0 : Qp) : Qp × Nat :=
  let adv := psnSub cpsn q0.suna
  let moved := decide (0 < adv ∧ adv ≤ psnSub q0.snxt q0.suna)
  let below := fun (x : Sent) => moved && decide (psnSub x.psn q0.suna < adv)
  let newly := (q0.sent.filter (fun x => !x.marked && (below x || marks.contains x.psn))).length
  let q := { q0 with tlast := s.now, sent := (q0.sent.filter (fun x => !below x)).map (fun x => { x with marked := marks.contains x.psn }) }
  (if moved then { q with suna := cpsn, retries := 0, rto := max (rtomin s) (q.srtt + 4 * q.rttvar) } else q, newly)

/-- The unmarked frames that R436 calls lost; one that a NAK has answered is received (R423). -/
def ackLost (s : State) (q : Qp) : List Nat :=
  (q.sent.filter (fun x => !x.marked && !x.naked && decide (psnSub x.psn q.suna + rtxReord s < topMarked q ∧ x.at_ + q.srtt ≤ s.now))).map (·.psn)

/-- The messages whose final frame lies below the applied PSN (R436). -/
def ackDone (apsn : Nat) (q : Qp) : List TxMsg :=
  q.sendq.filter (fun m => match m.finalPsn with
    | some p => decide (0 < psnSub apsn p ∧ psnSub apsn p < psnHalf)
    | none => false)

def withoutMessages (done : List TxMsg) (q : Qp) : Qp :=
  { q with sendq := q.sendq.filter (fun m => !done.any (fun x => x.msn == m.msn)) }

/-- The rate after an acknowledgement that newly marks `newly` frames (R438). -/
def ackRate (f : Frame) (newly : Nat) (s : State) : State :=
  match qp? s f.qpn with
  | none => s
  | some q =>
    let c := ccUpdate s (nbits (le f.payload 8 8) 63 32) newly q
    let s := updQp f.qpn (fun _ => c.1) s
    if c.2 then bump (ctrTd q.td 0xEC) s else s

/-- The acknowledgement `f` on the queue pair `q`: the window, the lost frames sent again, the messages done, the rate (R436, R438). -/
def ackApply (f : Frame) (q : Qp) (s : State) : State :=
  let cpsn := nbits (le f.payload 0 8) 63 40
  let w := ackWindow s cpsn ((bitsSet (fit (slice f.payload 32 128) 128)).map (psnAdd cpsn)) q
  let done := ackDone (nbits (le f.payload 0 8) 39 16) w.1
  let s := updQp f.qpn (fun _ => withoutMessages done w.1) s
  let s := (ackLost s w.1).foldl (fun s p => retransmit f.qpn p s) s
  ackRate f w.2 (done.foldl (fun s m => messageDone m s) s)

/-- on_ack of R436. Contexts that it frees beyond the domain's slots go to the table (R408). -/
def onAck (f : Frame) (s : State) : State :=
  match qp? s f.qpn with
  | none => s
  | some q => spillToSlots q.td (ackApply f q s)

/-- A frame of the message was sent under a PSN: its frames are sent in a row. -/
def TxMsg.sentAs (q : Qp) (m : TxMsg) (psn : Nat) : Bool :=
  match m.firstPsn with
  | some a => decide (psnSub psn a ≤ psnSub (m.finalPsn.getD (psnSub q.snxt 1)) a)
  | none => false

/-- A NAK arrives (R423, R430, R434): the message takes its first code, and the frame is not sent again. -/
def onNak (f : Frame) (s : State) : State :=
  match qp? s f.qpn with
  | none => s
  | some q =>
    let w0 := le f.payload 0 8
    let psn := nbits w0 63 40
    let code := nbits w0 39 32
    let s := bump (ctrTd q.td 0xE8) (updQp f.qpn (fun q => { q with tlast := s.now }) s)
    let s := updQp f.qpn (fun q => { q with
      sent := q.sent.map (fun x => if x.psn = psn then { x with naked := true } else x)
      sendq := q.sendq.map (fun m => if m.sentAs q psn ∧ m.nak = none then { m with nak := some code } else m)
      ownReads := q.ownReads.map (fun r => if r.psn = psn ∧ r.nak = none then { r with nak := some code } else r) }) s
    match q.ownReads.find? (fun r => r.psn == psn) with
    | some r => if code = nakPoison then s
      else ownReadDone r (some code) (updQp f.qpn (fun q => { q with ownReads := q.ownReads.filter (fun x => x.psn != psn) }) s)
    | none => s

/-- Transmit the next frame of the send stream under the next PSN; none while a frame of the transport waits for room on its port (R455). -/
def sendNext (qpn : Nat) (s : State) : Option State :=
  match qp? s qpn with
  | none => none
  | some q =>
    if q.state ≠ .ready ∨ min (q.cwnd / 256) (q.win + 1) ≤ psnSub q.snxt q.suna ∨ builderWaits s false q.peer q.pqpn = true then none
    else match q.sendq.find? (fun m => m.frames != []) with
      | none => none
      | some m => match m.frames with
        | [] => none
        | f :: rest =>
          let f := { f with psn := q.snxt, tstamp := s.now % 2 ^ 32 }
          let reads := if f.ftype = 3 then
              (match q.ownReads.find? (fun r => r.psn == 2 ^ 24) with
               | some _ => (q.ownReads.takeWhile (fun r => r.psn != 2 ^ 24)) ++ ((q.ownReads.dropWhile (fun r => r.psn != 2 ^ 24)).take 1).map (fun r => { r with psn := q.snxt })
                   ++ (q.ownReads.dropWhile (fun r => r.psn != 2 ^ 24)).drop 1
               | none => q.ownReads)
            else q.ownReads
          let s := updQp qpn (fun q => { q with
            snxt := psnAdd q.snxt 1, tlast := s.now, ownReads := reads
            sent := q.sent ++ [{ psn := q.snxt, at_ := s.now, marked := false, naked := false, f := f }]
            sendq := q.sendq.map (fun x => if x.msn = m.msn then { x with frames := rest, firstPsn := some (x.firstPsn.getD f.psn), finalPsn := if rest = [] then some f.psn else none } else x) }) s
          some (sendFrame f s)

def sendLoop (qpn : Nat) : Nat → State → State
  | 0, s => s
  | n + 1, s => match sendNext qpn s with
    | some s => sendLoop qpn n s
    | none => s

/-! ### Contexts off-node (R412 to R415) -/

/-- Start the fetch of a context, when a slot can be had; answers whether one is running. A context whose table is no longer named
cannot be fetched (R415). -/
def startFetch (qpn : Nat) (s : State) : Bool × State :=
  if s.net.fetches.any (fun f => f.qpn == qpn) then (true, s)
  else match qp? s qpn with
    | none => (false, s)
    | some q => match (dom s q.td).qpTab, takeSlot q.td s with
      | some tab, some s =>
        let did := s.mbx.nextDma
        let s := { s with mbx := { s.mbx with nextDma := did + 1 }
                          net := { s.net with fetches := s.net.fetches ++ [{ qpn := qpn, start := s.now, frames := [], late := false }] } }
        (true, dmaOut q.td (.dmaRead did q.td (ctxAddr tab qpn) 384) s)
      | none, _ => (false, qpError qpn 2 s)
      | _, none => (false, s)

/-- Bytes of a waiting frame: its size rounded up to 256 B. -/
def waitBytes (f : Frame) : Nat := (56 + f.plen + 255) / 256 * 256

/-- Miss-buffer bytes of a die that a domain's waiting frames occupy. -/
def missUsed (s : State) (die td : Nat) : Nat :=
  s.net.fetches.foldl (fun n x => x.frames.foldl (fun n y => if y.port / 2 = die ∧ y.f.td = td then n + waitBytes y.f else n) n) 0

/-- Room in the miss buffer (R412): each domain with a READY queue pair is reserved 16 KiB, the rest is shared. -/
def missRoom (s : State) (die td n : Nat) : Bool :=
  let tds := (nats 64).filter (fun t => s.net.qps.any (fun q => q.td == t && q.state == .ready))
  let shared := 2 ^ 21 - 16384 * tds.length
  let used := (nats 64).foldl (fun m t =>
    let u := missUsed s die t + if t = td then n else 0
    m + (u - if tds.contains t then 16384 else 0)) 0
  decide (missUsed s die td + n ≤ 16384) && tds.contains td || decide (used ≤ shared)

/-- A frame whose context is not on-node waits for it, or is dropped: for want of miss-buffer room or of a slot, which RMA_MISSDROP counts (R444), or
because its queue pair has just entered ERROR. -/
def missFrame (r : Rcvd) (s : State) : State :=
  let f := r.f
  let s := bump (ctrTd f.td 0xC0) s
  let room := missRoom s (r.port / 2) f.td (waitBytes f)
  let (run, s) := startFetch f.qpn s
  if run && room then
    { s with net := { s.net with fetches := s.net.fetches.map (fun x =>
      if x.qpn = f.qpn then { x with frames := x.frames ++ [r], start := if x.frames = [] then s.now else x.start, late := false } else x) } }
  else if (qp? s f.qpn).any (fun q => q.state == .error) then s
  else bump (ctrTd f.td 0xC8) s

/-! ### The rows of frames -/

-- DEDUCED, unsafe, log entry 119.
/-- A frame whose context is on-node. -/
def processFrame (x : Rcvd) (s : State) : State :=
  match x.f.ftype with
  | 5 => onAck x.f s
  | 6 => onNak x.f s
  | 9 => s
  | _ => receive x s

/-- A frame that has passed the checks and the meter goes to its queue pair (R404, R406). -/
def toQp (x : Rcvd) (s : State) : State :=
  let f := x.f
  match qp? s f.qpn with
  | none => bump (ctrTd f.td 0xCC) s
  | some q =>
    if q.td ≠ f.td ∨ q.peer ≠ f.src then bump (ctrTd f.td 0xCC) s
    else if q.state = .error then
      (if (match q.lastQperr with | some t => decide (t + 1000000 ≤ s.now) | none => true) then
        sendNak f.qpn f.psn nakQperr 0 (updQp f.qpn (fun q => { q with lastQperr := some s.now }) s) else s)
    else if q.onNode then processFrame x s
    else missFrame x s

/-- A frame as it is received: with the port it came by, and its sender's requester host at this moment (R446). -/
def rcvd (s : State) (p : Nat) (f : Frame) : Rcvd := { port := p, host := hostOf s f.src, f := f }

/-- Reception of a frame that is not a management frame. -/
def frameIn (p : Nat) (f : Frame) (s : State) : State :=
  let (ok, s) := checkFrame p f s
  if !ok || f.mgmt then s
  else
    let (ok, s) := police p f s
    if ok then toQp (rcvd s p f) s else s

/-- A row of one frame type. -/
def frameRow (ftype p : Nat) (f : Frame) (s : State) : State := if f.ftype = ftype then frameIn p f s else s

/-- A row of one OWNER message: its FINAL frame, of the message's MTYPE. -/
def ownerType (s : State) (f : Frame) : Nat :=
  match qp? s f.qpn with
  | some q => match lookD [] q.owner f.msn with
    | [] => byteAt f.payload 7
    | l => byteAt (l.map (·.2)) 7
  | none => byteAt f.payload 7

def ownerRow (mtype p : Nat) (f : Frame) (s : State) : State := if f.ftype = 7 ∧ ownerType s f = mtype then frameIn p f s else s

-- DEDUCED, unsafe, log entry 112.
/-- ATTEND (R393, R432, R706). -/
def execAttend (port : Nat) (f : Frame) (s : State) : Res := .next (frameRow 0x1 port f s)

/-- WRITE (R416 to R421). -/
def execWrite (port : Nat) (f : Frame) (s : State) : Res := .next (frameRow 0x2 port f s)

/-- READ_REQ (R424, R491). -/
def execReadReq (port : Nat) (f : Frame) (s : State) : Res := .next (frameRow 0x3 port f s)

/-- READ_RESP (R425, R491, R501, R707). -/
def execReadResp (port : Nat) (f : Frame) (s : State) : Res := .next (frameRow 0x4 port f s)

/-- ACK (R433, R436, R438). -/
def execAck (port : Nat) (f : Frame) (s : State) : Res := .next (frameRow 0x5 port f s)

/-- NAK (R434). -/
def execNak (port : Nat) (f : Frame) (s : State) : Res := .next (frameRow 0x6 port f s)

/-- OFFER (R492 t1). The first row of a message also takes its pieces that lack FINAL, and messages of reserved types. -/
def execOffer (port : Nat) (f : Frame) (s : State) : Res :=
  .next (if f.ftype = 7 ∧ ¬ (ownerType s f ∈ [2, 3, 4, 5, 6, 8, 10]) then frameIn port f s else s)

/-- ACCEPT (R492, R496). -/
def execAccept (port : Nat) (f : Frame) (s : State) : Res := .next (ownerRow 0x02 port f s)

/-- COPIED (R492 t2). -/
def execCopied (port : Nat) (f : Frame) (s : State) : Res := .next (ownerRow 0x03 port f s)

/-- HANDOFF (R492 t4). -/
def execHandoff (port : Nat) (f : Frame) (s : State) : Res := .next (ownerRow 0x04 port f s)

/-- TAKEN (R492 t5). -/
def execTaken (port : Nat) (f : Frame) (s : State) : Res := .next (ownerRow 0x05 port f s)

/-- ABORT (R496). -/
def execAbort (port : Nat) (f : Frame) (s : State) : Res := .next (ownerRow 0x06 port f s)

/-- RESOLVE (R495). -/
def execResolve (port : Nat) (f : Frame) (s : State) : Res := .next (ownerRow 0x08 port f s)

/-- RESOLVE_SET (R495). -/
def execResolveSet (port : Nat) (f : Frame) (s : State) : Res := .next (ownerRow 0x0A port f s)

/-- UNDEFINED_FRAME_TYPE (R394): header faults are counted in FAB_BADHDR; a MGMT_RSP frame passes, and no queue pair takes it. -/
def execUndefinedFrameType (port : Nat) (f : Frame) (s : State) : Res :=
  .next (if 1 ≤ f.ftype ∧ f.ftype ≤ 8 ∧ frameOk f = true then s else frameIn port f s)

/-- ORDERED_FRAME_APPLY (R429, R72): of the frames that the queue pair holds, the one of lowest PSN whose turn has come. -/
def execOrderedFrameApply (qpn : Nat) (s : State) : Res :=
  match qp? s qpn with
  | none => .next s
  | some q =>
    let ready := q.ordered.filter (fun x => frameReady s q x.f)
    match ready.foldl (fun (o : Option Rcvd) y => match o with
      | none => some y
      | some x => if psnSub y.f.psn q.apsn < psnSub x.f.psn q.apsn then some y else o) none with
    | none => .next s
    | some x => .next (applyHeld x q s)

/-- ACK_TIMER (R435): 1 µs after the first frame not yet acknowledged. -/
def execAckTimer (qpn : Nat) (s : State) : Res :=
  match (qp? s qpn).bind (·.firstUnacked) with
  | some t => .next (if t + 1000 ≤ s.now then sendAck qpn s else s)
  | none => .next s

/-- RETRANSMIT_TIMER (R436). A frame that a NAK has answered is not sent again (R423). -/
def execRetransmitTimer (qpn : Nat) (s : State) : Res :=
  match qp? s qpn with
  | none => .next s
  | some q => match q.sent.find? (fun x => x.psn == q.suna) with
    | none => .next s
    | some x =>
      if q.state ≠ .ready ∨ s.now < x.at_ + q.rto ∨ builderWaits s false q.peer q.pqpn = true then .next s
      else
        let s := bump (ctrTd q.td 0xDC) s
        if q.retries = rtxRetry s then .next (qpError qpn 1 s)
        else
          let top := topMarked q
          let l := (q.sent.filter (fun y => y.psn == q.suna || (!y.marked && decide (psnSub y.psn q.suna < top)))).map (·.psn)
          let s := l.foldl (fun s p => retransmit qpn p s) s
          .next (updQp qpn (fun q => { q with retries := q.retries + 1, rto := min (2 * q.rto) 10000000, cwnd := minwin s * 256 }) s)

/-- SEND_READY (R436): a context that is not on-node is fetched first. -/
def execSendReady (qpn : Nat) (s : State) : Res :=
  match qp? s qpn with
  | none => .next s
  | some q =>
    if q.state ≠ .ready ∨ q.sendq.all (fun m => m.frames == []) = true then .next s
    else if !q.onNode then .next (startFetch qpn s).2
    else .next (sendLoop qpn 1025 s)

-- DEDUCED, unsafe, log entry 167.
/-- CONTEXT_FETCH_COMPLETE (R410, R413, R415): the tag and SPCNT are checked, and the frames that waited are processed in order. -/
def execContextFetchComplete (qpn : Nat) (d : DmaData) (s : State) : Res :=
  match s.net.fetches.find? (fun f => f.qpn == qpn), qp? s qpn with
  | some x, some q =>
    let s := { s with net := { s.net with fetches := s.net.fetches.filter (fun f => f.qpn != qpn) } }
    match dmaGives s q.td d with
    | .failed => .next (qpError qpn 2 s)
    | .bytes bs =>
      let cnt := nbits (le bs 80 8) 63 32
      if bs.length = 384 ∧ cnt = q.expSpcnt ∧ spillTag s.net.spillKey qpn cnt bs = BitVec.ofNat 64 (le bs 72 8) then
        .next (spillToSlots q.td (x.frames.foldl (fun s f => toQp f s) (updQp qpn (ctxLoad bs) s)))
      else .next (qpError qpn (if q.expSpcnt = 2 ^ 64 then 4 else 2) s)
  | _, _ => .next s

-- DEDUCED, unsafe, log entry 120.
/-- CONTEXT_FETCH_BUDGET (R414): the frames that still wait are dropped, and the fetch goes on. -/
def execContextFetchBudget (qpn : Nat) (s : State) : Res :=
  match s.net.fetches.find? (fun f => f.qpn == qpn) with
  | none => .next s
  | some x =>
    if x.late ∨ x.frames = [] ∨ s.now < x.start + 3000 then .next s
    else
      let s := x.frames.foldl (fun s f => bump (ctrTd f.f.td 0xC4) s) s
      .next { s with net := { s.net with fetches := s.net.fetches.map (fun y => if y.qpn = qpn then { y with frames := [], late := true } else y) } }

/-! ### Answering reads (R424 to R426, R448, R491, R708) -/

/-- Response message of bytes: frames of 4,096 B, the first expedited. -/
def respFrames (q : Qp) (bs : List Byte) : List TxFrame :=
  ((chunks 4096 (bs.length / 4096 + 1) bs).zipIdx).map (fun c =>
    { txTo q 0x4 .readResp with addr := 4096 * c.2, payload := c.1, expedite := c.2 == 0 })

/-- Drop the head read. -/
def popRead (qpn : Nat) (s : State) : State := updQp qpn (fun q => { q with reads := q.reads.drop 1 }) s

-- DEDUCED, unsafe, log entry 117.
/-- What a read of a page gives (R46, R83, R98, R426): bytes, whether it is poisoned and at which offset of the page, the codewords met. -/
def readBytes (s : State) (td seqn pix : Nat) (l : Option Leaf) (off n : Nat) : List Byte × Option Nat × PRead :=
  let none_ : PRead := { bytes := [], corr := [], bad := [] }
  match l with
  | none => (zeros n, none, none_)
  | some e =>
    if e.tier = .dram ∧ codeChan s (frChan e.frame) = .good then
      let r := readPage s td seqn pix e.frame
      let here := fun a => decide (pageAddr e.frame + off / 32 * 32 ≤ a ∧ a < pageAddr e.frame + off + n)
      let bad := r.bad.filter here
      (slice r.bytes off n, match bad with | a :: _ => some (a - pageAddr e.frame) | [] => if e.psn then some off else none,
        { bytes := [], corr := r.corr.filter here, bad := bad })
    else (zeros n, if e.psn then some off else none, none_)

-- DEDUCED, safe, log entry 172.
/-- The decoded image of a stored page with zeros in place of its uncorrectable units (R286, R298): which they are is free, one at least. A unit of its
stream holds the sub-streams of 1 KiB of page bytes at CMP 0b00, of 2 KiB at 2:1, of 4 KiB at 4:1. -/
def holedImage (s : State) (p : FPage) (img : List Byte) : List Byte :=
  let n := 64 / 2 ^ p.cmp
  let w := 1024 * 2 ^ p.cmp
  let bad := fun u => u == (Config.freeValue s.free).toNat % unitsIn p || (Config.freeValue (s.free + 1 + u)).toNat % 2 == 1
  (nats n).flatMap (fun u => if bad u then zeros w else slice img (w * u) w)
    ++ (nats 4).flatMap (fun u => if p.side.isSome && bad (n + u) then zeros 1024 else slice img (65536 + 1024 * u) 1024)

/-- A page image's bytes (R298, R491): a flash page is decoded, and zeros stand for each uncorrectable unit, or for all that lies on a target that is
gone. -/
def imageBytes (s : State) (d : SeqD) (pix : Nat) (uncorrectable : Bool) : List Byte :=
  match walk s d pix with
  | .page _ e =>
    if e.tier = .dram then (readBytes s d.td d.seqn pix (some e) 0 69632).1
    else
      let img := (pageImage s d.td e).1
      if e.psn then zeros 69632
      else if flashGone s e.frame then zeros 69632
      else if uncorrectable then (match look s.mem.pages e.frame with | some p => holedImage s p img | none => zeros 69632)
      else img
  | _ => zeros 69632

/-- Answer a page-image read (R54, R298, R491). -/
def imageResponse (q : Qp) (r : RdReq) (d : SeqD) (pix : Nat) (uncorrectable : Bool) (s : State) : State :=
  match walk s d pix with
  | .tcheck t => sendNak q.qpn r.psn nakAccess 0 (tcheckError d pix t 0 s)
  | _ =>
    let bad := match effLeaf s d pix with | some e => if uncorrectable ∧ e.tier = .flash then [e.frame] else [] | none => []
    let (c, _, pr) := exportPage s d bad pix
    let bytes := imageBytes s d pix uncorrectable
    let s := noteExport d.td d.seqn bad [(pix, pr)] { s with free := s.free + 4096 }
    let s := updMig d.td d.seqn (fun m => { m with progress := s.now }) s
    let s := if c = 3 then sendNak q.qpn r.psn nakPoison 0 s else s
    sendMsg q.qpn (respFrames q bytes) .other s

/-- Answer an ordinary read of a page that is not in flash (R46, R83, R426). -/
def readAnswer (q : Qp) (r : RdReq) (d : SeqD) (pix : Nat) (s : State) : State :=
  let a := Sva.ofNat r.addr
  let l := effLeaf s d pix
  let (bs, bad, pr) := readBytes s a.td a.seqn pix l a.off r.alen
  let s := { s with free := s.free + 4096 }
  let s := match l with
    | some e => if e.tier = Tier.dram then settleWork (pageReadDone a.td a.seqn pix e.frame 0 pr s) else s
    | none => s
  let s := heatUp a.td a.seqn pix s
  let s := match bad with | some o => sendNak q.qpn r.psn nakPoison (o - a.off) s | none => s
  sendMsg q.qpn (respFrames q bs) .other s

-- DEDUCED, unsafe, log entry 171.
/-- READ_RESPONSE (R425, R426, R708): the queue pair's next read is translated and answered. A read with FENCE waits for the appends before
it (R153), one whose extent drains for the end of draining (R442), one of a page in flash for its promotion (R275); a page image is decoded without promotion (R491), and `eng.uncorrectable` says
whether a unit of its flash copy is. -/
def execReadResponse (eng : PageReader) (s : State) : Res :=
  match qp? s eng.ix with
  | none => .next s
  | some q => match q.reads with
    | [] => .next s
    | r :: _ =>
      let a := Sva.ofNat r.addr
      let pix := pageIx a.layer a.head a.tpage
      if q.state ≠ .ready ∨ r.after.any ((liveAppends s).contains ·) ∨ accessWaits s a.td a.seqn pix then .next s
      else match seq? s a.td a.seqn with
        | none => .next (sendNak eng.ix r.psn nakStale 0 (popRead eng.ix s))
        | some d =>
          if r.image then
            if !(sourceOf d || d.state == .handoff) || !isPeer d eng.ix (q.peer % 2 ^ 18) || rkeyOf d != r.rkey then .next (sendNak eng.ix r.psn nakRange 0 (popRead eng.ix s))
            else .next (imageResponse q r d pix eng.uncorrectable (popRead eng.ix s))
          else if (match ext? s d.ext with | some x => x.state == ExtState.draining | none => false) then .next s
          else if d.state == .forwarded || d.state == .handoff || destOf d then
            .next (sendNak eng.ix r.psn nakRedirect (match d.mig with | some m => m.peer | none => 0) (bump (ctrTd q.td 0x120) (popRead eng.ix s)))
          else if d.state = .lost ∨ rkeyOf d ≠ r.rkey then .next (sendNak eng.ix r.psn nakStale 0 (popRead eng.ix s))
          else match walk s d pix with
            | .unmapped => .next (sendNak eng.ix r.psn nakRange 0 (popRead eng.ix s))
            | .tcheck t => .next (sendNak eng.ix r.psn nakAccess 0 (tcheckError d pix t 0 (popRead eng.ix s)))
            | w =>
              let flash : Bool := match w with | .page _ e => e.tier == .flash && !e.psn | _ => false
              if flash then .next (startPromotion a.td a.seqn pix s).2
              else .next (readAnswer q r d pix (popRead eng.ix s))

end Sys2Proof.Machine
end

