-- ==== Sys2Proof/Machine/Egress.lean ====
section
/-! DEFINITION. Egress (R447 to R455): the choice of a port's next frame, its transmission, and frames that wait for room. -/

namespace Sys2Proof.Machine

/-! ### The shapers (R453) -/

/-- The class may start a frame. -/
def shaperOk (s : State) (pn c : Nat) : Bool := idleOf s pn c == 0 || decide (0 ≤ lookD 0 (port s pn).credit c)

/-- A frame of a class is sent: its bytes leave the credit. -/
def chargeCredit (pn c n : Nat) (s : State) : State :=
  if c = 0 ∨ idleOf s pn c = 0 then s
  else updPort pn (fun p => { p with credit := putD 0 p.credit c (lookD 0 p.credit c - Int.ofNat (80 * n)) }) s

/-! ### Hierarchical mode (R450) -/

/-- SCH_SUB of a subscriber in force. -/
def subNow (s : State) (h : Nat) : W32 := lookD 0x01080201#32 s.fab.subNow h
def subSet (s : State) (h : Nat) : W32 := lookD 0x01080201#32 s.fab.sub h

/-- A subscriber's round begins: its weights as written take effect (R452). -/
def newRound (h : Nat) (s : State) : State := { s with fab := { s.fab with subNow := putD 0x01080201#32 s.fab.subNow h (subSet s h) } }

def svcWeight (w : W32) (c : Nat) : Nat := max 1 (if c = 0 then fld w 23 16 else if c = 1 then fld w 15 8 else fld w 7 0)

/-- Keys from a cursor on, then the others. -/
def fromCursor (cur : Nat) (l : List Nat) : List Nat := l.filter (cur ≤ ·) ++ l.filter (· < cur)

/-- Subscribers with a frame for the port. -/
def subscribers (p : Port) : List Nat := ((p.queues.filter (fun q => q.2 != [])).map (fun q => q.1 / 4)).eraseDups

/-- Take the first frame of a queue. -/
def popQueue (pn key : Nat) (s : State) : Option (TxFrame × State) :=
  match lookD [] (port s pn).queues key with
  | [] => none
  | f :: rest => some (f, updPort pn (fun p => { p with queues := putD [] p.queues key rest }) s)

/-- One subscriber's turn: the frame of its next service that may send. -/
def serveSub (pn h : Nat) (s : State) : Option (TxFrame × State) × State :=
  let s := if lookD 0 (port s pn).subDef h = 0 then
      let s := newRound h s
      updPort pn (fun p => { p with subDef := put p.subDef h (max 1 (fld (subNow s h) 31 24)) }) s
    else s
  let p := port s pn
  let cs := fromCursor (lookD 0 p.ccur h) [0, 1, 2]
  match cs.find? (fun c => lookD [] p.queues (4 * h + c) != [] && shaperOk s pn (c + 1)) with
  | none => (none, s)
  | some c =>
    let k := 4 * h + c
    let cd := (if lookD 0 p.svcDef k = 0 then svcWeight (subNow s h) c else lookD 0 p.svcDef k) - 1
    let sd := lookD 0 p.subDef h - 1
    let s := updPort pn (fun p => { p with
      svcDef := putD 0 p.svcDef k cd, ccur := if cd = 0 then putD 0 p.ccur h ((c + 1) % 3) else p.ccur
      subDef := putD 0 p.subDef h sd, cursor := if sd = 0 then h + 1 else p.cursor }) s
    (popQueue pn k s, s)

def serveSubs (pn : Nat) : List Nat → State → Option (TxFrame × State) × State
  | [], s => (none, s)
  | h :: t, s =>
    match serveSub pn h s with
    | (some r, s) => (some r, s)
    | (none, s) => serveSubs pn t s

/-! ### Flat-priority mode (R451) -/

def tdwNow (s : State) (n : Nat) : Nat := max 1 (fld (lookD 1#32 s.fab.tdwNow n) 7 0)

/-- A tenant queue's turn in deficit round robin: a new round takes its weight as written, and a queue that empties ends its round. -/
def serveTenant (pn : Nat) (s : State) : Option (TxFrame × State) :=
  let p := port s pn
  match fromCursor p.cursor ((p.queues.filter (fun q => 100 ≤ q.1 && q.2 != [])).map (fun q => q.1 - 100)) with
  | [] => none
  | n :: _ =>
    let fresh := lookD 0 p.tdDef n = 0
    let s := if fresh then { s with fab := { s.fab with tdwNow := putD 1#32 s.fab.tdwNow n (lookD 1#32 s.fab.tdw n) } } else s
    let d := if (lookD [] p.queues (100 + n)).length ≤ 1 then 0 else (if fresh then tdwNow s n else lookD 0 p.tdDef n) - 1
    let s := updPort pn (fun p => { p with tdDef := putD 0 p.tdDef n d, cursor := if d = 0 then n + 1 else n }) s
    popQueue pn (100 + n) s

def nextFlat (pn : Nat) (s : State) : Option (TxFrame × State) :=
  match [1, 2, 3].find? (fun c => lookD [] (port s pn).queues c != [] && shaperOk s pn c) with
  | some c => popQueue pn c s
  | none => serveTenant pn s

/-! ### The next frame -/

/-- next_frame (R450, R451), and the state when the port stays idle. -/
def nextFrame (pn : Nat) (s : State) : Option (TxFrame × State) × State :=
  let p := port s pn
  match p.ackq, p.expedite with
  | f :: rest, _ => (some (f, setPort pn { p with ackq := rest } s), s)
  | [], f :: rest => (some (f, setPort pn { p with expedite := rest } s), s)
  | [], [] =>
    if flatMode s then (nextFlat pn s, s)
    else serveSubs pn (fromCursor p.cursor ((subscribers p).mergeSort (fun a b => decide (a ≤ b)))) s

-- DEDUCED, unsafe, log entry 123.
-- DESIGN CHOICE, unsafe, log entry 132.
/-- EGRESS_NEXT_FRAME (R450, R451, R396, R398): the chosen frame takes its counter and tag and leaves. A frame whose session has gone is
dropped. -/
def execEgressNextFrame (pn : Nat) (s : State) : Res :=
  if !(port s pn).carries ∨ s.err.fatal = true then .next s
  else
    let s := settleCredit pn s
    match nextFrame pn s with
    | (none, s) => .next s
    | (some (f, s), _) =>
      let s := chargeCredit pn (classOf (flatMode s) f) (56 + f.payload.length) s
      match wire f s with
      | none => .next s
      | some (fr, s) => .next (bump (ctrPort pn 0) (emit (.frame pn fr) s))

/-- EGRESS_QUEUE_ROOM (R455): the first waiting frame is built, with the gust level of that moment, and queued. -/
def execEgressQueueRoom (pn : Nat) (s : State) : Res :=
  match (port s pn).waiting with
  | [] => .next s
  | f :: rest =>
    let s := settleCredit pn (updPort pn (fun p => { p with qmax := qmaxOf s.fab.schCtl }) s)
    if (port s pn).qmax ≤ queued (port s pn) then .next s
    else
      let f := { f with gust := gust s pn f.td (hostOf s f.dst) f.mgmt }
      .next (updPort pn (fun p => enqueueOn s f { p with waiting := rest }) s)

end Sys2Proof.Machine
end

