-- ==== Sys2Proof/Machine/Ports.lean ====
section
/-! DEFINITION. Fabric ports (R373 to R391, R400, R401): enabling, training, lane faults, live retraining, identity. -/

namespace Sys2Proof.Machine

/-! ### Words and fields -/

/-- FAB_PSTAT[p] in the physical function's view. -/
def pstatPf (p : Port) : Nat := seqRead p.seq.pf * 0x10000 + pstatFlags p

def nbrKind (p : Port) : Nat := fld p.nbr 57 56
def nbrPort (p : Port) : Nat := fld p.nbr 55 48
def nbrId (p : Port) : Nat := fld p.nbr 23 0

/-- Fabric lane 2p + k is wired (R589). -/
def wired (s : State) (pn k : Nat) : Bool := s.boot.board.flanes.testBit (2 * pn + k)

/-- Set or clear bit l of a 2-bit mask. -/
def setBit2 (m l : Nat) (on : Bool) : Nat :=
  let rest := m - (if m.testBit l then 2 ^ l else 0)
  if on then rest + 2 ^ l else rest

/-- Fabric lane of a logical lane. -/
def fabricLane (p : Port) (pn l : Nat) : Nat := 2 * pn + if p.rev then 1 - l % 2 else l % 2

/-- Logical lanes that carry codewords. -/
def carrying (p : Port) : List Nat :=
  if !p.carries then []
  else [0, 1].filter (fun l => !p.lfen.testBit l && !p.ldead.testBit l && p.outLane != some l && p.peerOut != some l)

/-- Change the lanes that a port carries on: the credits of its shapers are brought up to date at the rate in force until then (R453, R454). -/
def changeLanes (pn : Nat) (f : Port → Port) (s : State) : State := updPort pn (fun p => p.upd f) (settleCredit pn s)

/-! ### The lane stream (R372 to R374) -/

/-- Types of control blocks (R373). -/
def blkIdle : Nat := 0x1E
def blkSof : Nat := 0x2D
def blkTrain : Nat := 0x33
def blkLctl : Nat := 0x4B

/-- A link block (R373): the header bit, then 256 bits, of which the first byte stands highest. -/
def ctrlBlock (bs : List Byte) : BitVec 257 := BitVec.ofNat 257 (2 ^ 256 + (fit bs 32).foldl (fun n b => 256 * n + b.toNat) 0)
def dataBlock (bs : List Byte) : BitVec 257 := BitVec.ofNat 257 ((fit bs 32).foldl (fun n b => 256 * n + b.toNat) 0)

/-- IDLE: its remaining bytes are zero. -/
def idleBlock : BitVec 257 := ctrlBlock [BitVec.ofNat 8 blkIdle]

/-- The bytes of a frame (R392): header, payload, tag. -/
def frameBytes (f : Frame) : List Byte := headerBytes f ++ f.payload ++ beBytes f.tag.toNat 8

/-- The link blocks of a frame: SOF with the length, then data blocks of 32 bytes, the last padded with zeros. -/
def frameBlocks (f : Frame) : List (BitVec 257) :=
  let bs := frameBytes f
  ctrlBlock ([BitVec.ofNat 8 blkSof] ++ leBytes bs.length 2) :: (nats ((bs.length + 31) / 32)).map (fun i => dataBlock (slice bs (32 * i) 32))

/-- The data part of codeword k of a stream of link blocks (R372): 20 blocks, IDLE where the stream has ended. -/
def codeword (blocks : List (BitVec 257)) (k : Nat) : List (BitVec 257) := (nats 20).map (fun i => blocks.getD (20 * k + i) idleBlock)

/-- The logical lane of codeword k of a port's stream (R374). -/
def codewordLane (p : Port) (k : Nat) : Option Nat :=
  match carrying p with
  | [] => none
  | [l] => some l
  | _ => some (k % 2)

/-! ### Control blocks -/

/-- A control block of R375: its type, the sender's logical lane, a command, the sender's identity, and what the port has heard on the lane. -/
def linkBlock (s : State) (pn type lane cmd : Nat) : BitVec 256 :=
  let h := (look (port s pn).heard lane).getD (0, 0)
  BitVec.ofNat 256 (type * 2 ^ 248 + lane * 2 ^ 244 + cmd * 2 ^ 240 + 1 * 2 ^ 238 + nodeId s * 2 ^ 208 + pn * 2 ^ 200 + h.1 * 2 ^ 176 + h.2 * 2 ^ 168
    + 0x5A5A5A5A5A5A5A5A5A5A5A5A5A5A5A5A)

/-- An LCTL block about a lane leaves on a logical lane of the port: command 0 identity, 1 lane out, 2 lane in, 3 acknowledged. -/
def lctl (pn cmd lane : Nat) (s : State) : State := emit (.link pn lane (linkBlock s pn blkLctl lane cmd)) s

-- DESIGN CHOICE, unsafe, log entry 153.
/-- TRAIN blocks on every wired lane (R383): as the port begins to train, and again with what it hears. -/
def sendTrain (pn : Nat) (s : State) : State :=
  ([0, 1].filter (wired s pn)).foldl (fun s k => emit (.link pn k (linkBlock s pn blkTrain k 0)) s) s

-- DESIGN CHOICE, unsafe, log entry 125.
/-- LANE_FAULT of a port (R618). -/
def laneFault (pn l : Nat) (s : State) : State :=
  report { err0 0 0x0004 (pstatPf (port s pn)) with lkind := 6, loc := 16 * pn + fabricLane (port s pn) pn l } s

/-- A fabric lane shorted in service leaves FGOOD (R598, R601). -/
def clearFgood (lane : Nat) (s : State) : State :=
  if s.floor.fgood.testBit lane then fenceCode (fun f => { f with fgood := f.fgood - 2 ^ lane }) s else s

/-- Fence a port (R387, R388). -/
def fencePort (pn fault : Nat) (s : State) : State :=
  laneFault pn 0 (changeLanes pn (fun p => { p with state := .fenced, fault := fault, outLane := none, peerOut := none }) s)

/-- Back to training: no lane is left that carries. -/
def retrainPort (pn fault : Nat) (s : State) : State :=
  sendTrain pn (changeLanes pn (fun p => { p with
    state := .training, fault := fault, outLane := none, peerOut := none, heard := [], retries := 0 }) s)

/-! ### Identity (R375 to R378, R383, R388) -/

-- DEDUCED, unsafe, log entry 129.
/-- FAULT of a received identity: 2 crossover, 1 not the neighbour written, 0 a match. -/
def identityFault (s : State) (pn : Nat) (b : IdBlock) : Nat :=
  let p := port s pn
  if (b.id = nodeId s ∧ b.port = pn) ∨ b.hid ≠ nodeId s ∨ b.hport ≠ pn then 2
  else if b.kind ≠ nbrKind p ∨ b.id ≠ nbrId p ∨ b.port ≠ nbrPort p then 1
  else 0

/-! ### Enabling and disabling -/

/-- Whether setting EN starts training (R382). -/
def trains (s : State) (pn : Nat) : Bool := (wired s pn 0 || wired s pn 1) && nbrKind (port s pn) != 0

/-- EN is set. -/
def enablePort (pn : Nat) (s : State) : State :=
  let s := updPort pn (fun p => { p with pctl := p.pctl ||| 0x80000000#32 }) s
  if (port s pn).state ≠ .disabled then s
  else if !(wired s pn 0 || wired s pn 1) then updPort pn (fun p => p.upd (fun p => { p with fault := 4 })) s
  else if nbrKind (port s pn) = 0 then s
  else sendTrain pn (updPort pn (fun p => { p.upd (fun p => { p with state := .training, fault := 0, ldead := 0 }) with
    credit := [], creditAt := s.now, retries := 0, outLane := none, peerOut := none, heard := [] }) s)

/-- PORT_ENABLE (R382, R385). -/
def execPortEnable (pn : Nat) (s : State) : Res := .next (if s.up && decide (pn < 4) then enablePort pn s else s)

/-- Send what the port holds. -/
def drainPort (pn : Nat) : Nat → State → State
  | 0, s => s
  | n + 1, s => match execEgressNextFrame pn s with
    | .next s => drainPort pn n s
    | _ => s

-- DEDUCED, unsafe, log entry 127.
/-- EN is cleared: the port drains and its lane fences are cleared. -/
def disablePort (pn : Nat) (s : State) : State :=
  let s := updPort pn (fun p => { p with pctl := p.pctl &&& 0x7FFFFFFF#32 }) s
  if (port s pn).state = .disabled then s
  else
    let s := if (port s pn).carries then drainPort pn (queued (port s pn) + (port s pn).ackq.length) s else s
    updPort pn (fun p => { p.upd (fun p => { p with state := .disabled, lfen := 0 }) with
      ackq := [], expedite := [], queues := [], waiting := [], subDef := [], svcDef := [], tdDef := [], credit := [], outLane := none, peerOut := none, heard := [], retries := 0 }) s

/-- PORT_DISABLE (R385, R387). -/
def execPortDisable (pn : Nat) (s : State) : Res := .next (if s.up && decide (pn < 4) then disablePort pn s else s)

/-! ### Training (R383, R384, R388) -/

/-- The lanes have trained (R383, R384, R388): those that lock let the port go on to CHECKING, and a port with none stays in TRAINING. -/
def lanesTrained (pn : Nat) (lanes : List LaneSeen) (s : State) : State :=
    let p := port s pn
    let seen := fun k => lanes.getD k { signal := false, locked := false, inverted := false, llane := k, shorted := false }
    let short := fun k => wired s pn k && (seen k).shorted
    let good := fun k => wired s pn k && (seen k).signal && (seen k).locked && !(seen k).shorted
    let rev := (good 0 && (seen 0).llane == 1) || (good 1 && (seen 1).llane == 0)
    let log := fun (k : Nat) => if rev then 1 - k else k
    let ks := [0, 1]
    let mask := fun (f : Nat → Bool) => ks.foldl (fun n k => if f k then setBit2 n (log k) true else n) 0
    let lfen := ks.foldl (fun n k => if short k then setBit2 n (log k) true else n) p.lfen
    let s := ks.foldl (fun s k => if short k then clearFgood (2 * pn + k) s else s) s
    let ok := ks.filter (fun k => good k && !lfen.testBit (log k))
    let dead := mask (fun k => !good k && !short k)
    let set := fun (st : PortState) (fault : Nat) (p : Port) => { p with
      state := st, rev := rev, pol := mask (fun k => good k && (seen k).inverted), lfen := lfen, ldead := dead, fault := fault }
    if ok = [] then
      laneFault pn 0 (updPort pn (fun p => p.upd (set .training 3)) s)
    else
      let s := updPort pn (fun p => p.upd (set .checking 0)) s
      ks.foldl (fun s k => if ok.contains k then s else laneFault pn (log k) s) s

/-- What the port heard on a lane stands in the blocks that it sends there (R375). -/
def hear (pn : Nat) (b : IdBlock) (s : State) : State := updPort pn (fun p => { p with heard := put p.heard b.lane (b.id, b.port) }) s

/-- The block is the neighbour's, but the neighbour has heard nothing yet: HID and HPORT are zero (R375). -/
def unheard (s : State) (pn : Nat) (b : IdBlock) : Bool :=
  b.hid == 0 && b.hport == 0 && identityFault s pn b != 0 && identityFault s pn { b with hid := nodeId s, hport := pn } == 0

/-- An identity received while the port checks (R383, R385): a match brings the port UP on two lanes, DEGRADED on one; a fault fences it. A neighbour
that has heard nothing yet is sent TRAIN blocks with what this port hears, and the port goes on checking. -/
def checkIdentity (pn : Nat) (b : IdBlock) (s : State) : State :=
  let s := hear pn b s
  if unheard s pn b then sendTrain pn s
  else match identityFault s pn b with
    | 0 => changeLanes pn (fun p => { p with state := if p.ldead = 0 ∧ p.lfen = 0 then .up else .degraded }) s
    | f => fencePort pn f s

-- DEDUCED, unsafe, log entry 126.
/-- PORT_TRAINING_COMPLETE: what the two lanes of the port showed, by physical lane, and the identity received, if one has been: without one the port
rests in CHECKING. -/
def execPortTrainingComplete (pn : Nat) (lanes : List LaneSeen) (b : Option IdBlock) (s : State) : Res :=
  let s := if (port s pn).state = .training then lanesTrained pn lanes s else s
  .next (match b with
    | some b => if (port s pn).state = .checking then checkIdentity pn b s else s
    | none => s)

-- DEDUCED, unsafe, log entry 169.
/-- A lane is fenced (R388): its driver is disabled, and it is dead no more. -/
def fenceLane (pn lane : Nat) (s : State) : State :=
  let s := clearFgood (fabricLane (port s pn) pn lane) s
  changeLanes pn (fun p => { p with lfen := setBit2 p.lfen lane true, ldead := setBit2 p.ldead lane false }) s

/-- LANE_RETRY (R384, R385, R388): a dead lane of a degraded port is tried again from its signal step. A short fences it; one that locks with the
logical lane of its place returns, its polarity corrected; another stays dead. -/
def execLaneRetry (pn lane : Nat) (seen : LaneSeen) (s : State) : Res :=
  let p := port s pn
  .next (if p.state ≠ .degraded ∨ p.ldead.testBit lane = false then s
    else if seen.shorted then laneFault pn lane (fenceLane pn lane s)
    else if seen.signal && seen.locked && seen.llane == lane then
      changeLanes pn (fun p => { p with
        pol := setBit2 p.pol lane seen.inverted, ldead := setBit2 p.ldead lane false
        state := if p.lfen = 0 ∧ setBit2 p.ldead lane false = 0 then .up else .degraded }) s
    else s)

/-! ### Lane faults in service (R385 to R390) -/

/-- Thresholds of a port (R400): uncorrectable codewords, and thousands of corrected symbols, in 1 ms. -/
def ucThr (p : Port) : Nat := max 1 (fld p.pctl 23 16)
def csThr (p : Port) : Nat := max 1 (fld p.pctl 15 8)

/-- What a lane shows degrades it (R386). -/
def degrades (p : Port) : LaneCause → Bool
  | .uncorrectable n => decide (ucThr p ≤ n)
  | .corrected n => decide (csThr p * 1000 < n)
  | _ => true

/-- Codewords and symbols that the port counts (R390, R402). -/
def countLane (pn : Nat) (cause : LaneCause) (s : State) : State :=
  match cause with
  | .lockLost n => bumpBy (ctrPort pn 3) (min 64 n) s
  | .uncorrectable n => bumpBy (ctrPort pn 3) n s
  | .corrected n => bumpBy (ctrPort pn 2) n s
  | .shorted => s

-- DEDUCED, unsafe, log entry 128.
/-- LANE_DEGRADE (R385, R386, R388, R389). A short fences the lane whether it carries or not. -/
def execLaneDegrade (pn lane : Nat) (cause : LaneCause) (s : State) : Res :=
  let p := port s pn
  if p.state = .disabled ∨ p.state = .fenced then .next s
  else if !degrades p cause then .next (countLane pn cause s)
  else
    let s := bump (ctrPort pn 10) (countLane pn cause s)
    let hard := match cause with
      | .lockLost _ | .shorted => true
      | _ => false
    let fence := fun (s : State) => if cause = .shorted then fenceLane pn lane s else s
    let degrade := fun (s : State) => changeLanes pn (fun p => { p with
      state := .degraded, outLane := if p.outLane = some lane then none else p.outLane, peerOut := if p.peerOut = some lane then none else p.peerOut }) s
    if p.state = .training then .next (fence s)
    else if p.state = .checking then .next (retrainPort pn p.fault (fence s))
    else if !(carrying p).contains lane then
      .next (if cause = .shorted ∧ p.lfen.testBit lane = false then laneFault pn lane (degrade (fence s)) else s)
    else if carrying p = [lane] then
      .next (if hard then
        laneFault pn lane (retrainPort pn 3 (fence s)) else s)
    else if p.state ≠ .up then .next s
    else if cause = .shorted then .next (laneFault pn lane (degrade (fence s)))
    else
      let s := bump (ctrPort pn 9) s
      let s := lctl pn 1 1 (lctl pn 1 0 s)
      .next (changeLanes pn (fun p => { p with state := .retraining, outLane := some lane, retries := 0 }) s)

/-- LIVE_RETRAINING_COMPLETE (R385, R389): a lane that locks is offered back; a second failure fences it. -/
def execLiveRetrainingComplete (pn : Nat) (ok : Bool) (s : State) : Res :=
  let p := port s pn
  match p.outLane with
  | none => .next s
  | some l =>
    if p.state ≠ .retraining ∨ 2 ≤ p.retries then .next s
    else if ok then .next (lctl pn 2 l (updPort pn (fun p => { p with retries := 2 }) s))
    else if p.retries = 0 then .next (updPort pn (fun p => { p with retries := 1 }) s)
    else .next (laneFault pn l (changeLanes pn (fun p => { p with
      state := .degraded, lfen := setBit2 p.lfen l true, outLane := none, retries := 0 }) s))

/-! ### Lane control blocks (R375, R376, R389) -/

/-- IDENTITY_SEND (R376): on each transmitting lane. -/
def execIdentitySend (pn : Nat) (s : State) : Res := .next ((carrying (port s pn)).foldl (fun s l => lctl pn 0 l s) s)

-- DEDUCED, unsafe, log entry 151.
/-- LCTL_IDENTITY (R378, R385, R388): a mismatch fences the port, and is counted on a port that is fenced. -/
def execLctlIdentity (pn : Nat) (b : IdBlock) (s : State) : Res :=
  if (port s pn).state = .fenced then
    .next (if identityFault s pn b = 0 then s else updPort pn (fun p => { p with refused := satAdd32 p.refused 1 }) s)
  else if !(port s pn).carries then .next s
  else match identityFault s pn b with
    | 0 => .next (hear pn b s)
    | f => .next (fencePort pn f s)

-- DESIGN CHOICE, unsafe, log entry 165.
/-- LCTL_LANE_OUT (R389): the neighbour takes a lane out of the stripe. -/
def execLctlLaneOut (pn lane : Nat) (s : State) : Res :=
  .next (if (port s pn).carries ∧ lane < 2 then changeLanes pn (fun p => { p with peerOut := some lane }) s else s)

/-- LCTL_LANE_IN (R389): acknowledged, and striping resumes. -/
def execLctlLaneIn (pn lane : Nat) (s : State) : Res :=
  .next (if (port s pn).carries ∧ (port s pn).peerOut = some lane then
    lctl pn 3 lane (changeLanes pn (fun p => { p with peerOut := none }) s) else s)

/-- LCTL_LANE_IN_ACK (R385, R389): striping resumes; the port is UP. -/
def execLctlLaneInAck (pn lane : Nat) (s : State) : Res :=
  let p := port s pn
  .next (if p.state = .retraining ∧ p.outLane = some lane ∧ p.retries = 2 then
    changeLanes pn (fun p => { p with state := .up, outLane := none, retries := 0 }) s else s)

/-- UNKNOWN_CONTROL_BLOCK (R373). -/
def execUnknownControlBlock (pn type : Nat) (s : State) : Res :=
  let p := port s pn
  .next (if p.state = .disabled ∨ p.state = .fenced ∨ type ∈ [blkIdle, blkSof, blkTrain, blkLctl] then s else bump (ctrPort pn 4) s)

end Sys2Proof.Machine
end

