-- ==== Sys2Proof/Machine/CmdWq.lean ====
section
/-! DEFINITION. Work queues (R568 to R575): WQ_CREATE, WQ_DESTROY, taking entries, completions, and the answers of host memory to DMA reads. -/

namespace Sys2Proof.Machine

def wq? (s : State) (ch q : Nat) : Option Wq := look (chan s ch).wq q

/-- A completion entry (R569): PHASE is 1 on the first pass through the ring and inverts on each later one. -/
def cqEntry (w : Wq) (idx status tag rlen : Nat) : List Byte :=
  leBytes (status * 2 ^ 48 + b2n (w.cq / 2 ^ w.log2n % 2 == 0) * 2 ^ 32 + tag) 8 ++ leBytes (idx * 2 ^ 48 + rlen) 8

/-- A request or entry is answered: its completion is to be written. -/
def wqAnswer (ch q idx status tag rlen : Nat) (s : State) : State :=
  updWq ch q (fun w => { w with ready := put w.ready idx (status, tag, rlen) }) s

-- DEDUCED, unsafe, log entry 32.
/-- The loop of R572: the next entry is read while there is one within the credit. -/
def wqNext (ch q : Nat) (s : State) : State :=
  match wq? s ch q with
  | none => s
  | some w =>
    if !w.armed ∨ w.reading ∨ w.stopped ∨ w.destroying.isSome then s
    else if w.head = w.tail then updWq ch q (fun w => { w with armed := false }) s
    else if 2 ^ w.log2n ≤ (w.head + 2 ^ 16 - w.cqhead) % 2 ^ 16 then s
    else
      let did := s.mbx.nextDma
      let idx := w.head
      let s := updWq ch q (fun w => { w with head := (w.head + 1) % 2 ^ 16, reading := true, taken := w.taken ++ [idx] }) s
      let s := { s with mbx := { s.mbx with dma := s.mbx.dma ++ [(did, .wqEntry ch q idx)], nextDma := did + 1 } }
      dmaOut (chanFn ch) (.dmaRead did (chanFn ch) (w.sqaddr + idx % 2 ^ w.log2n * 16) 16) s

/-- An entry is done with: the loop goes on. -/
def wqGoOn (ch q : Nat) (s : State) : State := wqNext ch q (updWq ch q (fun w => { w with reading := false }) s)

/-- A read that failed completes its entry with DMA_FAILED. -/
def wqFailed (ch q idx : Nat) (s : State) : State := wqGoOn ch q (mbxEvent ch 3 (wqAnswer ch q idx 0x0064 0 0 s))

/-- Domain, length and address of a submission entry (R568). -/
def sqTd (bs : List Byte) : Nat := nbits (le bs 8 8) 5 0
def sqDlen (bs : List Byte) : Nat := nbits (le bs 8 8) 63 32
def sqDaddr (bs : List Byte) : Nat := le bs 0 8

/-- The channel may submit for a domain (R559, R572). -/
def wqTdOk (s : State) (ch td : Nat) : Bool := if ch < 8 then (dom s td).policy.getLsbD 7 else td == ch - 8

/-- The read of a submission entry's descriptor. -/
def readDescriptor (ch : Nat) (u : DmaUse) (bs : List Byte) (s : State) : State :=
  let did := s.mbx.nextDma
  dmaOut (chanFn ch) (.dmaRead did (chanFn ch) (sqDaddr bs) (sqDlen bs))
    { s with mbx := { s.mbx with dma := s.mbx.dma ++ [(did, u)], nextDma := did + 1 } }

/-- An entry has arrived (R568, R572). -/
def wqEntryRead (ch q idx : Nat) (bs : List Byte) (s : State) : State :=
  if !wqTdOk s ch (sqTd bs) then wqGoOn ch q (wqAnswer ch q idx 3 0 0 s)
  else readDescriptor ch (.wqDescriptor ch q idx (sqTd bs) (sqDlen bs)) bs s

/-- An entry taken before its channel was reset runs as well; its reply and completion are discarded. -/
def goneEntryRead (ch : Nat) (bs : List Byte) (s : State) : State :=
  if wqTdOk s ch (sqTd bs) then readDescriptor ch (.goneDescriptor ch (sqTd bs) (sqDlen bs)) bs s else s

/-- WQ_CREATE (R563, R571). -/
def execWqCreate (ch : Nat) (s : State) : Res :=
  .next (runCmd ch 0x0504 (fun c s =>
    let q := byteAt c.body 0
    let n := byteAt c.body 1
    if 3 < q ∨ n < 4 ∨ 12 < n then finishErr c.id 1 s
    else if (wq? s ch q).isSome then finishErr c.id 0x63 s
    else
      let w : Wq := {
        sqaddr := le c.body 8 8, cqaddr := le c.body 16 8, log2n := n, tail := 0, cqhead := 0, head := 0, cq := 0, stopped := false
        destroying := none, taken := [], armed := false, reading := false, ready := [] }
      finishOk c.id [] (updChan ch (fun x => { x with wq := put x.wq q w, wqReg := rem x.wqReg q }) s)) s)

-- DEDUCED, unsafe, log entry 31.
/-- A queue being destroyed goes once the last of its entries is complete. -/
def wqGone (ch q : Nat) (s : State) : State :=
  match wq? s ch q with
  | some w => match w.destroying with
    | some id => if w.taken = [] then finishOk id [] (updChan ch (fun x => { x with wq := rem x.wq q }) s) else s
    | none => s
  | none => s

/-- WQ_DESTROY (R575). -/
def execWqDestroy (ch : Nat) (s : State) : Res :=
  .next (runCmd ch 0x0505 (fun c s =>
    let q := byteAt c.body 0
    match wq? s ch q with
    | none => finishErr c.id (if 3 < q then 1 else 0x63) s
    | some w =>
      if w.destroying.isSome then finishErr c.id 0x63 s
      else wqGone ch q (keepRunning c.id (updWq ch q (fun w => { w with destroying := some c.id, armed := false }) s))) s)

/-- WQ_TAKE (R572): the doorbell bit is taken and entries are read; a queue that waited for credit goes on. -/
def execWqTake (ch q : Nat) (s : State) : Res :=
  if !s.up ∨ 72 ≤ ch ∨ 4 ≤ q then .next s
  else
    let s := if dbTaken (chan s ch) (8 + q) then updWq ch q (fun w => { w with armed := true }) (setDb ch (8 + q) false s) else s
    .next (wqNext ch q s)

-- DESIGN CHOICE, safe, log entry 33.
/-- WQ_COMPLETION (R569, R573, R575): the writes of an answered request's reply have ended, `ok.reply` false where one failed, and its completion
entry is written; `ok.entry` false when that write fails. A function that issues no DMA fails both (R532). -/
def execWqCompletion (ch q idx : Nat) (ok : CqWrites) (s : State) : Res :=
  match wq? s ch q with
  | none => .next s
  | some w => match look w.ready idx with
    | none => .next s
    | some (st0, tag, rlen0) =>
      let ok : CqWrites := if dmaStopped s (chanFn ch) then { reply := false, entry := false } else ok
      let lost := !ok.reply && rlen0 != 0
      let (st, rlen) := if lost then (0x64, 0) else (st0, rlen0)
      let s := if lost then mbxEvent ch 3 s else s
      let s := dmaOut (chanFn ch) (.dmaWrite (chanFn ch) (w.cqaddr + w.cq % 2 ^ w.log2n * 16) (cqEntry w idx st tag rlen)) s
      let s := updWq ch q (fun w => { w with cq := w.cq + 1, ready := rem w.ready idx, taken := w.taken.filter (· != idx) }) s
      let s := if ok.entry then mbxEvent ch (12 + q) s else mbxEvent ch 3 (updWq ch q (fun w => { w with stopped := true }) s)
      .next (wqGone ch q s)

/-- The function that a pending read goes through (R539). -/
def dmaFn (s : State) : DmaUse → Nat
  | .wqEntry ch _ _ => chanFn ch
  | .wqDescriptor ch _ _ _ _ => chanFn ch
  | .goneEntry ch => chanFn ch
  | .goneDescriptor ch _ _ => chanFn ch
  | .importSource id => match cmd? s id with
    | some c => chanFn c.ch
    | none => 64

/-- HOST_DMA_READ_COMPLETE (R501, R532, R572): host memory answers a read, or fails it. -/
def execHostDmaReadComplete (did : Nat) (d : DmaData) (s : State) : Res :=
  match look s.mbx.dma did with
  | none => .next s
  | some u =>
    let s := { s with mbx := { s.mbx with dma := rem s.mbx.dma did } }
    match u, dmaGives s (dmaFn s u) d with
    | .wqEntry ch q idx, .failed => .next (wqFailed ch q idx s)
    | .wqEntry ch q idx, .bytes bs => .next (wqEntryRead ch q idx bs s)
    | .wqDescriptor ch q idx _ _, .failed => .next (wqFailed ch q idx s)
    | .wqDescriptor ch q idx td dlen, .bytes bs => .next (wqGoOn ch q (submit (fit bs dlen) (.wq ch q idx) td 1023 0 s))
    | .goneEntry ch, .bytes bs => .next (goneEntryRead ch bs s)
    | .goneDescriptor _ td dlen, .bytes bs => .next (submit (fit bs dlen) .gone td 1023 0 s)
    | .goneEntry ch, .failed => .next (mbxEvent ch 3 s)
    | .goneDescriptor ch _ _, .failed => .next (mbxEvent ch 3 s)
    | .importSource id, .failed => .next (failImport id 0x46 s)
    | .importSource id, .bytes bs => .next (importData id bs s)

end Sys2Proof.Machine
end

