-- ==== Sys2Proof/Machine/Mailbox.lean ====
section
/-! DEFINITION. The mailbox channels (R543 to R556): doorbells, taking messages, responses, ABORT, and management frames. -/

namespace Sys2Proof.Machine

/-! ### Commands are taken -/

/-- The message in a request buffer: its header and as much body as BLEN says. -/
def reqMessage (x : Chan) : Msg := Msg.ofBytes ((nats 4096).map (fun i => lookD 0 x.reqBuf i))

/-- Appends accepted before a raw bank command that has FENCE set, on the sequence of its destination page (R155). -/
def rawAfter (s : State) (m : Msg) : List Nat :=
  let d := RawD.ofBytes m.body
  let a := Sva.ofNat d.dsva
  if m.cmd = 0x0308 ∧ d.fence = true then openAppends s a.td a.seqn else []

/-- Take a message: a command that fails the checks of R554 is answered at once. -/
def takeMessage (c : Nat) (m : Msg) (msn src port : Nat) (s : State) : State :=
  let st := msgCheck s c m
  let x : Cmd := {
    id := s.mbx.nextCmd, ch := c, code := m.cmd, fence := m.fence, td := m.td, tag := m.tag, body := m.body, msn := msn, src := src, port := port
    stage := if st = 0 then .waiting else .done, status := st, rekeyed := false, rsp := [], discard := false, abortReq := false, todo := rawAfter s m, part := []
    obj := 0 }
  { s with mbx := { s.mbx with cmds := s.mbx.cmds ++ [x], nextCmd := s.mbx.nextCmd + 1 } }

/-- REQ (R543): the sender rings. -/
def execReq (ch : Nat) (s : State) : Res := .next (if reachable s ch then setDb ch 0 true s else s)

/-- The control processor takes messages of channel 72 from its start on (R690), of the others from release (R554, R603). -/
def takesMessages (s : State) (ch : Nat) : Bool :=
  if ch = 72 then s.outOfReset && decide (3 ≤ s.boot.phase.code) else s.up && decide (ch < 72)

/-- MESSAGE_TAKEN (R548, R549): with fewer than 16 commands out and the bit not masked. -/
def execMessageTaken (ch : Nat) (s : State) : Res :=
  .next (if takesMessages s ch ∧ dbTaken (chan s ch) 0 = true ∧ nout s ch < 16 then
    mbxEvent ch 0 (setDb ch 0 false (takeMessage ch (reqMessage (chan s ch)) 0 0 0 s)) else s)

/-- RACK (R548). -/
def execRack (ch : Nat) (s : State) : Res := .next (if reachable s ch then takeRack ch (setDb ch 1 true s) else s)

-- DEDUCED, unsafe, log entry 35.
/-- The MGMT_RSP frame of a response (R555). -/
def mgmtRsp (dst msn : Nat) (bs : List Byte) (s : State) : State :=
  sendFrame {
    ftype := 9, cls := .mgmt, td := 0, mgmt := true, final := true, dst := dst, qpn := 0, psn := 0, msn := msn, addr := 0, rkey := 0, alen := 0
    payload := bs, expedite := false, retx := false, own := 0, gust := 0, tstamp := s.now % 2 ^ 32 } s

/-- RESPONSE_WRITTEN (R548, R550, R555, R556): the response of the channel's first completed command; one that would leave in a frame waits while
another waits for room (R455). -/
def execResponseWritten (ch : Nat) (s : State) : Res :=
  match s.mbx.cmds.find? (fun x => x.ch == ch && x.stage == .done) with
  | none => .next s
  | some x =>
    let bs := respBytes x.code x.td x.tag x.status x.rekeyed x.rsp
    let gone := fun (s : State) => setCmds (fun l => l.filter (fun y => y.id != x.id)) s
    if ch < 73 then
      if (chan s ch).rfull ∨ !reachable s ch then .next s
      else .next (mbxEvent ch 1 (updChan ch (fun c => { c with rspBuf := (bs.zipIdx).map (fun b => (b.2, b.1)), rfull := true }) (gone s)))
    else if builderWaits s true x.src 0 then .next s
    else
      let s := mgmtRsp x.src x.msn bs (gone s)
      .next { s with mbx := { s.mbx with kept := put s.mbx.kept ch (((x.msn, bs) :: lookD [] s.mbx.kept ch).take 16) } }

/-! ### ABORT (R552) -/

-- DEDUCED, unsafe, log entry 37.
/-- ABORT of a command. A migration in HANDOFF is no longer its source's to abandon. -/
def abortCmd (c : Cmd) (s : State) : State :=
  let a := Sva.ofNat (le c.body 0 8)
  match c.stage with
  | .done => s
  | .waiting =>
    if c.code = 0x0308 then settleWork (finishErr c.id 0x0062 (dropOps (· == .raw c.id) s)) else finishErr c.id 0x0062 s
  | .running =>
    match c.code with
    | 0x0604 => match seq? s a.td a.seqn with
      | some d => if sourceOf d ∧ d.mig.bind (·.cmd) = some c.id then backToOwn d 0x0062 (sendAbort d s) else s
      | none => finishErr c.id 0x0062 s
    | 0x0605 => abortExport a.td a.seqn s
    | 0x0606 => failImport c.id 0x0062 s
    | 0x0402 => if c.obj = 0 then abortPublications a.td a.seqn s else updCmd c.id (fun c => { c with abortReq := true }) s
    | _ => s

/-- ABORT is taken. -/
def takeAbort (ch : Nat) (s : State) : State :=
  if !dbTaken (chan s ch) 31 then s
  else
    let s := setDb ch 31 false s
    match s.mbx.cmds.find? (fun x => x.ch == ch && !x.discard && x.tag == (chan s ch).atag.toNat) with
    | some c => abortCmd c s
    | none => s

/-- MBX_ABORT (R543, R552). -/
def execMbxAbort (ch : Nat) (s : State) : Res := .next (if reachable s ch then takeAbort ch (setDb ch 31 true s) else s)

/-- MBX_CHANNEL_RESET (R543). -/
def execMbxChannelReset (ch : Nat) (s : State) : Res := .next (if reachable s ch then takeReset ch (setDb ch 30 true s) else s)

/-- A write of MBX_MASK: events that a cleared bit had held are taken. -/
def writeMask (ch : Nat) (v : W32) (s : State) : State :=
  takeReset ch (takeAbort ch (takeRack ch (updChan ch (fun x => { x with mask := v &&& dbBits }) s)))

/-- MBX_MASK_WRITE (R543). -/
def execMbxMaskWrite (ch : Nat) (v : W32) (s : State) : Res := .next (if reachable s ch then writeMask ch v s else s)

/-! ### Management frames (R540, R555, R556) -/

/-- The newest MSN that a channel has seen, among kept responses and commands not yet answered. -/
def newestMsn (s : State) (ch : Nat) : Option Nat :=
  ((lookD [] s.mbx.kept ch).map (·.1) ++ ((s.mbx.cmds.filter (fun x => x.ch == ch)).map (·.msn))).foldl (fun o m => match o with
    | none => some m
    | some n => if serLt 24 n m then some m else o) none

-- DEDUCED, unsafe, log entry 36.
/-- MGMT_CMD (R555, R556): a new command is taken; a repeated one is answered again or discarded; one 16 or more behind is counted. -/
def execMgmtCmd (port : Nat) (f : Frame) (s : State) : Res :=
  if f.ftype ≠ 8 then .next s
  else
    let (ok, s) := checkFrame port f s
    match (if ok then fmPeer s f.src else none) with
    | none => .next s
    | some i =>
      let ch := 73 + i
      match (lookD [] s.mbx.kept ch).find? (fun k => k.1 == f.msn) with
      | some k => .next (if builderWaits s true f.src 0 then s else mgmtRsp f.src f.msn k.2 s)
      | none =>
        let old := match newestMsn s ch with | some n => decide (16 ≤ psnSub n f.msn ∧ psnSub n f.msn < psnHalf) | none => false
        if s.mbx.cmds.any (fun x => x.ch == ch && x.msn == f.msn) then .next s
        else if old then .next (bump (ctrNode (0x80 + 4 * i)) s)
        else if 16 ≤ nout s ch ∨ !s.up then .next s
        else
          let m := Msg.ofBytes f.payload
          let m := if f.plen = 16 + m.blen then m else { m with rsvZero := false }
          .next (takeMessage ch m f.msn f.src port s)

end Sys2Proof.Machine
end

