-- ==== Sys2Proof/Machine/Qualify.lean ====
section
/-! DEFINITION. Qualification before release (R209 to R213), and the publication of the floor plan (R598 to R603). -/

namespace Sys2Proof.Machine

/-- The request that a row of a qualification command stands for: every position of its page, no mask (R211). -/
def qualReq (cls rows : Nat) : Req :=
  { id := 0, td := 0, seqn := 0, layer := 0, sender := .gone, host := 0, home := 0, tag := 0, mask := 0, path := 0, fin := false, fence := false,
    rot := false, c := 1, g := rows, hmask := 1, tree := 0, rstart := 0, rend := geomT (Config.qualGeom cls), qpos := 0,
    sscale := Config.qualScales.1, qscale := Config.qualScales.2, rows := (nats rows).map (Config.qualQuery cls), ykey := 0, yqpn := 0, yaddr := 0,
    app := false, apos := 0, napp := 0, afmt := 0, appd := [], len := 0, stage := .issued, after := [], appLeft := [], issueNo := 0,
    bankHeld := [], unitLeft := [], grpLeft := [], zphLeft := [], zphRows := [], stackParts := [], homeParts := [], zephyr := true,
    tcheck := false, recomputed := false }

/-- Free values of the reference of a row, and of the exponential of R208. -/
def qualKey (cls n : Nat) : Nat := 2 ^ 112 + 2 ^ 21 * cls + 4096 * n

/-- Zephyr's reference of row n of a format class (R201, R211). -/
def qualRow (cls rows n : Nat) : ZRow :=
  let r := qualReq cls rows
  let g := Config.qualGeom cls
  let fm := Config.qualFmt cls
  let y := rowSums g fm r (Config.qualPage cls) (queryRow r 0 n) 0 0 (qualKey cls n)
  { row := pageRow g fm r (Config.qualPage cls) (queryRow r 0 n) 0 0 (qualKey cls n), smag := y.1, vabs := y.2 }

/-- within_tolerance of R208 for a partial under test, of `rows` rows over the page of a format class. -/
def qualAgrees (cls rows : Nat) (p : QualPart) : Bool :=
  p.tokens == geomT (Config.qualGeom cls) && p.rows.length == rows && p.rows.zipIdx.all (fun y =>
    let z := qualRow cls rows y.2
    let d := val32 y.1.1 - val32 z.row.m
    rowAgrees (val32 Config.qualScales.1 * val32 Config.qualScales.2) (val32 (within (qualKey cls y.2 + 4095) (expLo d) (expHi d)))
      { m := y.1.1, l := y.1.2.1, o := y.1.2.2, xl := (0, 0), xo := [] } z)

/-- The raw operation of code `opc` in the set, and the bytes that it leaves (R209): FILL, COPY, SCALE, ADD and MUL are codes 1 to 5. -/
def qualRaw (opc : Nat) : List Byte :=
  let x := Config.qualRaw opc
  rawNew { opc := opc, ver := 1, fence := false, efmt := x.1, rsvOk := true, tag := 0, dsva := 0, ssva := 0, doff := 0, soff := 0,
           ncw := x.2.2.1.length / 32, imm0 := x.2.1, imm1 := 0, rkey := 0, raddr := 0, rlen := 0 } (qualKey 4 0) x.2.2.1 x.2.2.2

/-- A partial for each of the four format classes (R259), within tolerance. -/
def partsAgree (rows : Nat) (l : List QualPart) : Bool := l.length == 4 && l.zipIdx.all (fun y => qualAgrees y.2 rows y.1)

/-- A bank unit fails a comparison of its set, 4 rows for each class and every raw operation bit for bit (R209, R211); a cluster one of its own, of 128 rows. -/
def unitFails (o : QualOut) : Bool := !(partsAgree 4 o.parts && o.raws == [1, 2, 3, 4, 5].map qualRaw)
def clusFails (o : QualOut) : Bool := !partsAgree 128 o.parts

/-- Those that fail in both runs (R212). -/
def failedTwice (fails : QualOut → Bool) (l1 l2 : List QualOut) : List Nat :=
  let f := fun (l : List QualOut) => (l.filter fails).map (·.ix)
  (f l1).filter ((f l2).contains ·)

/-- A qualification page is written into a free frame of every good unit's pair (R211); the page of the last class stands there afterwards. -/
def writeQual (s : State) : State :=
  let l := ((nats 6912).filter (fun u => codeUnit s u == .good)).filterMap (fun u => (slotIn s u).map (frameOf u))
  { s with boot := { s.boot with qual := l }, mem := l.foldl (fun m f => (wrPage m f 0 (fit (Config.qualPage 3) 69632)).1) s.mem }

-- DESIGN CHOICE, unsafe, log entry 156.
/-- QUALIFICATION (R210 to R212): Zephyr's known answers first; then the results of the units and clusters, once and, where they
fail, once more (one not listed agrees): one that fails twice is recorded as failed. With both Zephyrs failing, bring-up ends with cause 0x06. -/
def execQualification (zephyrs : List Nat) (units1 units2 clus1 clus2 : List QualOut) (s : State) : Res :=
  if !bringingUp s .broadcast then .next s
  else
    let s := setPhase .qualification s
    let s := [0, 1].foldl (fun s d =>
      if zephyrs.contains d then report (err0 0 0x0008 d) (updZph d (fun z => { z with fenced := true }) s)
      else updZph d (fun z => { z with good := true }) s) s
    if zephyrs.contains 0 ∧ zephyrs.contains 1 then .next (fatalStop (err0 5 0x0053 0) 6 s)
    else
      let s := writeQual s
      let s := { s with floor := { s.floor with
        zph0 := s.att.zph0.good, zph1 := s.att.zph1.good
        unit := markFailed s.floor.unit (failedTwice unitFails units1 units2)
        clus := markFailed s.floor.clus (failedTwice clusFails clus1 clus2) } }
      .next (if s.boot.aliasSigned && s.boot.flashDone then s else setPhase .waiting s)

/-- FLOOR_PLAN_PUBLISH (R598 to R603): once the parallel rows have ended the record is published and the node is released, every
domain OPEN (R508). The qualification frames have been zero-filled (R213). `shorted` is the mask of fabric lanes shorted at bring-up. -/
def execFloorPlanPublish (shorted : Nat) (s : State) : Res :=
  if !((bringingUp s .qualification || bringingUp s .waiting) && s.boot.aliasSigned && s.boot.flashDone) then .next s
  else
    let below := decide (countGood s.floor.clus 208 < 192 ∨ countGood s.floor.unit 6912 < 6720)
    let s := drawPlaces 64 s
    let (spill, s) := draw 256 s
    .next { s with
      now := 0
      mem := s.boot.qual.foldl (fun m f => zeroFrame m (frameIx f)) s.mem
      net := { s.net with spillKey := BitVec.ofNat 256 spill }
      floor := { s.floor with
        published := true
        gen := 1
        pciw := s.boot.pcieWidth
        fgood := (nats 8).foldl (fun n l => if s.boot.board.flanes.testBit l ∧ !shorted.testBit l then n + 2 ^ l else n) 0 }
      boot := s.boot.upd (fun b => { b with phase := .released, qual := [], belowmin := below, running := false }) }

end Sys2Proof.Machine
end

