-- ==== Sys2Proof/Machine/Regs.lean ====
section
/-! DEFINITION. The registers of BAR0 (chapter 20): what a read returns, and what a write does by its access class (R11). -/

namespace Sys2Proof.Machine

/-! ### Views and places -/

/-- Number of a view: virtual function n, 64 the physical function, 65 the sideband. -/
def viewNum : View → Nat
  | .pf => 64 | .vf n => n | .sb => 65

def snapOf (s : State) (v : Nat) : Snap := lookD Snap.reset s.regs.snaps v

/-- Offset inside a region of n entries of w bytes at a base. -/
def inReg (off base w n : Nat) : Bool := decide (base ≤ off ∧ off < base + w * n)

/-- Channel and offset within its window of an offset of a view (R643, R644). -/
def windowAt : View → Nat → Option (Nat × Nat)
  | .pf, off => if inReg off 0x30000 0x4000 8 then some ((off - 0x30000) / 0x4000, (off - 0x30000) % 0x4000) else none
  | .vf n, off => if off < 0x4000 then some (8 + n, off) else none
  | .sb, off => if off < 0x2020 then some (72, off) else none

/-- The 8 B registers (R643, R644, R664, R542). -/
def wide (v : View) (off : Nat) : Bool :=
  match windowAt v off with
  | some (_, o) => inReg o 0x2020 8 4
  | none =>
    match v with
    | .pf => inReg off 0x1000 8 8 || inReg off 0x1100 8 12 || inReg off 0x1200 8 4 || inReg off 0x2000 8 1 || inReg off 0x2010 8 1
        || inReg off 0x8008 8 1 || inReg off 0xB000 8 1 || inReg off 0x10300 8 4 || inReg off 0x2A000 8 1024 || inReg off 0x170000 8 8192
    | .vf _ => inReg off 0x20000 8 1 || inReg off 0x20010 8 1
    | .sb => inReg off 0x3008 8 1

/-! ### Reads -/

/-- FLP_CAP (R665). -/
def capWord (i : Nat) : Nat :=
  [0x01FF_FFFF_000F_FFFF, 0x0480_0300_1B00_00D0, 0x4000_0002_4BFF_0480, 0x0804_0402_2000_1010, 0x1210_100F_0F00_0000,
    0x1000_0400_0408_5004].getD i 0

def zphStat (z : Zph) : Nat :=
  seqRead z.seq.pf * 0x10000 + zphFlags z + b2n z.active.isSome * 0x1000 + z.td.getD 0 * 0x40 + b2n z.td.isSome * 0x20

def pwrTemp (s : State) (k : Nat) : Nat :=
  let t := lookD (false, 0) s.pwr.temps k
  b2n t.1 * 0x100 + t.2 % 0x100

def tdst (d : Dom) (pf : Bool) : Nat := seqRead (if pf then d.tdstSeq.pf else d.tdstSeq.alt) * 0x10000 + tdstFlags d

def tdses (s : State) (td : Nat) : Nat := (s.net.sess.filter (fun x => x.td == td && !x.mgmt)).length

def snapWord (p : Snap) : Nat := p.seq * 0x10000 + b2n p.busy * 2

/-- A spare register as it reads (R608): eligible bits only. -/
def spareWord (s : State) (cluster : Bool) (i : Nat) (v : W64) : W64 :=
  let ok := fun (j : Nat) =>
    let c := 64 * i + j
    if cluster then decide (c < 208) && codeClus s c == Code.good && (extOfClus s c).isNone
    else codeChan s c == Code.good && (extOfChan s c).isNone
  (nats 64).foldl (fun w j => if v.getLsbD j && !ok j then w &&& ~~~ BitVec.ofNat 64 (2 ^ j) else w) v

/-- MBX_STAT (R544). -/
def mbxStat (s : State) (c : Nat) : Nat :=
  let x := chan s c
  nout s c * 0x10000 + ((nats 4).foldl (fun n q => n + b2n (wq? s c q).isSome * 2 ^ (12 + q)) 0) + b2n x.rfull * 2 + b2n (x.db.getLsbD 0)

/-- MBX_WQ[q] (R570). -/
def wqWord (s : State) (c q : Nat) : Nat :=
  match wq? s c q with
  | some w => w.tail * 2 ^ 48 + w.cqhead * 2 ^ 32 + w.head * 2 ^ 16
  | none => (lookD 0 (chan s c).wqReg q).toNat / 2 ^ 32 * 2 ^ 32

/-- A 4 B word of a channel window (R542). -/
def windowWord (s : State) (c off : Nat) : Nat :=
  let x := chan s c
  if off < 0x1000 then le ((nats 4).map (fun i => lookD 0 x.reqBuf (off + i))) 0 4
  else if off < 0x2000 then le ((nats 4).map (fun i => lookD 0 x.rspBuf (off - 0x1000 + i))) 0 4
  else if off = 0x2000 then x.db.toNat
  else if off = 0x2004 then x.mask.toNat
  else if off = 0x2008 then mbxStat s c
  else if off = 0x200C then seqRead x.evtSeq * 0x10000 + x.evt.toNat
  else if off = 0x2010 then x.ien.toNat
  else if off = 0x2018 then x.atag.toNat
  else 0

/-- TIM_NOW in halves: the upper one as latched by the last read of the lower (R656). -/
def nowWord (s : State) (v : View) (off : Nat) : Nat :=
  if off % 8 = 0 then s.now % 2 ^ 32 else (look s.regs.latch (viewNum v)).getD (s.now / 2 ^ 32)

/-- An 8 B register as it reads. -/
def wideValue (s : State) (v : View) (off : Nat) : Nat :=
  match windowAt v off with
  | some (c, o) => wqWord s c ((o - 0x2020) / 8)
  | none =>
    match v with
    | .pf =>
      if inReg off 0x1000 8 8 then capWord ((off - 0x1000) / 8)
      else if inReg off 0x1100 8 12 then let i := (off - 0x1100) / 8; (spareWord s false i (lookD 0 s.floor.spareCh i)).toNat
      else if inReg off 0x1200 8 4 then let i := (off - 0x1200) / 8; (spareWord s true i (lookD 0 s.floor.spareCl i)).toNat
      else if off = 0x2000 then s.now
      else if off = 0x2010 then (snapOf s 64).t
      else if off = 0x8008 then s.mem.flsCap
      else if off = 0xB000 then s.cmp.ctl.toNat
      else if inReg off 0x10300 8 4 then (port s ((off - 0x10300) / 8)).nbr.toNat
      else if inReg off 0x2A000 8 1024 then (polOf s ((off - 0x2A000) / 8)).toNat
      else lookD 0 (snapOf s 64).holding off
    | .vf n => if off = 0x20000 then s.now else (snapOf s n).t
    | .sb => s.now

/-- A 4 B register of the physical function as it reads. -/
def pfWord (s : State) (off : Nat) : Nat :=
  if off = 0 then bootStat s.boot true
  else if off = 0x2008 then snapWord (snapOf s 64)
  else if off = 0x3000 then s.pwr.pkg % 0x10000
  else if inReg off 0x3100 4 26 then pwrTemp s ((off - 0x3100) / 4)
  else if off = 0x4000 then errStat s.err true
  else if inReg off 0x5000 4 64 then tdst (dom s ((off - 0x5000) / 4)) true
  else if inReg off 0x5100 4 64 then tdses s ((off - 0x5100) / 4)
  else if off = 0x6000 then s.att.lulCtl.toNat
  else if off = 0x7000 then zphStat s.att.zph0
  else if off = 0x7004 then zphStat s.att.zph1
  else if off = 0x8000 then s.mem.flsCtl.toNat
  else if off = 0x9000 then s.mem.ictl.toNat
  else if inReg off 0xA000 4 64 then (lookD 0x4000#32 s.pfx.quota ((off - 0xA000) / 4)).toNat
  else if off = 0xB008 then s.cmp.epoch.toNat
  else if off = 0xC000 then s.net.rtx.toNat
  else if off = 0xC004 then s.net.cc.toNat
  else if off = 0x10000 then s.fab.nodeid.toNat
  else if inReg off 0x10100 4 4 then (port s ((off - 0x10100) / 4)).pctl.toNat
  else if inReg off 0x10200 4 4 then pstatPf (port s ((off - 0x10200) / 4))
  else if inReg off 0x14000 4 4096 then (lookD 0 s.fab.route ((off - 0x14000) / 4)).toNat
  else if off = 0x20000 then s.fab.schCtl.toNat
  else if inReg off 0x20100 4 64 then (lookD 1#32 s.fab.tdw ((off - 0x20100) / 4)).toNat
  else if inReg off 0x20200 4 16 then
    let j := (off - 0x20200) / 4
    if j % 4 = 0 then 0 else (lookD 0x40#32 s.fab.shp j).toNat
  else if inReg off 0x24000 4 4096 then (lookD 0x3FF#32 s.fab.hmap ((off - 0x24000) / 4)).toNat
  else if inReg off 0x28000 4 1024 then (lookD 0x01080201#32 s.fab.sub ((off - 0x28000) / 4)).toNat
  else if inReg off 0x29000 4 1024 then (lookD 0 s.fab.bud ((off - 0x29000) / 4)).toNat
  else if inReg off 0x50000 4 4 then (lookD 0 s.mbx.fmpeer ((off - 0x50000) / 4)).toNat
  else if inReg off 0x100000 4 0x20000 then lookD 0 (snapOf s 64).holding off
  else 0

/-- A 4 B register of virtual function n as it reads. -/
def vfWord (s : State) (n off : Nat) : Nat :=
  if inReg off 0x10000 4 1024 then lookD 0 (snapOf s n).holding (ctrTd n (off - 0x10000))
  else if off = 0x20008 then snapWord (snapOf s n)
  else if off = 0x20100 then tdst (dom s n) false
  else if off = 0x20104 then tdses s n
  else 0

/-- An aligned 4 B access. -/
def word4 (s : State) (v : View) (off : Nat) : Nat :=
  if wide v off then
    if (v = .pf ∧ inReg off 0x2000 8 1) ∨ (v ≠ .pf ∧ inReg off 0x20000 8 1) then nowWord s v off
    else wideValue s v (off / 8 * 8) / 2 ^ (off % 8 * 8) % 2 ^ 32
  else match windowAt v off with
    | some (c, o) => windowWord s c o
    | none => match v with
      | .pf => pfWord s off
      | .vf n => vfWord s n off
      | .sb => 0

/-- The request and response buffers, which hold bytes and no registers (R542). -/
def inBuffer (v : View) (off : Nat) : Bool :=
  match windowAt v off with
  | some (_, o) => decide (o < 0x2000)
  | none => false

-- DESIGN CHOICE, unsafe, log entry 148.
/-- A read of BAR0 (R605, R645): all ones in the FAILED phase but for BOOT_STAT, and for an access of another size or alignment. -/
def readReg (s : State) (v : View) (off size : Nat) : Nat :=
  if s.boot.phase = .failed ∧ ¬(v = .pf ∧ off = 0 ∧ size = 4) then 2 ^ (8 * size) - 1
  else if size = 4 ∧ off % 4 = 0 then word4 s v off
  else if size = 8 ∧ off % 8 = 0 ∧ wide v off = true then wideValue s v off
  else if size = 8 ∧ off % 8 = 0 ∧ inBuffer v off = true then word4 s v off + 2 ^ 32 * word4 s v (off + 4)
  else 2 ^ (8 * size) - 1

/-! ### Writes that have a row of their own -/

-- DEDUCED, unsafe, log entry 46.
/-- FAB_NODEID (R377, R654): every enabled port that is not fenced trains again. -/
def writeNodeid (v : W32) (s : State) : State :=
  let s := { s with fab := { s.fab with nodeid := v &&& 0x3FFFF#32 } }
  (nats 4).foldl (fun s p =>
    let x := port s p
    if bitOf x.pctl 31 ∧ x.state ≠ .disabled ∧ x.state ≠ .fenced then retrainPort p 0 s else s) s

-- DEDUCED, unsafe, log entry 47.
/-- FAB_NBR (R378, R654). -/
def writeNbr (p : Nat) (v : W64) (s : State) : State := updPort p (fun x => { x with nbr := v &&& 0x03FF000000FFFFFF#64 }) s

/-- Frames queued for egress other than ACK and NAK are discarded, credits return to zero (R465). -/
def dropQueued (s : State) : State :=
  (nats 4).foldl (fun s p => updPort p (fun x => { x with
    expedite := [], queues := [], cursor := 0, ccur := [], subDef := [], svcDef := [], tdDef := [], credit := [], creditAt := s.now }) s) s

-- DEDUCED, unsafe, log entry 45.
/-- SCH_CTL (R465). -/
def writeSchCtl (v : W32) (s : State) : State := { s with fab := { s.fab with schCtl := v &&& 0x8FFF0F00#32 } }

/-- SCH_POL (R457). -/
def writePol (h : Nat) (v : W64) (s : State) : State :=
  { s with fab := { s.fab with pol := putD 0x0000008000000040#64 s.fab.pol h (v &&& 0xFFF8FFFFFFF8FFFF#64), meter := rem s.fab.meter h } }

/-- SCH_BUD (R459). -/
def writeBud (h : Nat) (v : W32) (s : State) : State :=
  { s with fab := { s.fab with bud := putD 0 s.fab.bud h (v &&& 0xFFFF#32), budget := rem s.fab.budget h } }

/-- CMP_EPOCH (R504). -/
def writeEpoch (v : W32) (s : State) : State := { s with cmp := { s.cmp with epoch := v, tchange := [] } }

-- DEDUCED, unsafe, log entry 51.
/-- FLP_SPARECH and FLP_SPARECL (R607, R608). -/
def writeSpare (cluster : Bool) (i : Nat) (v : W64) (s : State) : State :=
  let w := spareWord s cluster i v
  if cluster then { s with floor := { s.floor with spareCl := putD 0 s.floor.spareCl i w } }
  else { s with floor := { s.floor with spareCh := putD 0 s.floor.spareCh i w } }

/-- FAB_NODEID_WRITE (R377). -/
def execFabNodeidWrite (v : W32) (s : State) : Res := .next (if s.up then writeNodeid v s else s)

/-- FAB_NBR_WRITE (R378). -/
def execFabNbrWrite (p : Nat) (v : W64) (s : State) : Res := .next (if s.up ∧ p < 4 then writeNbr p v s else s)

/-- SCH_MODE_WRITE (R465): a write of SCH_CTL that writes MODE. -/
def execSchModeWrite (v : W32) (s : State) : Res := .next (if s.up then writeSchCtl v (dropQueued s) else s)

/-- SCH_POL_WRITE (R457, R470). -/
def execSchPolWrite (h : Nat) (v : W64) (s : State) : Res := .next (if s.up ∧ h < 1024 then writePol h v s else s)

/-- SCH_BUD_WRITE (R459, R471). -/
def execSchBudWrite (h : Nat) (v : W32) (s : State) : Res := .next (if s.up ∧ h < 1024 then writeBud h v s else s)

/-- CMP_EPOCH_WRITE (R504). -/
def execCmpEpochWrite (v : W32) (s : State) : Res := .next (if s.up then writeEpoch v s else s)

/-- FLP_SPARE_WRITE (R607, R608). -/
def execFlpSpareWrite (cluster : Bool) (i : Nat) (v : W64) (s : State) : Res :=
  .next (if s.up ∧ i < (if cluster then 4 else 12) then writeSpare cluster i v s else s)

/-! ### RWQ fields (R652, R653) -/

/-- No port is in the middle of a subscriber's round. -/
def subIdle (s : State) (h : Nat) : Bool := (nats 4).all (fun p => lookD 0 (port s p).subDef h == 0)
def tdwIdle (s : State) (n : Nat) : Bool := (nats 4).all (fun p => lookD 0 (port s p).tdDef n == 0)

-- DEDUCED, unsafe, log entry 50.
def applySub (h : Nat) (s : State) : State := if subIdle s h then newRound h s else s
def applyTdw (n : Nat) (s : State) : State :=
  if tdwIdle s n then { s with fab := { s.fab with tdwNow := putD 1#32 s.fab.tdwNow n (lookD 1#32 s.fab.tdw n) } } else s
def applyShift (s : State) : State := { s with att := { s.att with lulShift := fld s.att.lulCtl 20 16 } }

/-- RWQ_SHADOW_APPLY (R452, R652, R653): the boundary of a field has come; that of the thresholds of STK_ICTL is the start of a window (R329). -/
def execRwqShadowApply (f : RwqField) (s : State) : Res :=
  .next (match f with
  | .lulShift => applyShift s
  | .stkThresholds => if s.mem.samplesInWindow = 0 then { s with mem := { s.mem with ictlNow := s.mem.ictl } } else s
  | .schQmax p => if p < 4 then updPort p (fun x => { x with qmax := qmaxOf s.fab.schCtl }) s else s
  | .schSub h => if h < 1024 then applySub h s else s
  | .schTdw n => if n < 64 then applyTdw n s else s)

-- DEDUCED, unsafe, log entry 48.
/-- LUL_CTL (R227): SHIFT takes effect at once while Lull is disabled; clearing EN closes held samples. -/
def writeLul (v : W32) (s : State) : State :=
  let was := bitOf s.att.lulCtl 31
  let s := { s with att := { s.att with lulCtl := v &&& 0xF81FFFFF#32 } }
  let s := if was then s else applyShift s
  if was then lullOff s else s

/-- LULL_DISABLE (R227): EN is cleared. -/
def execLullDisable (s : State) : Res := .next (if s.up then writeLul (s.att.lulCtl &&& 0x7FFFFFFF#32) s else s)

/-- FAB_PCTL (R385, R400): a change of EN enables or disables the port. -/
def writePctl (p : Nat) (v : W32) (s : State) : State :=
  let was := bitOf (port s p).pctl 31
  let s := updPort p (fun x => { x with pctl := (x.pctl &&& 0x80000000#32) ||| (v &&& 0x00FFFF00#32) }) s
  if bitOf v 31 ∧ was = false then enablePort p s
  else if bitOf v 31 = false ∧ was then disablePort p s
  else s

/-! ### Status acknowledgement (R649 to R651) -/

def ackSeq (pf : Bool) (v : W32) (q : Seq2) : Seq2 :=
  if pf then { q with pf := (seqAck q.pf (fld v 31 16)).1 } else { q with alt := (seqAck q.alt (fld v 31 16)).1 }

/-- MBX_EVT of a channel (R545). -/
def ackEvt (c : Nat) (v : W32) (s : State) : State :=
  updChan c (fun x =>
    let (n, clear) := seqAck x.evtSeq (fld v 31 16)
    { x with evtSeq := n, evt := if clear then x.evt &&& ~~~ (v &&& 0xFFFF#32) else x.evt }) s

/-- A write of a status register of a view. -/
def ackReg (view : View) (off : Nat) (v : W32) (s : State) : State :=
  match windowAt view off with
  | some (c, o) => if o = 0x200C then ackEvt c v s else s
  | none =>
    match view with
    | .pf =>
      if off = 0 then { s with boot := { s.boot with seq := ackSeq true v s.boot.seq } }
      else if off = 0x4000 then { s with err := { s.err with seq := ackSeq true v s.err.seq } }
      else if inReg off 0x5000 4 64 then updDom ((off - 0x5000) / 4) (fun d => { d with tdstSeq := ackSeq true v d.tdstSeq }) s
      else if off = 0x7000 then { s with att := { s.att with zph0 := { s.att.zph0 with seq := ackSeq true v s.att.zph0.seq } } }
      else if off = 0x7004 then { s with att := { s.att with zph1 := { s.att.zph1 with seq := ackSeq true v s.att.zph1.seq } } }
      else if inReg off 0x10200 4 4 then updPort ((off - 0x10200) / 4) (fun x => { x with seq := ackSeq true v x.seq }) s
      else s
    | .vf n => if off = 0x20100 then updDom n (fun d => { d with tdstSeq := ackSeq false v d.tdstSeq }) s else s
    | .sb => s

-- DEDUCED, unsafe, log entry 43.
/-- Whether a view's accesses reach the registers: BAR0 ignores writes but while the node is released (R603, R605); the sideband
reaches channel 72 once its responder acknowledges (R690). -/
def viewServed (s : State) : View → Bool
  | .sb => reachable s 72
  | _ => s.up

/-- STATUS_ACK (R649, R650, R651): a write-back to a status register. -/
def execStatusAck (view : View) (off : Nat) (v : W32) (s : State) : Res :=
  .next (if viewServed s view ∧ off % 4 = 0 then ackReg view off v s else s)

/-! ### Time and snapshots (R656 to R660) -/

-- DEDUCED, unsafe, log entry 52.
/-- Counters in a view's scope at T (R659, R661): an extent that is FREE reads zero. -/
def snapScope (s : State) (n : Nat) : List (Nat × Nat) :=
  if n = 64 then s.regs.ctr.filter (fun c => decide (c.1 < 0x170000) || (ext? s ((c.1 - 0x170000) / 16)).isSome)
  else s.regs.ctr.filter (fun c => decide (ctrTd n 0 ≤ c.1 ∧ c.1 < ctrTd n 0x1000))

/-- GO is written (R657, R659). -/
def snapGo (n : Nat) (s : State) : State :=
  let p := snapOf s n
  if p.busy then s
  else { s with regs := { s.regs with snaps := put s.regs.snaps n { p with busy := true, captured := snapScope s n, capturedT := s.now } } }

/-- TIM_SNAP_GO (R657, R659). -/
def execTimSnapGo (view : View) (s : State) : Res := .next (if s.up ∧ view ≠ .sb then snapGo (viewNum view) s else s)

/-- SNAPSHOT_COMPLETE (R660): the holding registers are replaced at once. -/
def execSnapshotComplete (view : View) (s : State) : Res :=
  let p := snapOf s (viewNum view)
  .next (if p.busy then
    { s with regs := { s.regs with snaps := put s.regs.snaps (viewNum view) {
      seq := (p.seq + 1) % 2 ^ 16, busy := false, captured := [], capturedT := 0, holding := p.captured, t := p.capturedT } } }
  else s)

/-- BAR0 offset of TIM_NOW in a view (R643, R644). -/
def timNowOff : View → Nat
  | .pf => 0x2000 | .vf _ => 0x20000 | .sb => 0x3008

-- DEDUCED, unsafe, log entry 133.
/-- A read of the lower half of TIM_NOW latches the upper half of the view (R656). -/
def latchNow (r : ViewRead) (s : State) : State :=
  if r.off = timNowOff r.view ∧ r.size = 4 then { s with regs := { s.regs with latch := put s.regs.latch (viewNum r.view) (s.now / 2 ^ 32) } }
  else s

/-- TIM_NOW_READ (R14, R605, R656), and a read of any other register of BAR0: what the register holds. `r.inTime` false when the access outlasts the stall
of R14: it returns all ones, latches nothing, and is logged as REG_TIMEOUT. -/
def execTimNowRead (r : ViewRead) (s : State) : Res :=
  if r.view = .sb ∨ ¬(s.up = true ∨ s.boot.phase = .failed) then .next s
  else if s.up = true ∧ r.inTime = false then .next (report (err0 0 0x0001 r.off) (emit (.data (leBytes (2 ^ (8 * r.size) - 1) r.size)) s))
  else .next (emit (.data (leBytes (readReg s r.view r.off r.size) r.size)) (if s.up then latchNow r s else s))

/-! ### Writes by access class (R11, R645, R646) -/

/-- Doorbells are rung (R543): RACK, ABORT and RESET are taken at once unless masked. -/
def ringDb (c : Nat) (v : W32) (s : State) : State :=
  takeReset c (takeAbort c (takeRack c (updChan c (fun x => { x with db := x.db ||| (v &&& dbBits) }) s)))

-- DEDUCED, unsafe, log entry 41.
/-- Bytes into a request buffer; ignored, with OVW, while a message waits in it (R547). -/
def writeReqBuf (c off : Nat) (bs : List Byte) (s : State) : State :=
  if (chan s c).db.getLsbD 0 then mbxEvent c 2 s
  else updChan c (fun x => { x with reqBuf := bs.zipIdx.foldl (fun t b => putD 0 t (off + b.2) b.1) x.reqBuf }) s

/-- A 4 B write in a channel window (R542 to R546). -/
def writeWindow (c off : Nat) (v : W32) (s : State) : State :=
  if off < 0x1000 then writeReqBuf c off (leBytes v.toNat 4) s
  else if off = 0x2000 then ringDb c v s
  else if off = 0x2004 then writeMask c v s
  else if off = 0x200C then ackEvt c v s
  else if off = 0x2010 then updChan c (fun x => { x with ien := v &&& 0xF01F#32 }) s
  else if off = 0x2018 then updChan c (fun x => { x with atag := v }) s
  else s

/-- MBX_WQ[q] (R570): TAIL and CQHEAD. -/
def writeWq (c q : Nat) (v : W64) (s : State) : State :=
  if (wq? s c q).isSome then updWq c q (fun w => { w with tail := fld v 63 48, cqhead := fld v 47 32 }) s
  else updChan c (fun x => { x with wqReg := putD 0 x.wqReg q (v &&& 0xFFFFFFFF00000000#64) }) s

/-- A write of an 8 B register. -/
def writeWide (view : View) (off : Nat) (v : W64) (s : State) : State :=
  match windowAt view off with
  | some (c, o) => writeWq c ((o - 0x2020) / 8) v s
  | none =>
    match view with
    | .pf =>
      if inReg off 0x1100 8 12 then writeSpare false ((off - 0x1100) / 8) v s
      else if inReg off 0x1200 8 4 then writeSpare true ((off - 0x1200) / 8) v s
      else if off = 0xB000 then { s with cmp := { s.cmp with ctl := v } }
      else if inReg off 0x10300 8 4 then writeNbr ((off - 0x10300) / 8) v s
      else if inReg off 0x2A000 8 1024 then writePol ((off - 0x2A000) / 8) v s
      else s
    | _ => s

/-- A write of a 4 B register of the fabric and the scheduler. A shaper's credit up to a write of SCH_SHP is reckoned at the rate in force until then (R453). -/
def writeFab4 (off : Nat) (v : W32) (s : State) : State :=
  if off = 0x10000 then writeNodeid v s
  else if inReg off 0x10100 4 4 then writePctl ((off - 0x10100) / 4) v s
  else if inReg off 0x14000 4 4096 then { s with fab := { s.fab with route := putD 0 s.fab.route ((off - 0x14000) / 4) (v &&& 0xF#32) } }
  else if off = 0x20000 then writeSchCtl v (if bitOf v 31 = flatMode s then s else dropQueued s)
  else if inReg off 0x20100 4 64 then
    let n := (off - 0x20100) / 4
    applyTdw n { s with fab := { s.fab with tdw := putD 1#32 s.fab.tdw n (v &&& 0xFF#32) } }
  else if inReg off 0x20200 4 16 then
    let j := (off - 0x20200) / 4
    if j % 4 = 0 then s
    else
      let s := settleCredit (j / 4) s
      { s with fab := { s.fab with shp := putD 0x40#32 s.fab.shp j (v &&& 0xFFF8FFFF#32) } }
  else if inReg off 0x24000 4 4096 then { s with fab := { s.fab with hmap := putD 0x3FF#32 s.fab.hmap ((off - 0x24000) / 4) (v &&& 0x800003FF#32) } }
  else if inReg off 0x28000 4 1024 then
    let h := (off - 0x28000) / 4
    applySub h { s with fab := { s.fab with sub := putD 0x01080201#32 s.fab.sub h v } }
  else if inReg off 0x29000 4 1024 then writeBud ((off - 0x29000) / 4) v s
  else s

-- DEDUCED, unsafe, log entry 49.
/-- STK_ICTL (R329): AUTO and RBRATE are live, the thresholds wait for the next window. Clearing AUTO ends every rebalance (R324). -/
def writeIctl (v : W32) (s : State) : State :=
  let was := icAuto s
  let s := { s with mem := { s.mem with ictl := v &&& 0x8FFFFFFF#32, ictlNow := (v &&& 0x8000FFFF#32) ||| (s.mem.ictlNow &&& 0x0FFF0000#32) } }
  if was && !icAuto s then autoCleared s else s

/-- A write of a 4 B register of the physical function. -/
def writePf4 (off : Nat) (v : W32) (s : State) : State :=
  if off = 0x2008 then (if bitOf v 0 then snapGo 64 s else s)
  else if off = 0x6000 then writeLul v s
  else if off = 0x8000 then { s with mem := { s.mem with flsCtl := v &&& 0x80FFFFFF#32 } }
  else if off = 0x9000 then writeIctl v s
  else if inReg off 0xA000 4 64 then { s with pfx := { s.pfx with quota := putD 0x4000#32 s.pfx.quota ((off - 0xA000) / 4) (v &&& 0x1FFFFF#32) } }
  else if off = 0xB008 then writeEpoch v s
  else if off = 0xC000 then { s with net := { s.net with rtx := v } }
  else if off = 0xC004 then { s with net := { s.net with cc := v } }
  else if inReg off 0x50000 4 4 then { s with mbx := { s.mbx with fmpeer := putD 0 s.mbx.fmpeer ((off - 0x50000) / 4) (v &&& 0xFFFFFF#32) } }
  else writeFab4 off v (ackReg .pf off v s)

/-- An aligned 4 B write. -/
def write4 (view : View) (off : Nat) (v : W32) (s : State) : State :=
  if wide view off then
    let base := off / 8 * 8
    let k := viewNum view * 2 ^ 28 + base
    if off % 8 = 0 then { s with regs := { s.regs with low := put s.regs.low k v } }
    else
      let lo := (look s.regs.low k).getD (BitVec.ofNat 32 (wideValue s view base))
      writeWide view base (v ++ lo) { s with regs := { s.regs with low := rem s.regs.low k } }
  else match windowAt view off with
    | some (c, o) => writeWindow c o v s
    | none => match view with
      | .pf => writePf4 off v s
      | .vf n => if off = 0x20008 then (if bitOf v 0 then snapGo n s else s) else ackReg view off v s
      | .sb => s

-- DEDUCED, unsafe, log entry 42.
-- DESIGN CHOICE, safe, log entry 44.
/-- A write that reaches its register. -/
def regWrite (view : View) (off size : Nat) (v : W64) (s : State) : State :=
  if size = 4 ∧ off % 4 = 0 then write4 view off (v.truncate 32) s
  else if size = 8 ∧ off % 8 = 0 then
    if wide view off then
      writeWide view off v { s with regs := { s.regs with low := rem s.regs.low ((viewNum view) * 2 ^ 28 + off) } }
    else match windowAt view off with
      | some (c, o) => if o < 0x1000 then writeReqBuf c o (leBytes v.toNat 8) s else s
      | none => s
  else s

/-- REGISTER_WRITE (R11 to R14, R605, R645, R646, R648): `inTime` false when the access outlasts the stall of R14; it is then discarded
and logged as REG_TIMEOUT. The sideband writes no register of BAR0 (R669). -/
def execRegisterWrite (view : View) (off size : Nat) (v : W64) (inTime : Bool) (s : State) : Res :=
  if !s.up ∨ view = .sb then .next s
  else if inTime then .next (regWrite view off size v s)
  else .next (report (err0 0 0x0001 off) s)

end Sys2Proof.Machine
end

