-- ==== Sys2Proof/Machine/Session.lean ====
section
/-! DEFINITION. Reports, sessions and the host path's protocols (chapter 15, R563, R565). -/

namespace Sys2Proof.Machine

/-! ### Report slots (R523, R565) -/

def rptid (k : Nat) (x : Slot) : Nat := k * 2 ^ 28 + x.num % 2 ^ 28

/-- The slot that an RPTID names, owned by the domain. -/
def slot? (s : State) (id td : Nat) : Option Slot :=
  match look s.sec.slots (id / 2 ^ 28 % 16) with
  | some x => if x.num % 2 ^ 28 = id % 2 ^ 28 ∧ x.td = td then some x else none
  | none => none

def setSlot (k : Nat) (x : Slot) (s : State) : State := { s with sec := { s.sec with slots := put s.sec.slots k x } }

def freeSlot? (s : State) : Option Nat := (nats 16).find? (fun k => (look s.sec.slots k).isNone)

def slotBytes (u : List (Nat × Byte)) (n : Nat) : List Byte := (nats n).map (fun i => lookD 0 u i)

/-- Reserve a slot with a fresh number. -/
def newSlot (k : Nat) (x : Slot) (s : State) : State :=
  let s := setSlot k { x with num := s.sec.nextReport } s
  { s with sec := { s.sec with nextReport := if s.sec.nextReport + 1 < 2 ^ 28 then s.sec.nextReport + 1 else 1 } }

def Slot.fresh (td now : Nat) : Slot :=
  { num := 0, td := td, peer := 0, mgmt := false, nonce := [], signing := none, report := [], dk := 0, out := [], upload := [], since := now }

/-! ### The Geber report (R519 to R521) -/

def entryBytes (kind : Nat) (tds : Bool) (idx size isvn : Nat) (dig : BitVec 384) : List Byte :=
  beBytes (kind * 2 ^ 56 + b2n tds * 2 ^ 55 + idx * 2 ^ 32 + size) 8 ++ beBytes (isvn * 2 ^ 32) 8 ++ digestBytes dig

/-- Entries of the loaded items of some kinds. -/
def fwEntries (s : State) (ks : List Nat) : List (List Byte) :=
  (s.boot.loaded.filter (fun x => ks.contains x.kind)).map (fun x => entryBytes x.kind false x.idx x.size x.isvn x.dig)

/-- The entries in ascending KIND, then IDX (R520, R521). -/
def reportEntries (s : State) (d : Dom) (mgmt : Bool) : List (List Byte) :=
  fwEntries s [1, 2, 3]
  ++ (match d.rotDig with
      | some x => if mgmt then [] else [entryBytes 0x10 true 0 (4 * d.rotary.length) 0 x]
      | none => [])
  ++ fwEntries s [0x11, 0x12]

def ideSecure (s : State) (fn : Nat) : Bool :=
  match look s.sec.ide fn with
  | some x => x.txSet.isSome && x.rxSet.isSome
  | none => false

/-- The report before its signature (R519): header, entries, encapsulation key. Words lie most significant byte first. -/
def reportBody (s : State) (k : Nat) (x : Slot) : List Byte :=
  let d := dom s x.td
  let es := reportEntries s d x.mgmt
  let rlen := 256 + 64 * es.length + 1568 + 49856
  beBytes (0x47454252 * 2 ^ 32 + 2 ^ 16 + es.length) 8
  ++ beBytes (rlen * 2 ^ 32 + b2n s.sec.debug * 2 ^ 31 + 2 ^ 30 + 2 ^ 29 + b2n (d.tdi == .run) * 2 ^ 28 + b2n (ideSecure s x.td) * 2 ^ 27
      + b2n (d.admKey.isEmpty) * 2 ^ 26 + b2n x.mgmt * 2 ^ 25) 8
  ++ beBytes ((if x.mgmt then 0 else x.td) * 2 ^ 58 + nodeId s * 2 ^ 40 + s.cmp.epoch.toNat) 8
  ++ beBytes Config.serial.toNat 8 ++ beBytes (s.boot.svn * 2 ^ 32 + rptid k x) 8 ++ beBytes s.now 8 ++ fit x.nonce 32
  ++ digestBytes (sha3_384 (Config.slhPublic256s s.sec.didSeed)) ++ digestBytes s.boot.fwdig
  ++ (if x.mgmt then zeros 48 else digestBytes d.cfgdig) ++ zeros 32
  ++ es.flatten ++ fit (Config.kemKeys x.dk) 1568

/-- The signed report: by the alias key over every byte before the signature. -/
def signedReport (s : State) (k : Nat) (x : Slot) : List Byte :=
  let b := reportBody s k x
  b ++ fit (Config.slhSign256f s.sec.aliasSeed b) 49856

/-! ### Commands -/

-- DEDUCED, unsafe, log entry 23.
/-- SES_REPORT (R523, R526, R527): a slot is reserved and its signature begins. -/
def execSesReport (ch : Nat) (s : State) : Res :=
  .next (runCmd ch 0x0701 (fun c s =>
    let mgmt := byteAt c.body 4 % 2 = 1
    if mgmt ∧ 8 ≤ ch then finishErr c.id 0x0003 s
    else if !s.sec.identity then finishErr c.id 0x0056 s
    else if !mgmt ∧ !(dom s c.td).sealed then finishErr c.id 0x0051 s
    else match freeSlot? s with
    | none => finishErr c.id 0x0052 s
    | some k =>
      let (dk, s) := draw 256 s
      keepRunning c.id (newSlot k { Slot.fresh c.td s.now with
        peer := le c.body 0 4 % 2 ^ 24, mgmt := mgmt, nonce := fit (slice c.body 16 32) 32, signing := some c.id, dk := BitVec.ofNat 256 dk } s)) s)

/-- Slots whose signature is in progress or waits, in order of acceptance; two are signed at once (R522). -/
def signingNow (s : State) : List Nat :=
  (((s.sec.slots.filter (fun x => x.2.signing.isSome)).mergeSort (fun a b => decide (a.2.signing.getD 0 ≤ b.2.signing.getD 0))).map (·.1)).take 2

/-- REPORT_SIGNED (R522): the report is complete; SES_REPORT answers RPTID and RLEN, SES_PEER the length of its output. -/
def execReportSigned (slot : Nat) (s : State) : Res :=
  match look s.sec.slots slot with
  | none => .next s
  | some x => match x.signing with
    | none => .next s
    | some id =>
      if !(signingNow s).contains slot || !s.up then .next s
      else
        let r := signedReport s slot x
        let peer := !x.out.isEmpty
        let out := if peer then x.out ++ r ++ s.boot.certs ++ s.sec.aliasCert else []
        let s := bump (ctrTd x.td 0x140) (setSlot slot { x with signing := none, report := r, out := out, since := s.now } s)
        .next (finishOk id (if peer then leBytes out.length 4 else leBytes (rptid slot x) 4 ++ leBytes r.length 4) s)

/-- SES_READ (R523, R565). -/
def execSesRead (ch : Nat) (s : State) : Res :=
  .next (runCmd ch 0x0703 (fun c s =>
    let off := le c.body 8 4
    let len := le c.body 12 4
    let area := byteAt c.body 4
    let src : Option (List Byte) :=
      if area = 1 then some s.boot.certs
      else if area = 2 then some s.sec.aliasCert
      else match slot? s (le c.body 0 4) c.td with
        | some x => if x.signing.isSome then none else if area = 0 then some x.report else some x.out
        | none => none
    if 3 < area ∨ 4032 < len then finishErr c.id 0x0001 s
    else match src with
    | none => finishErr c.id 0x0053 s
    | some bs =>
      if bs = [] ∨ bs.length < off + len then finishErr c.id 0x0053 s
      else finishOk c.id (fit c.body 16 ++ leBytes bs.length 4 ++ zeros 28 ++ slice bs off len) s) s)

/-- SES_WRITE (R523, R565): RPTID 0 reserves a slot for an upload. -/
def execSesWrite (ch : Nat) (s : State) : Res :=
  .next (runCmd ch 0x0704 (fun c s =>
    let id := le c.body 0 4
    let off := le c.body 8 4
    let len := le c.body 12 4
    let data := fit (c.body.drop 48) len
    let store := fun (k : Nat) (x : Slot) (s : State) =>
      setSlot k { x with upload := (data.zipIdx).foldl (fun u b => putD 0 u (off + b.2) b.1) x.upload } s
    if 4032 < len then finishErr c.id 0x0001 s
    else if 131072 < off + len then finishErr c.id 0x0053 s
    else if id = 0 then
      match freeSlot? s with
      | none => finishErr c.id 0x0052 s
      | some k =>
        let s := newSlot k (Slot.fresh c.td s.now) s
        match look s.sec.slots k with
        | some x => finishOk c.id (leBytes (rptid k x) 4) (store k x s)
        | none => finishErr c.id 0x0052 s
    else match slot? s id c.td with
    | none => finishErr c.id 0x0053 s
    | some x => finishOk c.id (leBytes id 4) (store (id / 2 ^ 28) x s)) s)

/-- SES_CERTS (R523). -/
def execSesCerts (ch : Nat) (s : State) : Res :=
  .next (runCmd ch 0x0705 (fun c s =>
    if !s.sec.identity then finishErr c.id 0x0056 s
    else finishOk c.id (leBytes s.boot.certs.length 4 ++ leBytes s.sec.aliasCert.length 4) s) s)

/-! ### Opening a session (R524 to R528) -/

/-- Session keys from the shared secret (R524). -/
def sessionSecret (ss : BitVec 256) (report ct : List Byte) (td peer : Nat) : List Byte :=
  shake256 (ascii "RELORN-SES-1" ++ beBytes ss.toNat 32 ++ digestBytes (sha3_384 report) ++ digestBytes (sha3_384 ct)
    ++ leBytes td 1 ++ beBytes peer 3) 64

/-- Install or replace a session (R525, R528): the old frame key stays for 10 ms, FCNT and XID start at zero, an export under the
old export key is aborted. -/
def installSession (mgmt : Bool) (td peer : Nat) (secret : List Byte) (s : State) : State :=
  let td := if mgmt then 0 else td
  let old := sess? s mgmt td peer
  let s := if old.isSome then abortExportsOf td (some peer) s else s
  let x : Sess := { td := td, peer := peer, mgmt := mgmt, frameKey := BitVec.ofNat 256 (be secret 0 32),
                    exportKey := BitVec.ofNat 256 (be secret 32 32), fcnt := 0, xid := 0,
                    old := old.map (fun o => (o.frameKey, s.now + 10000000)) }
  let s := { s with net := { s.net with
    sess := s.net.sess.filter (fun y => !(y.mgmt == mgmt && y.td == td && y.peer == peer)) ++ [x] } }
  let s := bump (ctrTd td 0x144) s
  if old.isSome then bump (ctrTd td 0x14C) s else s

/-- The number of sessions would pass the limit (R525). -/
def sessionFull (s : State) (mgmt : Bool) (td peer : Nat) : Bool := (sess? s mgmt td peer).isNone && decide (8192 ≤ s.net.sess.length)

/-- A peer's report is acceptable for the domain (R526): chain to ROOTH, alias certificate, signature, DEBUG clear, TD and CFGDIG. -/
def peerReportOk (s : State) (td : Nat) (report certs : List Byte) : Bool :=
  let rooth := match s.boot.fuses with | some f => f.rooth | none => 0
  let n := report.length - 49856
  let w1 := be report 8 8
  Config.certSigned certs rooth && (be report 0 4 == 0x47454252)
    && (match Config.aliasKey (Config.certKey certs) certs with
        | some k => Config.slhVerify256f k (report.take n) (report.drop n)
        | none => false)
    && nbits w1 31 31 == 0 && nbits (be report 16 8) 63 58 == td && slice report 176 48 == digestBytes (dom s td).cfgdig

/-- Length of a report by its header (R519). -/
def reportLen (bs : List Byte) : Nat := be bs 8 4

-- DEDUCED, unsafe, log entry 24.
/-- SES_PEER (R526, steps 2 to 4). The secret is the one that the report's node derives, whose peer is this node. -/
def execSesPeer (ch : Nat) (s : State) : Res :=
  .next (runCmd ch 0x0702 (fun c s =>
    let id := le c.body 0 4
    if !s.sec.identity then finishErr c.id 0x0056 s
    else if !(dom s c.td).sealed then finishErr c.id 0x0051 s
    else match slot? s id c.td with
    | none => finishErr c.id 0x0053 s
    | some x =>
      let ulen := le c.body 4 4
      if x.signing.isSome ∨ 131072 < ulen then finishErr c.id 0x0053 s
      else
        let up := slotBytes x.upload ulen
        let rep := up.take (reportLen up)
        let certs := up.drop (reportLen up)
        let peer := nbits (be rep 16 8) 57 40
        if !peerReportOk s c.td rep certs then finishErr c.id 0x0054 s
        else if sessionFull s false c.td peer then finishErr c.id 0x0055 s
        else
          let (r, s) := draw 256 s
          let (ct, ss) := Config.kemEncaps (slice rep (rep.length - 49856 - 1568) 1568) r
          let s := installSession false c.td peer (sessionSecret ss rep ct c.td (nodeId s)) s
          let (dk, s) := draw 256 s
          keepRunning c.id (setSlot (id / 2 ^ 28) { x with
            peer := peer, nonce := (digestBytes (sha3_384 rep)).take 32, signing := some c.id, dk := BitVec.ofNat 256 dk
            out := fit ct 1568 } s)) s)

/-- The check of SES_OPEN by its mode (R524, R526, R527): ADMIT, OPEN, PEER. -/
def openOk (s : State) (x : Slot) (mode : Nat) (up : List Byte) : Bool :=
  let key := if x.mgmt then s.sec.mgmtKey else (dom s x.td).admKey
  let td := if x.mgmt then 0 else x.td
  let ct := up.take 1568
  let rest := up.drop 1568
  if mode = 0 then
    !key.isEmpty && Config.slhVerify256f key (ascii "RELORN-ADM-1" ++ digestBytes (sha3_384 x.report) ++ ct ++ leBytes td 1 ++ beBytes x.peer 3) rest
  else if mode = 1 then key.isEmpty && up.length == 1568
  else
    let rep := rest.take (reportLen rest)
    !x.mgmt && peerReportOk s x.td rep (rest.drop (reportLen rest))
      && slice rep 48 32 == (digestBytes (sha3_384 x.report)).take 32 && nbits (be rep 16 8) 57 40 == x.peer

-- DEDUCED, unsafe, log entry 25.
/-- SES_OPEN (R523 to R528): the slot is freed whether it succeeds or fails. -/
def execSesOpen (ch : Nat) (s : State) : Res :=
  .next (runCmd ch 0x0706 (fun c s =>
    let id := le c.body 0 4
    let mode := byteAt c.body 4
    let ulen := le c.body 8 4
    match slot? s id c.td with
    | none => finishErr c.id (if 2 < mode then 0x0001 else 0x0053) s
    | some x =>
      let t := freeSlots (fun y => y.1 == id / 2 ^ 28 % 16) s
      if 2 < mode then finishErr c.id 0x0001 t
      else if x.mgmt ∧ 8 ≤ ch then finishErr c.id 0x0003 t
      else if !x.mgmt ∧ !(dom s c.td).sealed then finishErr c.id 0x0051 t
      else if x.report = [] ∨ 131072 < ulen then finishErr c.id 0x0053 t
      else
        let up := slotBytes x.upload ulen
        if !openOk s x mode up then finishErr c.id 0x0054 t
        else if sessionFull s x.mgmt x.td x.peer then finishErr c.id 0x0055 t
        else
          let ct := up.take 1568
          let secret := sessionSecret (Config.kemDecaps x.dk ct) x.report ct (if x.mgmt then 0 else x.td) x.peer
          finishOk c.id [] (installSession x.mgmt x.td x.peer secret t)) s)

/-- SES_CLOSE (R528): keys zeroised, the domain's queue pairs with the peer in ERROR with INFO 5. -/
def execSesClose (ch : Nat) (s : State) : Res :=
  .next (runCmd ch 0x0707 (fun c s =>
    let peer := le c.body 0 4
    let s := abortExportsOf c.td (some peer) s
    let s := dropSessions (fun x => !x.mgmt && x.td == c.td && x.peer == peer) s
    let s := (s.net.qps.filter (fun q => q.td == c.td && q.peer == peer)).foldl (fun s q => qpError q.qpn 5 s) s
    finishOk c.id [] s) s)

/-- SEC_MGMTKEY (R527). -/
def execSecMgmtkey (ch : Nat) (s : State) : Res :=
  .next (runCmd ch 0x0708 (fun c s =>
    let k := fit c.body 64
    finishOk c.id [] { s with sec := { s.sec with mgmtKey := if allZero k then [] else k } }) s)

/-- SEC_ZEROISE (R534): every volatile key and session zeroised, all service stopped. -/
def execSecZeroise (ch : Nat) (s : State) : Res :=
  .next (runCmd ch 0x0709 (fun c s =>
    let s := finishOk c.id [] (zeroise s)
    { s with sec := { s.sec with stopped := true } }) s)

/-- REPORT_SLOT_EXPIRY (R523): 10 s after signing or reservation. -/
def execReportSlotExpiry (slot : Nat) (s : State) : Res :=
  match look s.sec.slots slot with
  | none => .next s
  | some x =>
    if x.signing.isSome || !s.up || decide (s.now < x.since + 10000000000) then .next s
    else .next { s with sec := { s.sec with slots := rem s.sec.slots slot } }

/-- OLD_SESSION_KEY_EXPIRY (R528): 10 ms after the replacement. -/
def execOldSessionKeyExpiry (td peer : Nat) (s : State) : Res :=
  if !s.up then .next s
  else .next { s with net := { s.net with sess := s.net.sess.map (fun x =>
    match x.old with
    | some (_, t) => if x.td = td ∧ x.peer = peer ∧ t ≤ s.now then { x with old := none } else x
    | none => x) } }

/-! ### SPDM (R531) -/

/-- The responder answers: the node is released, has an identity, and DOE is reached over the link. -/
def spdmReady (s : State) : Bool := s.up && s.sec.identity && s.boot.pcieUp

-- PRESUMED, unsafe, log entry 29.
/-- One SPDM exchange: with the connection far enough, the response of `code` and the change of state; otherwise ERROR with
UnexpectedRequest. -/
def spdm (ok : Bool) (code : Nat) (content : List Byte) (f : Sec → Sec) (s : State) : State :=
  if !spdmReady s then s
  else if ok then emit (.spdm ([0x13, BitVec.ofNat 8 code, 0, 0] ++ content)) { s with sec := f s.sec }
  else emit (.spdm [0x13, 0x7F, 0x04, 0]) s

def negotiated (s : State) : Bool := s.sec.spdm == .algorithms

/-- GET_VERSION: a new connection. -/
def execGetVersion (m : List Byte) (s : State) : Res :=
  .next (spdm true 0x04 (Config.spdmBody 0x04 m) (fun x => { x with spdm := .version, handshake := false, secured := false }) s)

/-- GET_CAPABILITIES. -/
def execGetCapabilities (m : List Byte) (s : State) : Res :=
  .next (spdm (s.sec.spdm == .version) 0x61 (Config.spdmBody 0x61 m) (fun x => { x with spdm := .capabilities }) s)

/-- NEGOTIATE_ALGORITHMS: the algorithms of R531 are fixed. -/
def execNegotiateAlgorithms (m : List Byte) (s : State) : Res :=
  .next (spdm (s.sec.spdm == .capabilities) 0x63 (Config.spdmBody 0x63 m) (fun x => { x with spdm := .algorithms }) s)

/-- GET_DIGESTS. -/
def execGetDigests (m : List Byte) (s : State) : Res :=
  .next (spdm (negotiated s) 0x01 (Config.spdmBody 0x01 (m ++ s.boot.certs)) id s)

/-- GET_CERTIFICATE: a part of the chain through the identity certificate, by the request's offset and length. -/
def execGetCertificate (m : List Byte) (s : State) : Res :=
  .next (spdm (negotiated s) 0x02 (slice s.boot.certs (le m 4 2) (le m 6 2)) id s)

/-- CHALLENGE: signed with the SPDM key. -/
def execChallenge (m : List Byte) (s : State) : Res :=
  let b := Config.spdmBody 0x03 (m ++ s.boot.certs)
  .next (spdm (negotiated s) 0x03 (b ++ Config.p384Sign s.sec.spdmKey (m ++ b)) id s)

/-- GET_MEASUREMENTS: block 1 is FWDIG, blocks 2 onwards the node-scope entries of R521 in report order. -/
def execGetMeasurements (m : List Byte) (s : State) : Res :=
  let blocks := digestBytes s.boot.fwdig :: (fwEntries s [1, 2, 3, 0x11, 0x12]).map (fun e => slice e 16 48)
  .next (spdm (negotiated s) 0x60 (Config.spdmBody 0x60 m ++ blocks.flatten) id s)

/-- KEY_EXCHANGE: ECDHE on secp384r1, signed with the SPDM key. -/
def execKeyExchange (m : List Byte) (s : State) : Res :=
  let (r, t) := draw 384 s
  let b := Config.p384Share r m
  .next (if spdmReady s && negotiated s then
      spdm true 0x64 (b ++ Config.p384Sign s.sec.spdmKey (m ++ b)) (fun x => { x with handshake := true }) t
    else spdm false 0x64 [] id s)

/-- FINISH: the secured session is open. -/
def execFinish (m : List Byte) (s : State) : Res :=
  .next (spdm (negotiated s && s.sec.handshake) 0x65 (Config.spdmBody 0x65 m) (fun x => { x with handshake := false, secured := true }) s)

/-- END_SESSION. -/
def execEndSession (m : List Byte) (s : State) : Res :=
  .next (spdm (negotiated s && s.sec.secured) 0x6C (Config.spdmBody 0x6C m) (fun x => { x with secured := false }) s)

/-! ### IDE and TDISP (R530, R532) -/

def Ide.fresh : Ide := { txKeys := [], rxKeys := [], txSet := none, rxSet := none }

def updIde (stream : Nat) (f : Ide → Ide) (s : State) : State :=
  { s with sec := { s.sec with ide := put s.sec.ide stream (f (lookD Ide.fresh s.sec.ide stream)) } }

/-- IDE_KM_KEY_PROGRAMMING (R530): over a secured session, a key set of one direction of one of the 65 streams. -/
def execIdeKmKeyProgramming (stream : Nat) (tx : Bool) (set : Nat) (key : BitVec 256) (s : State) : Res :=
  if !(spdmReady s && s.sec.secured) then .next s
  else if 65 ≤ stream ∨ 2 ≤ set then .next (emit (.tdisp false) s)
  else .next (emit (.tdisp true) (updIde stream (fun x =>
    if tx then { x with txKeys := put x.txKeys set key } else { x with rxKeys := put x.rxKeys set key }) s))

/-- K_SET_GO (R530): the direction changes to a programmed key set. -/
def execKSetGo (stream : Nat) (tx : Bool) (set : Nat) (s : State) : Res :=
  if !(spdmReady s && s.sec.secured) then .next s
  else
    let x := lookD Ide.fresh s.sec.ide stream
    let have_ := (look (if tx then x.txKeys else x.rxKeys) set).isSome
    .next (if have_ then emit (.tdisp true) (updIde stream (fun x =>
        if tx then { x with txSet := some set } else { x with rxSet := some set }) s)
      else emit (.tdisp false) s)

/-- LOCK_INTERFACE_REQUEST (R532, R512): only while the domain is SEALED. -/
def execLockInterfaceRequest (vf : Nat) (s : State) : Res :=
  if !(spdmReady s && s.sec.secured) || decide (64 ≤ vf) then .next s
  else if (dom s vf).sealed && (dom s vf).tdi == .unlocked then
    .next (emit (.tdisp true) (updDom vf (fun d => d.upd (fun d => { d with tdi := .locked })) s))
  else .next (emit (.tdisp false) s)

/-- TDISP_MESSAGE (R532): CONFIG_LOCKED starts into RUN; a stop returns the TDI to CONFIG_UNLOCKED. -/
def execTdispMessage (vf : Nat) (r : TdispReq) (s : State) : Res :=
  if !(spdmReady s && s.sec.secured) || decide (64 ≤ vf) then .next s
  else
    let go := fun (t : TdiState) => emit (.tdisp true) (updDom vf (fun d => d.upd (fun d => { d with tdi := t })) s)
    match r with
    | .startInterface => .next (if (dom s vf).tdi == .locked then go .run else emit (.tdisp false) s)
    | .stopInterface => .next (go .unlocked)

/-- DEBUG_UNLOCK_TOKEN (R694, "When debug access is unlocked"): a signed token arms debug unlock for the next reset. -/
def execDebugUnlockToken (token : List Byte) (s : State) : Res :=
  .next (if s.pwr.powered && Config.debugToken token then { s with sec := { s.sec with debugArmed := true } } else s)

end Sys2Proof.Machine
end

