-- ==== Sys2Proof/Machine/Sideband.lean ====
section
/-! DEFINITION. The sideband (R669, R687 to R692) and the TAP (R693, R694). -/

namespace Sys2Proof.Machine

/-- The responder acknowledges its address (R675, R690). -/
def sbServed (s : State) : Bool := s.pwr.powered && s.pwr.sbReady && !s.pwr.testEn

/-! ### Transfers (R688, R689) -/

/-- A transfer that keeps the rules of R689. -/
def sbForm (s : State) (off len : Nat) (pecOk : Bool) : Bool :=
  off % 4 == 0 && off < 0x10000 && len % 4 == 0 && 4 ≤ len && (if s.i3c then decide (len ≤ 4096) else decide (len ≤ 240) && pecOk)

/-- A transfer that breaks the rules of R689 is discarded; in SMBus its PEC byte is not acknowledged. -/
def sbReject (s : State) : State := if s.i3c then s else emit .sbNack s

-- DEDUCED, unsafe, log entry 53.
/-- A word of the sideband's own space (R688). The request buffer is there to be written only. -/
def sbWord (s : State) (off : Nat) : Nat :=
  if off < 0x1000 then 0
  else if off < 0x2020 then windowWord s 72 off
  else if off = 0x3000 then bootStat s.boot false
  else if off = 0x3004 then errStat s.err false
  else if off = 0x3008 then s.now % 2 ^ 32
  else if off = 0x300C then s.now / 2 ^ 32
  else if off = 0x3010 then s.pwr.pkg % 0x10000
  else if inReg off 0x3100 4 26 then pwrTemp s ((off - 0x3100) / 4)
  else 0

/-- Words written one after the other; those of the request buffer are one write. -/
def sbWords (off : Nat) : List Byte → Nat → State → State
  | _, 0, s => s
  | bs, n + 1, s => sbWords (off + 4) (bs.drop 4) n
      (if off < 0x1000 ∨ 0x2020 ≤ off then s else writeWindow 72 off (BitVec.ofNat 32 (le bs 0 4)) s)

/-- SB_WRITE (R687 to R690, R692). -/
def execSbWrite (off : Nat) (data : List Byte) (pecOk : Bool) (s : State) : Res :=
  if !sbServed s then .next s
  else if !sbForm s off data.length pecOk then .next (sbReject s)
  else
    let s := if off < 0x1000 then writeReqBuf 72 off (data.take (0x1000 - off)) s else s
    .next (sbWords off data (data.length / 4) s)

/-- SB_READ (R669, R687 to R690). -/
def execSbRead (off len : Nat) (pecOk : Bool) (s : State) : Res :=
  if !sbServed s then .next s
  else if !sbForm s off len pecOk then .next (sbReject s)
  else .next (emit (.data ((nats (len / 4)).flatMap (fun i => leBytes (sbWord s (off + 4 * i)) 4))) s)

/-! ### Common command codes of I3C (R687) -/

/-- The static address (R676). -/
def staticAddr (s : State) : Nat := 0x58 + s.pwr.sbAddr % 8

-- PRESUMED, unsafe, log entry 54.
/-- A CCC that the node accepts, in I3C mode. -/
def ccc (f : State → State) (s : State) : State := if sbServed s && s.i3c then f s else s

/-- Bytes that a GET code returns, most significant first. -/
def cccGet (v n : Nat) (s : State) : State := emit (.data (beBytes v n)) s

/-- SETDASA: the dynamic address from the static one. -/
def execSetdasa (static dynamic : Nat) (s : State) : Res :=
  .next (ccc (fun s => if static = staticAddr s ∧ s.side.dynAddr = none then { s with side := { s.side with dynAddr := some dynamic } } else s) s)

/-- ENTDAA: a target without a dynamic address takes the one assigned. -/
def execEntdaa (dynamic : Nat) (s : State) : Res :=
  .next (ccc (fun s => if s.side.dynAddr = none then { s with side := { s.side with dynAddr := some dynamic } } else s) s)

/-- RSTDAA. -/
def execRstdaa (s : State) : Res := .next (ccc (fun s => { s with side := { s.side with dynAddr := none } }) s)

/-- ENEC. -/
def execEnec (events : Nat) (s : State) : Res :=
  .next (ccc (fun s => { s with side := { s.side with events := s.side.events ||| events % 0x100 } }) s)

/-- DISEC. -/
def execDisec (events : Nat) (s : State) : Res :=
  .next (ccc (fun s => { s with side := { s.side with events := s.side.events - (s.side.events &&& events) } }) s)

/-- GETPID, GETBCR, GETDCR, GETSTATUS: values the spec does not give. -/
def execGetpid (s : State) : Res := .next (ccc (cccGet Config.i3cPid 6) s)
def execGetbcr (s : State) : Res := .next (ccc (cccGet Config.i3cBcr 1) s)
def execGetdcr (s : State) : Res := .next (ccc (cccGet Config.i3cDcr 1) s)
def execGetstatus (s : State) : Res := .next (ccc (cccGet Config.i3cStatus 2) s)

/-- The longest write and read, 4,096 B (R687). -/
def maxLength : Nat := 4096

/-- GETMWL. -/
def execGetmwl (s : State) : Res := .next (ccc (cccGet maxLength 2) s)

/-- GETMRL. -/
def execGetmrl (s : State) : Res := .next (ccc (fun s => cccGet maxLength 2 s) s)

/-! ### SMBALERT_N and the bus (R687, R691, R692) -/

def dropAlert (s : State) : State := { s with side := { s.side with alert := false } }

-- PRESUMED, unsafe, log entry 55.
/-- ALERT_RESPONSE_ADDRESS (R687, R691): the node that alerts answers with its address. -/
def execAlertResponseAddress (s : State) : Res :=
  .next (if sbServed s ∧ s.i3c = false ∧ s.side.alert = true then
    emit (.data [BitVec.ofNat 8 (2 * staticAddr s)]) (dropAlert s) else s)

/-- SMBALERT_TIMEOUT (R691): 1 ms after it was asserted. -/
def execSmbalertTimeout (s : State) : Res :=
  .next (if s.side.alert ∧ s.side.alertAt + 1000000 ≤ s.clk then dropAlert s else s)

-- DESIGN CHOICE, safe, log entry 158.
/-- SB_BUS_RELEASE (R692): SCL and SDA are released and the transfer in progress is discarded. -/
def execSbBusRelease (s : State) : Res := .next { s with side := { s.side with heldSince := none, inTransfer := false } }

/-! ### The TAP (R693, R694) -/

/-- IDCODE (R693). -/
def idcode : Nat := 0x1 * 2 ^ 28 + 0x2448 * 2 ^ 12 + Config.jep106 % 2 ^ 11 * 2 + 1

/-- An instruction is loaded: number in the model, data shifted out. -/
def tapLoad (n data : Nat) (s : State) : State :=
  if s.pwr.powered then
    emit (.tap s.side.capture data) { s with side := { s.side with tapInstr := n, capture := 1 } }
  else s

-- DESIGN CHOICE, safe, log entry 56.
/-- The boundary register is captured: what the pins carry is open. -/
def tapSample (n : Nat) (s : State) : State :=
  let (v, t) := takeFree s
  if s.pwr.powered then tapLoad n v.toNat t else s

/-- An instruction of the second kind: refused after release; before, bring-up needs a node reset. -/
def tapSecond (load : State → State) (s : State) : State :=
  if !s.pwr.powered then s
  else if s.boot.phase = .released then
    emit (.tap s.side.capture 0) { s with side := { s.side with tapInstr := 0, capture := 5 } }
  else load { s with boot := { s.boot with running := false }, side := { s.side with boundary := true } }

/-- BYPASS. -/
def execBypass (s : State) : Res := .next (tapLoad 0 0 s)
/-- IDCODE. -/
def execIdcode (s : State) : Res := .next (tapLoad 1 idcode s)
/-- SAMPLE/PRELOAD. -/
def execSamplePreload (s : State) : Res := .next (tapSample 2 s)
/-- EXTEST. -/
def execExtest (s : State) : Res := .next (tapSecond (tapSample 3) s)
/-- CLAMP: the bypass register is selected while the pins hold. -/
def execClamp (s : State) : Res := .next (tapSecond (tapLoad 4 0) s)
/-- HIGHZ: the bypass register is selected while the outputs are off. -/
def execHighz (s : State) : Res := .next (tapSecond (tapLoad 5 0) s)
/-- EXTEST_PULSE. -/
def execExtestPulse (s : State) : Res := .next (tapSecond (tapSample 6) s)
/-- EXTEST_TRAIN. -/
def execExtestTrain (s : State) : Res := .next (tapSecond (tapSample 7) s)

end Sys2Proof.Machine
end

