-- ==== Sys2Proof/Machine/Dispatch.lean ====
section
/-! DEFINITION. The arms of exec, one per command of the table; each is one direct call of the command's meaning. -/

namespace Sys2Proof.Machine

def exec (i : Instr) (s : State) : Host.Outcome State Fault Refusal :=
  match i with
  | .powerOn groups => Sys2Proof.Machine.execPowerOn groups s
  | .pwrOkAssert sbSel sbAddr testEn refclkOk => Sys2Proof.Machine.execPwrOkAssert sbSel sbAddr testEn refclkOk s
  | .railFault pwrOkFell => Sys2Proof.Machine.execRailFault pwrOkFell s
  | .nodeRstN => Sys2Proof.Machine.execNodeRstN s
  | .perst => Sys2Proof.Machine.execPerst s
  | .fuseLoad f => Sys2Proof.Machine.execFuseLoad f s
  | .bootSlotVerify d => Sys2Proof.Machine.execBootSlotVerify d s
  | .keyDerivation => Sys2Proof.Machine.execKeyDerivation s
  | .aliasCertificateSign => Sys2Proof.Machine.execAliasCertificateSign s
  | .flashFormat targets => Sys2Proof.Machine.execFlashFormat targets s
  | .powerWave => Sys2Proof.Machine.execPowerWave s
  | .stackPortTraining failed d2dFailed => Sys2Proof.Machine.execStackPortTraining failed d2dFailed s
  | .channelTraining fail1 fail2 => Sys2Proof.Machine.execChannelTraining fail1 fail2 s
  | .bringupZeroFill => Sys2Proof.Machine.execBringupZeroFill s
  | .firmwareBroadcast units1 units2 clus1 clus2 => Sys2Proof.Machine.execFirmwareBroadcast units1 units2 clus1 clus2 s
  | .qualification zph units1 units2 clus1 clus2 => Sys2Proof.Machine.execQualification zph units1 units2 clus1 clus2 s
  | .floorPlanPublish shorted => Sys2Proof.Machine.execFloorPlanPublish shorted s
  | .bringupWatchdog w => Sys2Proof.Machine.execBringupWatchdog w s
  | .pcieLinkTraining lanes refclk => Sys2Proof.Machine.execPcieLinkTraining lanes refclk s
  | .configurationRequest => Sys2Proof.Machine.execConfigurationRequest s
  | .hostInterfaceReset => Sys2Proof.Machine.execHostInterfaceReset s
  | .vfFunctionLevelReset vf => Sys2Proof.Machine.execVfFunctionLevelReset vf s
  | .clockLockLoss island => Sys2Proof.Machine.execClockLockLoss island s
  | .d2dLinkFailure lanes => Sys2Proof.Machine.execD2dLinkFailure lanes s
  | .thermalThrottle sensor temp => Sys2Proof.Machine.execThermalThrottle sensor temp s
  | .thermalTrip sensor temp => Sys2Proof.Machine.execThermalTrip sensor temp s
  | .powerMonitorRefresh power temps => Sys2Proof.Machine.execPowerMonitorRefresh power temps s
  | .req ch => Sys2Proof.Machine.execReq ch s
  | .messageTaken ch => Sys2Proof.Machine.execMessageTaken ch s
  | .rack ch => Sys2Proof.Machine.execRack ch s
  | .responseWritten ch => Sys2Proof.Machine.execResponseWritten ch s
  | .mbxAbort ch => Sys2Proof.Machine.execMbxAbort ch s
  | .mbxChannelReset ch => Sys2Proof.Machine.execMbxChannelReset ch s
  | .mbxMaskWrite ch v => Sys2Proof.Machine.execMbxMaskWrite ch v s
  | .wqTake ch q => Sys2Proof.Machine.execWqTake ch q s
  | .wqCompletion ch q idx ok => Sys2Proof.Machine.execWqCompletion ch q idx ok s
  | .mgmtCmd port f => Sys2Proof.Machine.execMgmtCmd port f s
  | .flpRead ch => Sys2Proof.Machine.execFlpRead ch s
  | .errRead ch => Sys2Proof.Machine.execErrRead ch s
  | .crashRead ch => Sys2Proof.Machine.execCrashRead ch s
  | .tdConfig ch => Sys2Proof.Machine.execTdConfig ch s
  | .tdTable ch => Sys2Proof.Machine.execTdTable ch s
  | .tdAdmkey ch => Sys2Proof.Machine.execTdAdmkey ch s
  | .tdSeal ch => Sys2Proof.Machine.execTdSeal ch s
  | .tdUnseal ch => Sys2Proof.Machine.execTdUnseal ch s
  | .seqCreate ch => Sys2Proof.Machine.execSeqCreate ch s
  | .seqRelease ch => Sys2Proof.Machine.execSeqRelease ch s
  | .seqCommit ch => Sys2Proof.Machine.execSeqCommit ch s
  | .seqTruncate ch => Sys2Proof.Machine.execSeqTruncate ch s
  | .seqFence ch => Sys2Proof.Machine.execSeqFence ch s
  | .seqStage ch => Sys2Proof.Machine.execSeqStage ch s
  | .seqQuery ch => Sys2Proof.Machine.execSeqQuery ch s
  | .fill by_ => Sys2Proof.Machine.execFill by_ s
  | .copy by_ => Sys2Proof.Machine.execCopy by_ s
  | .scale ch => Sys2Proof.Machine.execScale ch s
  | .add ch => Sys2Proof.Machine.execAdd ch s
  | .mul ch => Sys2Proof.Machine.execMul ch s
  | .rmsSumsq ch => Sys2Proof.Machine.execRmsSumsq ch s
  | .rmsApply ch => Sys2Proof.Machine.execRmsApply ch s
  | .score ch => Sys2Proof.Machine.execScore ch s
  | .pfxLookup ch => Sys2Proof.Machine.execPfxLookup ch s
  | .seqPublish ch => Sys2Proof.Machine.execSeqPublish ch s
  | .publishPageComplete ch => Sys2Proof.Machine.execPublishPageComplete ch s
  | .seqAttach ch => Sys2Proof.Machine.execSeqAttach ch s
  | .pfxUnpublish ch => Sys2Proof.Machine.execPfxUnpublish ch s
  | .groupBackgroundFree td sidx => Sys2Proof.Machine.execGroupBackgroundFree td sidx s
  | .qpCreate ch => Sys2Proof.Machine.execQpCreate ch s
  | .qpDestroy ch => Sys2Proof.Machine.execQpDestroy ch s
  | .qpTable ch => Sys2Proof.Machine.execQpTable ch s
  | .wqCreate ch => Sys2Proof.Machine.execWqCreate ch s
  | .wqDestroy ch => Sys2Proof.Machine.execWqDestroy ch s
  | .extSet ch => Sys2Proof.Machine.execExtSet ch s
  | .extSetComplete ext => Sys2Proof.Machine.execExtSetComplete ext s
  | .extGet ch => Sys2Proof.Machine.execExtGet ch s
  | .extRevoke ch => Sys2Proof.Machine.execExtRevoke ch s
  | .revokeDeadline ext => Sys2Proof.Machine.execRevokeDeadline ext s
  | .evacuationMove td seqn page => Sys2Proof.Machine.execEvacuationMove td seqn page s
  | .channelZeroFill chan => Sys2Proof.Machine.execChannelZeroFill chan s
  | .extentReleaseComplete ext => Sys2Proof.Machine.execExtentReleaseComplete ext s
  | .seqMigrate ch => Sys2Proof.Machine.execSeqMigrate ch s
  | .seqExport by_ => Sys2Proof.Machine.execSeqExport by_ s
  | .exportComplete td end_ => Sys2Proof.Machine.execExportComplete td end_ s
  | .seqImport ch => Sys2Proof.Machine.execSeqImport ch s
  | .importRecord ch record => Sys2Proof.Machine.execImportRecord ch record s
  | .sesReport ch => Sys2Proof.Machine.execSesReport ch s
  | .reportSigned slot => Sys2Proof.Machine.execReportSigned slot s
  | .sesPeer ch => Sys2Proof.Machine.execSesPeer ch s
  | .sesRead ch => Sys2Proof.Machine.execSesRead ch s
  | .sesWrite ch => Sys2Proof.Machine.execSesWrite ch s
  | .sesCerts ch => Sys2Proof.Machine.execSesCerts ch s
  | .sesOpen ch => Sys2Proof.Machine.execSesOpen ch s
  | .sesClose ch => Sys2Proof.Machine.execSesClose ch s
  | .secMgmtkey ch => Sys2Proof.Machine.execSecMgmtkey ch s
  | .secZeroise ch => Sys2Proof.Machine.execSecZeroise ch s
  | .reportSlotExpiry slot => Sys2Proof.Machine.execReportSlotExpiry slot s
  | .oldSessionKeyExpiry td peer => Sys2Proof.Machine.execOldSessionKeyExpiry td peer s
  | .attend port f => Sys2Proof.Machine.execAttend port f s
  | .write port f => Sys2Proof.Machine.execWrite port f s
  | .readReq port f => Sys2Proof.Machine.execReadReq port f s
  | .readResp port f => Sys2Proof.Machine.execReadResp port f s
  | .ack port f => Sys2Proof.Machine.execAck port f s
  | .nak port f => Sys2Proof.Machine.execNak port f s
  | .orderedFrameApply qpn => Sys2Proof.Machine.execOrderedFrameApply qpn s
  | .offer port f => Sys2Proof.Machine.execOffer port f s
  | .accept port f => Sys2Proof.Machine.execAccept port f s
  | .copied port f => Sys2Proof.Machine.execCopied port f s
  | .handoffSend td seqn => Sys2Proof.Machine.execHandoffSend td seqn s
  | .handoff port f => Sys2Proof.Machine.execHandoff port f s
  | .taken port f => Sys2Proof.Machine.execTaken port f s
  | .abort port f => Sys2Proof.Machine.execAbort port f s
  | .resolve port f => Sys2Proof.Machine.execResolve port f s
  | .resolveSet port f => Sys2Proof.Machine.execResolveSet port f s
  | .migrationTimer td seqn => Sys2Proof.Machine.execMigrationTimer td seqn s
  | .fwdholdTimer td seqn => Sys2Proof.Machine.execFwdholdTimer td seqn s
  | .ackTimer qpn => Sys2Proof.Machine.execAckTimer qpn s
  | .retransmitTimer qpn => Sys2Proof.Machine.execRetransmitTimer qpn s
  | .sendReady qpn => Sys2Proof.Machine.execSendReady qpn s
  | .contextFetchComplete qpn d => Sys2Proof.Machine.execContextFetchComplete qpn d s
  | .contextFetchBudget qpn => Sys2Proof.Machine.execContextFetchBudget qpn s
  | .readResponse qp => Sys2Proof.Machine.execReadResponse qp s
  | .egressNextFrame port => Sys2Proof.Machine.execEgressNextFrame port s
  | .egressQueueRoom port => Sys2Proof.Machine.execEgressQueueRoom port s
  | .heldRequestRelease host => Sys2Proof.Machine.execHeldRequestRelease host s
  | .requestIssue rid => Sys2Proof.Machine.execRequestIssue rid s
  | .bankAttend unit => Sys2Proof.Machine.execBankAttend unit s
  | .bankAppend unit => Sys2Proof.Machine.execBankAppend unit s
  | .stackPartialSend stack rid => Sys2Proof.Machine.execStackPartialSend stack rid s
  | .clusterPageFetch cluster => Sys2Proof.Machine.execClusterPageFetch cluster s
  | .clusterPageCompute cluster => Sys2Proof.Machine.execClusterPageCompute cluster s
  | .groupMerge die rid => Sys2Proof.Machine.execGroupMerge die rid s
  | .homeDieMerge rid => Sys2Proof.Machine.execHomeDieMerge rid s
  | .zephyrPass die => Sys2Proof.Machine.execZephyrPass die s
  | .clusterHandover cluster => Sys2Proof.Machine.execClusterHandover cluster s
  | .clusterZeroFill cluster => Sys2Proof.Machine.execClusterZeroFill cluster s
  | .leafRewrite cid => Sys2Proof.Machine.execLeafRewrite cid s
  | .oldFrameReturn cid => Sys2Proof.Machine.execOldFrameReturn cid s
  | .promotionComplete cid uncorrectable => Sys2Proof.Machine.execPromotionComplete cid uncorrectable s
  | .demotionComplete cid programOk => Sys2Proof.Machine.execDemotionComplete cid programOk s
  | .backgroundDemotion td => Sys2Proof.Machine.execBackgroundDemotion td s
  | .forcedDemotion td => Sys2Proof.Machine.execForcedDemotion td s
  | .stagingReadIssue td => Sys2Proof.Machine.execStagingReadIssue td s
  | .stagingReadComplete td seqn page => Sys2Proof.Machine.execStagingReadComplete td seqn page s
  | .wakeMinresExpiry td seqn => Sys2Proof.Machine.execWakeMinresExpiry td seqn s
  | .heatDecayTick td => Sys2Proof.Machine.execHeatDecayTick td s
  | .flashOperationIssue chan tgt found => Sys2Proof.Machine.execFlashOperationIssue chan tgt found s
  | .idleCollection chan tgt => Sys2Proof.Machine.execIdleCollection chan tgt s
  | .forcedCollection chan tgt => Sys2Proof.Machine.execForcedCollection chan tgt s
  | .readDisturbRelocation chan tgt block found => Sys2Proof.Machine.execReadDisturbRelocation chan tgt block found s
  | .wearRelocation chan tgt block found => Sys2Proof.Machine.execWearRelocation chan tgt block found s
  | .onfiTargetTimeout chan tgt => Sys2Proof.Machine.execOnfiTargetTimeout chan tgt s
  | .refresh unit bank => Sys2Proof.Machine.execRefresh unit bank s
  | .channelRetraining chan => Sys2Proof.Machine.execChannelRetraining chan s
  | .retrainingResult chan ok => Sys2Proof.Machine.execRetrainingResult chan ok s
  | .patrolScrub chan flips => Sys2Proof.Machine.execPatrolScrub chan flips s
  | .correctedWriteback unit => Sys2Proof.Machine.execCorrectedWriteback unit s
  | .occupancySample => Sys2Proof.Machine.execOccupancySample s
  | .windowEnd => Sys2Proof.Machine.execWindowEnd s
  | .holdoffElapsed td => Sys2Proof.Machine.execHoldoffElapsed td s
  | .rebalanceMoveStart td => Sys2Proof.Machine.execRebalanceMoveStart td s
  | .lullSampleStep die => Sys2Proof.Machine.execLullSampleStep die s
  | .sampleRetry die => Sys2Proof.Machine.execSampleRetry die s
  | .sampleAgeExpiry die idx => Sys2Proof.Machine.execSampleAgeExpiry die idx s
  | .lullMemoryTest unit slot badCodeword => Sys2Proof.Machine.execLullMemoryTest unit slot badCodeword s
  | .lullSpareLane lane ok => Sys2Proof.Machine.execLullSpareLane lane ok s
  | .lullPrefixCheck bank => Sys2Proof.Machine.execLullPrefixCheck bank s
  | .lullZephyrCheck die matches_ => Sys2Proof.Machine.execLullZephyrCheck die matches_ s
  | .lullDisable => Sys2Proof.Machine.execLullDisable s
  | .unitFence unit cause => Sys2Proof.Machine.execUnitFence unit cause s
  | .clusterFence cluster cause => Sys2Proof.Machine.execClusterFence cluster cause s
  | .handlingStep => Sys2Proof.Machine.execHandlingStep s
  | .handlerWatchdog cause => Sys2Proof.Machine.execHandlerWatchdog cause s
  | .fatalError code info => Sys2Proof.Machine.execFatalError code info s
  | .portEnable port => Sys2Proof.Machine.execPortEnable port s
  | .portDisable port => Sys2Proof.Machine.execPortDisable port s
  | .portTrainingComplete port lanes b => Sys2Proof.Machine.execPortTrainingComplete port lanes b s
  | .laneRetry port lane seen => Sys2Proof.Machine.execLaneRetry port lane seen s
  | .laneDegrade port lane cause => Sys2Proof.Machine.execLaneDegrade port lane cause s
  | .liveRetrainingComplete port ok => Sys2Proof.Machine.execLiveRetrainingComplete port ok s
  | .identitySend port => Sys2Proof.Machine.execIdentitySend port s
  | .lctlIdentity port b => Sys2Proof.Machine.execLctlIdentity port b s
  | .lctlLaneOut port lane => Sys2Proof.Machine.execLctlLaneOut port lane s
  | .lctlLaneIn port lane => Sys2Proof.Machine.execLctlLaneIn port lane s
  | .lctlLaneInAck port lane => Sys2Proof.Machine.execLctlLaneInAck port lane s
  | .fabNodeidWrite v => Sys2Proof.Machine.execFabNodeidWrite v s
  | .fabNbrWrite port v => Sys2Proof.Machine.execFabNbrWrite port v s
  | .schModeWrite v => Sys2Proof.Machine.execSchModeWrite v s
  | .schPolWrite host v => Sys2Proof.Machine.execSchPolWrite host v s
  | .schBudWrite host v => Sys2Proof.Machine.execSchBudWrite host v s
  | .cmpEpochWrite v => Sys2Proof.Machine.execCmpEpochWrite v s
  | .flpSpareWrite cluster ix v => Sys2Proof.Machine.execFlpSpareWrite cluster ix v s
  | .registerWrite view off size v inTime => Sys2Proof.Machine.execRegisterWrite view off size v inTime s
  | .rwqShadowApply f => Sys2Proof.Machine.execRwqShadowApply f s
  | .statusAck view off v => Sys2Proof.Machine.execStatusAck view off v s
  | .timNowRead view => Sys2Proof.Machine.execTimNowRead view s
  | .timSnapGo view => Sys2Proof.Machine.execTimSnapGo view s
  | .snapshotComplete view => Sys2Proof.Machine.execSnapshotComplete view s
  | .getVersion m => Sys2Proof.Machine.execGetVersion m s
  | .getCapabilities m => Sys2Proof.Machine.execGetCapabilities m s
  | .negotiateAlgorithms m => Sys2Proof.Machine.execNegotiateAlgorithms m s
  | .getDigests m => Sys2Proof.Machine.execGetDigests m s
  | .getCertificate m => Sys2Proof.Machine.execGetCertificate m s
  | .challenge m => Sys2Proof.Machine.execChallenge m s
  | .getMeasurements m => Sys2Proof.Machine.execGetMeasurements m s
  | .keyExchange m => Sys2Proof.Machine.execKeyExchange m s
  | .finish m => Sys2Proof.Machine.execFinish m s
  | .endSession m => Sys2Proof.Machine.execEndSession m s
  | .kSetGo stream tx set => Sys2Proof.Machine.execKSetGo stream tx set s
  | .lockInterfaceRequest vf => Sys2Proof.Machine.execLockInterfaceRequest vf s
  | .sbWrite off data pecOk => Sys2Proof.Machine.execSbWrite off data pecOk s
  | .sbRead off len pecOk => Sys2Proof.Machine.execSbRead off len pecOk s
  | .setdasa static dynamic => Sys2Proof.Machine.execSetdasa static dynamic s
  | .entdaa dynamic => Sys2Proof.Machine.execEntdaa dynamic s
  | .rstdaa => Sys2Proof.Machine.execRstdaa s
  | .enec events => Sys2Proof.Machine.execEnec events s
  | .disec events => Sys2Proof.Machine.execDisec events s
  | .getpid => Sys2Proof.Machine.execGetpid s
  | .getbcr => Sys2Proof.Machine.execGetbcr s
  | .getdcr => Sys2Proof.Machine.execGetdcr s
  | .getstatus => Sys2Proof.Machine.execGetstatus s
  | .getmwl => Sys2Proof.Machine.execGetmwl s
  | .getmrl => Sys2Proof.Machine.execGetmrl s
  | .alertResponseAddress => Sys2Proof.Machine.execAlertResponseAddress s
  | .smbalertTimeout => Sys2Proof.Machine.execSmbalertTimeout s
  | .sbBusRelease => Sys2Proof.Machine.execSbBusRelease s
  | .bypass => Sys2Proof.Machine.execBypass s
  | .idcode => Sys2Proof.Machine.execIdcode s
  | .samplePreload => Sys2Proof.Machine.execSamplePreload s
  | .extest => Sys2Proof.Machine.execExtest s
  | .clamp => Sys2Proof.Machine.execClamp s
  | .highz => Sys2Proof.Machine.execHighz s
  | .extestPulse => Sys2Proof.Machine.execExtestPulse s
  | .extestTrain => Sys2Proof.Machine.execExtestTrain s
  | .resetReleased sbSel sbAddr testEn refclkOk => Sys2Proof.Machine.execResetReleased sbSel sbAddr testEn refclkOk s
  | .revokeEpochIncrement ext => Sys2Proof.Machine.execRevokeEpochIncrement ext s
  | .tdispMessage vf r => Sys2Proof.Machine.execTdispMessage vf r s
  | .ideKmKeyProgramming stream tx set key => Sys2Proof.Machine.execIdeKmKeyProgramming stream tx set key s
  | .debugUnlockToken token => Sys2Proof.Machine.execDebugUnlockToken token s
  | .hostDmaReadComplete did d => Sys2Proof.Machine.execHostDmaReadComplete did d s
  | .undefinedFrameType port f => Sys2Proof.Machine.execUndefinedFrameType port f s
  | .unknownControlBlock port type => Sys2Proof.Machine.execUnknownControlBlock port type s
  | .interruptHoldoffExpiry sideband => Sys2Proof.Machine.execInterruptHoldoffExpiry sideband s
  | .sidebandResponderReady => Sys2Proof.Machine.execSidebandResponderReady s

end Sys2Proof.Machine
end

