-- ==== Sys2Proof/Machine/Time.lean ====
section
/-! DEFINITION. What passes with time alone: the clocks, and the progress counters of the extents (R502). -/

namespace Sys2Proof.Machine

-- DEDUCED, unsafe, log entry 99.
/-- Pages in a fenced unit or channel of the extent are still to be moved (R168, R333); a poisoned page is not moved. -/
def movesPending (s : State) (x : Ext) : Bool :=
  (domPages s x.td).any (fun p => !p.leaf.psn && x.chan.contains (frChan p.leaf.frame)
    && (codeUnit s (frUnit p.leaf.frame) == Code.fenced || codeChan s (frChan p.leaf.frame) == Code.fenced))

/-- The extent is useful in this nanosecond (R502). -/
def usefulNow (s : State) (x : Ext) : Bool :=
  !(s.att.reqs.any (fun r => r.host == x.host && r.zphLeft != []) || s.att.handoffHeld.any (fun h => h.host == x.host) || movesPending s x)

/-- CMP_SERVED and CMP_USEFUL advance by one nanosecond for every ACTIVE extent of a released node. -/
def serveExtents (s : State) : State :=
  if s.boot.phase = .released then
    s.cmp.exts.foldl (fun s e =>
      if e.2.state = ExtState.active then
        let s := bump (ctrExt e.1 0) s
        if usefulNow s e.2 then bump (ctrExt e.1 1) s else s
      else s) s
  else s

/-- One nanosecond with no command waiting. -/
def idle (s : State) : State := tick (serveExtents s)

end Sys2Proof.Machine
end

