-- ==== Sys2Proof/Safety.lean ====
section
/-! DEFINITION. What counts as a run that goes on, the invariant of the node, and the words the statements share: the command a row
starts, its answer in the mailbox, bytes unchanged. -/

namespace Sys2Proof.Machine

/-- A step answers a next state: neither a fault nor a refusal. -/
def State.Goes (s : State) : Prop := ∃ t, step s = .next t

/-- The byte memories have their canonical form, the error log holds at most 64 records (R619) and the handler's queue at most 64
entries (R630). -/
def State.Inv (s : State) : Prop := Memory.wf s = true ∧ s.err.log.length ≤ 64 ∧ s.err.queue.length ≤ 64

/-- A row with this code on channel `ch` starts the command `c`: it is the channel's oldest waiting command and may start, no other
command has its number, and its channel has not been reset since. -/
def Starts (s : State) (ch code : Nat) (c : Cmd) : Prop :=
  nextCmd s ch code = some c ∧ cmd? s c.id = some c ∧ c.discard = false

/-- The commands of `s` with `c` answered: `status` and the response body `rsp` (R548). -/
def answered (s : State) (c : Cmd) (status : Nat) (rsp : List Byte) : List Cmd :=
  s.mbx.cmds.filter (fun x => x.id != c.id) ++ [{ c with stage := .done, status := status, rekeyed := false, rsp := rsp }]

/-- `s` with nothing changed but the command `c`, answered. -/
def withAnswer (s : State) (c : Cmd) (status : Nat) (rsp : List Byte) : State := { s with mbx := { s.mbx with cmds := answered s c status rsp } }

/-- `t` is `s` with nothing changed but the mailbox channel `ch`, which is now `x`. -/
def OnlyChan (s t : State) (ch : Nat) (x : Chan) : Prop :=
  t = { s with mbx := { s.mbx with chans := t.mbx.chans } } ∧ chan t ch = x ∧ ∀ c, c ≠ ch → chan t c = chan s c

/-- `t` is `s` with nothing changed but the tenant domain `td`, which is now `d`, and the command `c`, answered. -/
def OnlyDomAnswer (s t : State) (td : Nat) (d : Dom) (c : Cmd) (rsp : List Byte) : Prop :=
  t = { s with doms := t.doms, mbx := { s.mbx with cmds := answered s c 0 rsp } } ∧ dom t td = d ∧ ∀ k, k ≠ td → dom t k = dom s k

/-- The command `c` has its answer in `t`. -/
def HasAnswer (t : State) (c : Cmd) (status : Nat) : Prop := ∃ x ∈ t.mbx.cmds, x.id = c.id ∧ x.stage = .done ∧ x.status = status

/-- Every byte of DRAM and of its check bits reads in `t` as in `s`. -/
def SameBytes (s t : State) : Prop := ∀ a, rd8 t.mem.dram a = rd8 s.mem.dram a ∧ rd8 t.mem.chk a = rd8 s.mem.chk a

/-- The command `c` names the sequence `d` by a well-formed reference and its key (R558), and `d` stands under its own number. -/
def Names (s : State) (c : Cmd) (d : SeqD) : Prop :=
  le c.body 0 8 % 2 ^ 40 = 0 ∧ (Sva.ofNat (le c.body 0 8)).td = c.td ∧ seq? s c.td (Sva.ofNat (le c.body 0 8)).seqn = some d
    ∧ d.td = c.td ∧ d.seqn = (Sva.ofNat (le c.body 0 8)).seqn ∧ rkeyOf d = le c.body 8 4

/-- `t` is `s` with nothing changed but the sequence `d.td`, `d.seqn`, which is now `d`, and the command `c`, answered. -/
def OnlySeqAnswer (s t : State) (d : SeqD) (c : Cmd) (rsp : List Byte) : Prop :=
  t = { s with seqs := t.seqs, mbx := { s.mbx with cmds := answered s c 0 rsp } } ∧ seq? t d.td d.seqn = some d
    ∧ ∀ td n, seqKey td n ≠ seqKey d.td d.seqn → seq? t td n = seq? s td n

/-- No work of the node waits for what has happened already: every append still to be applied stands in its unit's queue, no page of a request
is held for its unit, and every fence waits for an append. -/
def Settled (s : State) : Prop :=
  (∀ r ∈ issuedReqs s, r.bankHeld = [] ∧ ∀ a ∈ r.appLeft, appendQueued s r.id a.1 a.2 = true)
    ∧ ∀ c ∈ s.mbx.cmds, c.stage = .running → c.code = 0x0305 → ∃ n ∈ c.todo, n ∈ liveAppends s

/-- The raw bank command `c`, its descriptor `r`, can run at once (R129, R155, R156, R162): its sequence `d` is held and its key
right, the result has room, its destination page `dp` and its source page `sp` are private pages in frames `l` and `ls` that read
without an uncorrectable codeword, the appends that it waits for have been applied, no move is in progress, and it is the next operation of
its unit, which is good where the operation computes. -/
structure RawReady (s : State) (ch : Nat) (c : Cmd) (r : RawD) (d : SeqD) (dp sp : Nat) (l ls : Leaf) : Prop where
  starts : Starts s ch 0x0308 c
  desc : RawD.ofBytes c.body = r
  len : 64 ≤ c.body.length
  well : rawWell r (geomW (dom s c.td).geom) = true
  dtd : (Sva.ofNat r.dsva).td = c.td
  seq : seq? s c.td (Sva.ofNat r.dsva).seqn = some d
  own : d.td = c.td ∧ d.seqn = (Sva.ofNat r.dsva).seqn
  here : d.here = true
  key : rkeyOf d = r.rkey
  room : resultLen r (geomT (dom s c.td).geom) ≤ r.rlen
  dma : dmaStopped s c.td = false
  dest : rawPage s d r.dsva = (0, dp, some l)
  walk : walk s d dp = .page l l ∧ l.tier = .dram ∧ l.psn = false
  unit : 3 ≤ r.opc → codeUnit s (frUnit l.frame) = .good
  turn : lookD [] s.att.units (frUnit l.frame) = [] ∨ nextOp s (frUnit l.frame) = some (.raw c.id)
  runs : pairRuns s (frUnit l.frame) = true
  settled : Settled s
  clean : (rdPage s.mem l.frame 0 69632).bad = [] ∧ (rdPage s.mem l.frame r.doff (32 * r.ncw)).bad = []
  quiet : (∀ n ∈ c.todo, n ∉ liveAppends s) ∧ isMoving s d.td d.seqn dp = false
  source : usesSource r.opc = true → (Sva.ofNat r.ssva).td = c.td ∧ (Sva.ofNat r.ssva).seqn = (Sva.ofNat r.dsva).seqn
    ∧ rawPage s d r.ssva = (0, sp, some ls) ∧ Machine.walk s d sp = .page ls ls ∧ ls.tier = .dram ∧ ls.psn = false
    ∧ (Machine.ch s (frChan ls.frame)).retraining = false
    ∧ (rdPage s.mem ls.frame r.soff (srcBytes r (geomW (dom s c.td).geom))).bad = []

/-- The bytes that a raw command reads of its source. -/
def rawSource (s : State) (c : Cmd) (r : RawD) (ls : Leaf) : List Byte :=
  if usesSource r.opc then (rdPage s.mem ls.frame r.soff (srcBytes r (geomW (dom s c.td).geom))).bytes else []

/-- Every byte of DRAM outside [lo, hi) reads in `t` as in `s`, and every check byte outside those of its codewords. -/
def SameOutside (s t : State) (lo hi : Nat) : Prop :=
  (∀ a, a < lo ∨ hi ≤ a → rd8 t.mem.dram a = rd8 s.mem.dram a) ∧ ∀ a, a < lo / 8 ∨ hi / 8 ≤ a → rd8 t.mem.chk a = rd8 s.mem.chk a

/-- `bs` is the next record of the import `c`: its sequence `d` and session `x` are there, its fields continue the import and its tag is
right (R498, R499, R501). -/
structure RecordFits (s : State) (c : Cmd) (bs : List Byte) (d : SeqD) (x : Sess) : Prop where
  cmd : cmd? s c.id = some c
  kept : c.discard = false
  seq : seq? s (impSva c).td (impSva c).seqn = some d
  own : d.td = (impSva c).td ∧ d.seqn = (impSva c).seqn
  sess : sess? s false (impSva c).td (le c.body 24 4) = some x
  alive : importDead s c = false
  version : nbits (le bs 0 8) 55 52 = 1
  sva : (Sva.ofNat (le bs 8 8)).td = d.td ∧ (Sva.ofNat (le bs 8 8)).seqn = d.seqn ∧ le bs 8 8 % 2 ^ 40 = 0
  since : nbits (le bs 16 8) 31 0 = le c.body 16 4
  index : le bs 32 8 = (Imp.ofCmd c).index
  xid : (Imp.ofCmd c).index ≠ 0 → nbits (le bs 24 8) 63 32 = (Imp.ofCmd c).xid ∧ nbits (le bs 16 8) 63 32 = (Imp.ofCmd c).ckep
  geom : le bs 56 8 = (dom s d.td).geom.toNat
  tag : bs.drop (64 + nbits (le bs 0 8) 31 0) = beBytes (gcmTag x.exportKey (recIv (nbits (le bs 24 8) 63 32) (le bs 32 8)) (bs.take 64) (slice bs 64 (nbits (le bs 0 8) 31 0))).toNat 16

/-- The body of a record, in clear (R499). -/
def recordBody (x : Sess) (bs : List Byte) : List Byte :=
  fit (gcmCrypt x.exportKey (recIv (nbits (le bs 24 8) 63 32) (le bs 32 8)) (slice bs 64 (nbits (le bs 0 8) 31 0))) (nbits (le bs 0 8) 31 0)

/-- Between `s` and `t` the queue pair `n` has one message more to send, of OWNER frames (R488, R489). -/
def SendsOwner (s t : State) (n : Nat) : Prop :=
  ∃ q q' m, qp? s n = some q ∧ qp? t n = some q' ∧ q' = { q with sendq := q.sendq ++ [m], msns := (q.msns + 1) % 2 ^ 24 } ∧ m.msn = q.msns
    ∧ m.frames ≠ [] ∧ ∀ f ∈ m.frames, f.ftype = 7 ∧ f.cls = .owner ∧ f.dst = q.peer ∧ f.td = q.td

/-- Every sequence but `td`, `seqn` is in `t` as in `s`. -/
def OtherSeqs (s t : State) (td seqn : Nat) : Prop := ∀ k n, seqKey k n ≠ seqKey td seqn → seq? t k n = seq? s k n

/-- The bank-path request `r` has one page, of the head `h` and token page `tp`: its sequence `d` maps it by the entry `l` to a frame in force `e`
that is not poisoned, on a good unit, and nothing of the request waits or is in progress (R99, R145, R147). -/
def BankPage (s : State) (r : Req) (h tp : Nat) (d : SeqD) (l e : Leaf) : Prop :=
  onBank r = true ∧ r.fence = false ∧ r.appLeft = [] ∧ r.unitLeft = [] ∧ r.grpLeft = [] ∧ r.zphLeft = [] ∧ headsOf r.hmask = [h]
    ∧ rangePages r (tokT s r.td) = [tp] ∧ seq? s r.td r.seqn = some d ∧ walk s d (pageIx r.layer h tp) = .page l e ∧ e.tier = .dram
    ∧ e.psn = false ∧ codeUnit s (frUnit e.frame) = .good

/-- The page `p` of the request `r` is computed from its DRAM frame by the entry `l` that its issue gave (R66, R83, R114). -/
def PageReady (s : State) (r : Req) (p : PageRef) (l : Leaf) : Prop :=
  p.leaf = some l ∧ l.tier = .dram ∧ l.psn = false ∧ codeChan s (frChan l.frame) = .good ∧ r.fence = false ∧ r.app = false

/-- The partial that such a page gives: of its bytes, or of a poisoned page when a codeword it reads is uncorrectable (R130, R143). -/
def pageResult (s : State) (r : Req) (p : PageRef) (l : Leaf) : Part :=
  if (readFor s r p.tpage l.frame).bad = [] then pagePart s r p (readFor s r p.tpage l.frame).bytes else poisonPart s r p

/-- The row `i` is the row of the frame `f` at port `p`, by its type and, for an OWNER message, by its MTYPE (R392, R489). -/
def FrameRow (s : State) (i : Instr) (p : Nat) (f : Frame) : Prop :=
  (i, f.ftype) ∈ [(.attend p f, 1), (.write p f, 2), (.readReq p f, 3), (.readResp p f, 4), (.ack p f, 5), (.nak p f, 6)] ∨
    f.ftype = 7 ∧ (i, ownerType s f) ∈ [(.accept p f, 2), (.copied p f, 3), (.handoff p f, 4), (.taken p f, 5), (.abort p f, 6), (.resolve p f, 8),
      (.resolveSet p f, 10)] ∨
    f.ftype = 7 ∧ i = .offer p f ∧ ownerType s f ∉ [2, 3, 4, 5, 6, 8, 10]

/-- The frame `f` at port `p` passes the checks and the meter (R394, R456) and finds its queue pair `q` READY and on-node (R404). -/
structure Arrives (s : State) (p : Nat) (f : Frame) (q : Qp) : Prop where
  passes : (checkFrame p f s).1 = true
  plain : f.mgmt = false
  admitted : (police p f (checkFrame p f s).2).1 = true
  queue : qp? s f.qpn = some q
  own : q.td = f.td ∧ q.peer = f.src
  ready : q.state = .ready ∧ q.onNode = true

/-- The frame's PSN is new and in the window (R432). -/
def Fresh (q : Qp) (f : Frame) : Prop :=
  psnSub f.psn q.epsn < psnHalf ∧ psnSub f.psn q.epsn ≤ q.win ∧ psnSub f.psn q.epsn ∉ q.rbits

/-- The frame is the next of its queue pair and nothing before it waits (R429, R432). -/
def InTurn (q : Qp) (f : Frame) : Prop := psnSub f.psn q.epsn = 0 ∧ q.rbits = [] ∧ q.unapplied = [] ∧ q.ordered = []

/-- A NAK for `psn` waits on the port `pn` for the peer of `q` (R434). -/
def Naked (t : State) (pn : Nat) (q : Qp) (psn code info : Nat) : Prop :=
  ∃ x ∈ (port t pn).ackq, x.ftype = 6 ∧ x.dst = q.peer ∧ x.qpn = q.pqpn ∧ x.payload = leBytes (psn * 2 ^ 40 + code * 2 ^ 32 + info) 8 ++ zeros 8

/-- The frame `f` is a whole OWNER message `m` whose turn has come (R429, R488), and nothing else of the node's work is due. -/
structure OwnerIn (s : State) (p : Nat) (f : Frame) (q : Qp) (m : OwnerM) : Prop where
  arrives : Arrives s p f q
  type : f.ftype = 7 ∧ f.final = true
  turn : InTurn q f
  whole : look q.owner f.msn = none
  msg : OwnerM.ofBytes f.payload = m ∧ m.ver = 1 ∧ 64 ≤ f.payload.length
  td : (Sva.ofNat m.sva).td = q.td
  free : ownerWaits s f.payload = false
  settled : Settled s

/-- The queue pair `n` has in `t` one more OWNER message to send than in `s`, with this MTYPE, STATUS and PEER (R488). -/
def OwnerSent (s t : State) (n td seqn mtype status peer : Nat) : Prop :=
  ∃ q q' l, qp? s n = some q ∧ qp? t n = some q' ∧ q'.sendq = q.sendq ++ l ∧ ∃ m ∈ l, ∃ x ∈ m.frames, x.ftype = 7 ∧ x.dst = q.peer
    ∧ ∃ u dec ntp g, x.payload.take 64 = ownerHeader u td seqn mtype status peer dec ntp g

/-- No request of the sequence is held during its hand-off (R485). -/
def NoneHeld (s : State) (td seqn : Nat) : Prop := ∀ h ∈ s.att.handoffHeld, ¬ (h.td = td ∧ h.seqn = seqn)

/-- The port `pn` sends the frame `f` first: its counter is the session's next and its tag is right (R396, R398). -/
def SendsFrame (s t : State) (pn : Nat) (f : TxFrame) (x : Sess) : Prop :=
  ∃ fr, t.out = .frame pn fr :: s.out ∧ fr.ftype = f.ftype ∧ fr.td = f.td ∧ fr.src = nodeId s ∧ fr.dst = f.dst ∧ fr.qpn = f.qpn ∧ fr.psn = f.psn
    ∧ fr.final = f.final ∧ fr.payload = f.payload ∧ fr.fcnt = x.fcnt ∧ fr.tag = frameTag x.frameKey { fr with tag := 0 }
    ∧ sess? t false f.td f.dst = some { x with fcnt := x.fcnt + 1 }

/-- Plain registers of four bytes in the physical function's view, with the bits that a write stores (R11, R646, chapter 20). -/
def PlainReg (off : Nat) (mask : W32) : Prop :=
  (off, mask) ∈ [(0x8000, 0x80FFFFFF#32), (0x9000, 0x8FFFFFFF#32), (0xB008, 0xFFFFFFFF#32), (0xC000, 0xFFFFFFFF#32), (0xC004, 0xFFFFFFFF#32)] ∨
    (∃ k, k < 64 ∧ off = 0xA000 + 4 * k ∧ mask = 0x1FFFFF#32) ∨ (∃ k, k < 4096 ∧ off = 0x14000 + 4 * k ∧ mask = 0xF#32) ∨
    (∃ k, k < 64 ∧ off = 0x20100 + 4 * k ∧ mask = 0xFF#32) ∨ (∃ k, k < 16 ∧ k % 4 ≠ 0 ∧ off = 0x20200 + 4 * k ∧ mask = 0xFFF8FFFF#32) ∨
    (∃ k, k < 4096 ∧ off = 0x24000 + 4 * k ∧ mask = 0x800003FF#32) ∨ (∃ k, k < 1024 ∧ off = 0x28000 + 4 * k ∧ mask = 0xFFFFFFFF#32) ∨
    (∃ k, k < 1024 ∧ off = 0x29000 + 4 * k ∧ mask = 0xFFFF#32) ∨ (∃ k, k < 4 ∧ off = 0x50000 + 4 * k ∧ mask = 0xFFFFFF#32)

/-- A write of `v` over a status register whose SEQ is `q` leaves SEQ at `q'` (R649, R650). -/
def SeqAfter (q v q' : Nat) : Prop :=
  (v ≠ min q 0xFFFF → q' = q) ∧ (v = q → q ≤ 0xFFFF → q' = 0) ∧ (q = 0x10000 → v = 0xFFFF → q' = 1)

end Sys2Proof.Machine
end

