-- ==== Sys2Proof/Certificates/Slice0/Obligations.lean ====
section
/-! DEFINITION. The statements for the provers: the node's step and invariant, then one statement for each group of commands. A statement's
docstring names the rules of the spec it rests on. -/

open Sys2Proof Sys2Proof.Machine

/-- A step with a command waiting runs that command on the state with the queue's rest. -/
def Obligations.StepRunsFront : Prop := ∀ s c q, s.pending = c :: q → step s = exec c { s with pending := q }

/-- A step with no command waiting lets one nanosecond pass, and only clocks and the extents' progress counters change (R502, R656; the step's
length is the model's choice, log entry 1). -/
def Obligations.IdleStep : Prop :=
  (∀ s, s.pending = [] → ∃ t, step s = .next t
    ∧ t = { s with clk := t.clk, now := t.now, boot := { s.boot with t := t.boot.t }, regs := { s.regs with ctr := t.regs.ctr } }
    ∧ t.clk = s.clk + (if s.pwr.powered then 1 else 0)
    ∧ t.now = s.now + (if s.pwr.powered ∧ (s.boot.phase = .released ∨ s.now ≠ 0) then 1 else 0)
    ∧ (s.boot.phase ≠ .released → t.regs.ctr = s.regs.ctr)) ∧
  (∀ s e x, s.pending = [] → s.boot.phase = .released → s.cmp.exts = [(e, x)] → x.state = .active →
    ∃ t, step s = .next t ∧ lookD 0 t.regs.ctr (ctrExt e 0) = lookD 0 (bump (ctrExt e 0) s).regs.ctr (ctrExt e 0)
      ∧ lookD 0 t.regs.ctr (ctrExt e 1) = lookD 0 (if usefulNow s x then bump (ctrExt e 1) s else s).regs.ctr (ctrExt e 1))

/-- The invariant holds at reset. -/
def Obligations.InvAtReset : Prop := State.reset.Inv

/-- Every step keeps the invariant: memory in its canonical form, at most 64 records in the log, at most 64 entries in the handler's queue. -/
def Obligations.StepKeepsInv : Prop := ∀ s t, s.Inv → step s = .next t → t.Inv

/-- No command touches the queue of commands that wait. -/
def Obligations.CommandsKeepQueue : Prop := ∀ c s t, exec c s = .next t → t.pending = s.pending

/-- Every command completes in every state: it ends in a next state, never in a fault or a refusal. -/
def Obligations.EveryCommandCompletes : Prop := ∀ c s, ∃ t, exec c s = .next t

/-- SEQ of a status register stays at 0xFFFF once there; an event after that makes a write-back of 0xFFFF set SEQ to 1 and clear nothing (R650). -/
def Obligations.SeqSaturation : Prop :=
  (∀ n, seqRead n ≤ 0xFFFF ∧ (n ≤ 0xFFFF → seqRead n = n) ∧ (seqRead n = 0xFFFF → seqRead (seqBump n) = 0xFFFF)) ∧
  (∀ s c b view off v, viewServed s view = true → (view, off, c) ∈ ((List.range 8).map (fun k => (View.pf, 0x3200C + 0x4000 * k, k))
      ++ (List.range 64).map (fun n => (View.vf n, 0x200C, 8 + n)) ++ [(View.sb, 0x200C, 72)]) →
    seqRead (chan s c).evtSeq = 0xFFFF → v.toNat / 2 ^ 16 = 0xFFFF →
    let u := mbxEvent c b s
    seqRead (chan u c).evtSeq = 0xFFFF
      ∧ ∃ t, exec (.statusAck view off v) u = .next t ∧ chan t c = { chan u c with evtSeq := 1 } ∧ (∀ k, k ≠ c → chan t k = chan u k) ∧ t = { u with mbx := t.mbx }) ∧
  (∀ s v, s.up = true → v.toNat / 2 ^ 16 = 0xFFFF →
    (seqRead s.boot.seq.pf = 0xFFFF → exec (.statusAck .pf 0 v) { s with boot := { s.boot with seq := s.boot.seq.bump } }
      = .next { s with boot := { s.boot with seq := { s.boot.seq.bump with pf := 1 } } }) ∧
    (seqRead s.err.seq.pf = 0xFFFF → exec (.statusAck .pf 0x4000 v) { s with err := { s.err with seq := s.err.seq.bump } }
      = .next { s with err := { s.err with seq := { s.err.seq.bump with pf := 1 } } }) ∧
    (seqRead s.att.zph0.seq.pf = 0xFFFF → exec (.statusAck .pf 0x7000 v) { s with att := { s.att with zph0 := { s.att.zph0 with seq := s.att.zph0.seq.bump } } }
      = .next { s with att := { s.att with zph0 := { s.att.zph0 with seq := { s.att.zph0.seq.bump with pf := 1 } } } }) ∧
    (seqRead s.att.zph1.seq.pf = 0xFFFF → exec (.statusAck .pf 0x7004 v) { s with att := { s.att with zph1 := { s.att.zph1 with seq := s.att.zph1.seq.bump } } }
      = .next { s with att := { s.att with zph1 := { s.att.zph1 with seq := { s.att.zph1.seq.bump with pf := 1 } } } }) ∧
    (∀ p, p < 4 → seqRead (port s p).seq.pf = 0xFFFF →
      ∃ t, exec (.statusAck .pf (0x10200 + 4 * p) v) (setPort p { port s p with seq := (port s p).seq.bump } s) = .next t
        ∧ port t p = { port s p with seq := { (port s p).seq.bump with pf := 1 } }) ∧
    (∀ td, td < 64 → seqRead (dom s td).tdstSeq.pf = 0xFFFF →
      ∃ t, exec (.statusAck .pf (0x5000 + 4 * td) v) (setDom td { dom s td with tdstSeq := (dom s td).tdstSeq.bump } s) = .next t
        ∧ dom t td = { dom s td with tdstSeq := { (dom s td).tdstSeq.bump with pf := 1 } }) ∧
    ∀ td, td < 64 → seqRead (dom s td).tdstSeq.alt = 0xFFFF →
      ∃ t, exec (.statusAck (.vf td) 0x20100 v) (setDom td { dom s td with tdstSeq := (dom s td).tdstSeq.bump } s) = .next t
        ∧ dom t td = { dom s td with tdstSeq := { (dom s td).tdstSeq.bump with alt := 1 } })

/-- Registers are accessed whole or, those of 8 bytes, in halves: the lower half is held until the upper one arrives, and an upper half alone takes
the register's current lower half. Any other access reads all ones and writes nothing (R645). -/
def Obligations.AccessSizes : Prop :=
  (∀ s view off v w, s.up = true → view ≠ .sb → wide view off = true → off % 8 = 0 →
    ∃ t u u', exec (.registerWrite view off 4 v true) s = .next t ∧ t = { s with regs := { s.regs with low := t.regs.low } }
      ∧ exec (.registerWrite view (off + 4) 4 w true) t = .next u
      ∧ exec (.registerWrite view off 8 (w.truncate 32 ++ v.truncate 32 : BitVec 64) true) s = .next u'
      ∧ u = { u' with regs := { u'.regs with low := u.regs.low } }) ∧
  (∀ s view off w, s.up = true → view ≠ .sb → wide view off = true → off % 8 = 0 → look s.regs.low (viewNum view * 2 ^ 28 + off) = none →
    ∃ u, exec (.registerWrite view (off + 4) 4 w true) s = .next u
      ∧ exec (.registerWrite view off 8 (w.truncate 32 ++ BitVec.ofNat 32 (wideValue s view off) : BitVec 64) true) s = .next u) ∧
  (∀ s view off size v, s.boot.phase ≠ .failed → ¬(size = 4 ∧ off % 4 = 0) → ¬(size = 8 ∧ off % 8 = 0 ∧ wide view off = true) →
    (¬(size = 8 ∧ off % 8 = 0 ∧ inBuffer view off = true) → readReg s view off size = 2 ^ (8 * size) - 1)
      ∧ ((∀ c o, windowAt view off = some (c, o) → 0x1000 ≤ o) → exec (.registerWrite view off size v true) s = .next s)) ∧
  (∀ s view off, wide view off = true ∨ inBuffer view off = true → off % 8 = 0 → s.boot.phase ≠ .failed → (view ≠ .sb → off ∉ [0x2000, 0x20000]) →
    readReg s view off 8 % 2 ^ 32 = readReg s view off 4 ∧ readReg s view off 8 / 2 ^ 32 % 2 ^ 32 = readReg s view (off + 4) 4)

/-- A record of class 0 to 2 with the CODE, SVA and LOC of a record written less than 1 ms earlier is counted in that record; any other, and every
one of class 3 to 5, is written (R620). -/
def Obligations.RecordsCoalesced : Prop :=
  (∀ s e r, s.err.fatal = false → e.cls ≤ 2 →
    s.err.log.reverse.find? (fun x => x.code == e.code && x.sva == (mkRec s e false false false 0).sva && x.loc == e.loc) = some r → s.clk < r.at_ + 1000000 →
    report e s = bump (ctrNode 0x08) { s with err := { s.err with
      log := s.err.log.map (fun x => if x.eseq = r.eseq then { x with cnt := satAdd32 x.cnt 1 } else x) } }) ∧
  (∀ s e, s.err.fatal = false →
    3 ≤ e.cls ∨ (∀ r, s.err.log.reverse.find? (fun x => x.code == e.code && x.sva == (mkRec s e false false false 0).sva && x.loc == e.loc) = some r →
      r.at_ + 1000000 ≤ s.clk) →
    ∃ r ∈ (report e s).err.log, r.eseq = s.err.nextEseq ∧ r.code = e.code ∧ r.cls = e.cls ∧ r.loc = e.loc ∧ r.cnt = 1 ∧ r.at_ = s.clk
      ∧ r.info = e.info ∧ r.tag = e.tag)

/-- Power and the reset pins (R576, R578, R579, R612, R614). -/
def Obligations.PowerOnAndResetPins : Prop :=
  (∀ s, s.pwr.powered = false →
    exec (.powerOn [1, 2, 3, 4, 5]) s = .next { State.reset with
      pending := s.pending, free := s.free, draws := s.draws, out := s.out
      pwr := { Pwr.reset with powered := true, orderOk := true } }) ∧
  (∀ s groups, s.pwr.powered = false → groups ≠ [1, 2, 3, 4, 5] →
    ∃ t, exec (.powerOn groups) s = .next t ∧ t.pwr.powered = true ∧ t.pwr.orderOk = false
      ∧ t.boot.phase = .failed ∧ t.boot.cause = 1 ∧ t.pending = s.pending) ∧
  (∀ s sel addr, s.pwr.powered = true → s.pwr.pwrOk = false → s.pwr.thermTrip = false → s.pwr.orderOk = true → s.side.boundary = false →
    exec (.pwrOkAssert sel addr false true) s = .next { s with
      pwr := { s.pwr with pwrOk := true, perst := false, nodeRst := false, sbSel := sel, sbAddr := addr, testEn := false }
      boot := { s.boot with running := true, t := 0 } }) ∧
  (∀ s sel addr, s.pwr.pwrOk = true → s.pwr.perst = true ∨ s.pwr.nodeRst = true → s.pwr.thermTrip = false → s.pwr.orderOk = true →
    s.side.boundary = false →
    exec (.resetReleased sel addr false true) s = .next { s with
      pwr := { s.pwr with perst := false, nodeRst := false, sbSel := sel, sbAddr := addr, testEn := false }
      boot := { s.boot with running := true, t := 0 } }) ∧
  (∀ s i, i = .nodeRstN ∨ i = .perst → s.pwr.powered = true → s.pwr.orderOk = true →
    ∃ t, exec i s = .next t ∧ t.boot = Boot.reset ∧ t.floor = Floor.reset ∧ t.mem = Mem.reset ∧ t.seqs = [] ∧ t.doms = []
      ∧ t.net = Net.reset ∧ t.fab = Fab.reset ∧ t.mbx = Mbx.reset ∧ t.regs = Regs.reset
      ∧ t.err = { Err.reset with crash := s.err.crash } ∧ t.sec = { Sec.reset with debug := s.sec.debugArmed }
      ∧ t.side = { s.side with boundary := false } ∧ t.pending = s.pending
      ∧ t.pwr = { s.pwr with throttled := [], temps := [], pkg := 0, nodeRst := s.pwr.nodeRst || i == .nodeRstN, perst := s.pwr.perst || i == .perst })

/-- Rails, clocks and temperatures (R24, R27, R667, R680, R682 to R684, R690). -/
def Obligations.RailsClocksTemperatures : Prop :=
  (∀ s, s.pwr.powered = true → exec (.railFault false) s = .next { State.reset with
      pending := s.pending, free := s.free, draws := s.draws, out := s.out }) ∧
  (∀ s sensor temp, s.outOfReset = true → (if sensor < 24 then 105 else 115) ≤ temp →
    exec (.thermalTrip sensor temp) s = .next { State.reset with
      pending := s.pending, free := s.free, draws := s.draws, out := s.out, clk := s.clk
      pwr := { Pwr.reset with powered := true, orderOk := s.pwr.orderOk, pwrOk := true, perst := false, nodeRst := false, thermTrip := true, sbReady := s.pwr.sbReady } }) ∧
  (∀ s sensor temp, s.outOfReset = true → (if sensor < 24 then 95 else 100) < temp →
    exec (.thermalThrottle sensor temp) s = .next { s with pwr := { s.pwr with throttled := sensor :: s.pwr.throttled.filter (· != sensor) } }) ∧
  (∀ s sensor temp, s.outOfReset = true → temp ≤ (if sensor < 24 then 95 else 100) →
    exec (.thermalThrottle sensor temp) s = .next { s with pwr := { s.pwr with throttled := s.pwr.throttled.filter (· != sensor) } }) ∧
  (∀ s power temps, s.outOfReset = true → ∃ t, exec (.powerMonitorRefresh power temps) s = .next t ∧ t.pwr.pkg = min power 65535
      ∧ (∀ k, k < 26 → look t.pwr.temps k = some (decide (k < 24 ∧ 85 < min (temps.getD k 0) 255), min (temps.getD k 0) 255))
      ∧ t = { s with pwr := { s.pwr with pkg := t.pwr.pkg, temps := t.pwr.temps } }) ∧
  (∀ s, s.pwr.powered = true → 1000000 ≤ s.clk →
    exec .sidebandResponderReady s = .next { s with pwr := { s.pwr with sbReady := true } }) ∧
  (∀ s i cause code, (∃ n, i = .clockLockLoss n) ∧ cause = 4 ∧ code = 0x0051 ∨ (∃ n, i = .d2dLinkFailure n) ∧ cause = 5 ∧ code = 0x0052 →
    s.outOfReset = true → s.boot.portsTrained = true → s.err.fatal = false →
    ∃ t r, exec i s = .next t ∧ t.boot.phase = .failed ∧ t.boot.cause = cause ∧ t.err.fatal = true
      ∧ t.err.log.getLast? = some r ∧ r.code = code ∧ r.cls = 5 ∧ r.fatal = true
      ∧ t.sec.slots = [] ∧ t.net.sess = [] ∧ t.net.spillKey = 0 ∧ t.mem.flashKey = 0 ∧ SameBytes s t ∧ t.seqs = s.seqs)

/-- Fuses, boot device, keys and certificate (R513 to R517, R582, R583, R586, R587, R606). -/
def Obligations.BringupToKeys : Prop :=
  (∀ s f, bringingUp s .rails = true → f.correctable = true →
    ∃ t, exec (.fuseLoad f) s = .next t ∧ t.boot.phase = .fuses ∧ t.boot.fuses = some f ∧ t.boot.udsLocked = true
      ∧ (∀ k ∈ f.defClus, codeClus t k = .fusedOff) ∧ (∀ k ∈ f.defUnit, codeUnit t k = .fusedOff) ∧ (∀ k ∈ f.defChan, codeChan t k = .fusedOff)
      ∧ (∀ k, k ∉ f.defClus → codeClus t k = codeClus s k) ∧ (∀ k, k ∉ f.defUnit → codeUnit t k = codeUnit s k)
      ∧ (∀ k, k ∉ f.defChan → codeChan t k = codeChan s k)
      ∧ t = { s with boot := t.boot, floor := t.floor }) ∧
  (∀ s f d, bringingUp s .fuses = true → s.boot.fuses = some f → boardOk (bootBoard d) = true → s.err.fatal = false →
    ∃ t, exec (.bootSlotVerify d) s = .next t
      ∧ (directoryOk d = true → slotOk f (bootSlotA d) = true → t.boot.phase = .bootImage ∧ t.boot.imageOk = true ∧ t.boot.slotb = s.boot.slotb
        ∧ t.boot.svn = le (bootSlotA d).header 12 4 ∧ t.boot.fwdig = sha3_384 (bootSlotA d).body ∧ t.boot.certs = bootCerts d
        ∧ t.boot.board = boardOf (bootBoard d) ∧ t = { s with boot := t.boot })
      ∧ (directoryOk d = true → slotOk f (bootSlotA d) = false → slotOk f (bootSlotB d) = true → t.boot.phase = .bootImage ∧ t.boot.imageOk = true
        ∧ t.boot.slotb = true ∧ t.boot.afail = true ∧ t.boot.svn = le (bootSlotB d).header 12 4 ∧ t.boot.fwdig = sha3_384 (bootSlotB d).body
        ∧ t.boot.board = boardOf (bootBoard d) ∧ t = { s with boot := t.boot })
      ∧ (directoryOk d = false ∨ slotOk f (bootSlotA d) = false ∧ slotOk f (bootSlotB d) = false → t.boot.phase = .failed ∧ t.boot.cause = 3)) ∧
  (∀ s f, bringingUp s .bootImage = true → s.boot.imageOk = true → s.boot.fuses = some f → s.sec.debug = false → s.err.fatal = false →
    let did := shake256 (ascii "RELORN-DID-1" ++ beBytes f.uds.toNat 32) 96
    ∃ t, exec .keyDerivation s = .next t ∧ t.boot.phase = .controlStart ∧ t.sec.didSeed = did
      ∧ t.sec.spdmKey = be (shake256 (ascii "RELORN-SPDM-1" ++ beBytes f.uds.toNat 32) 64) 0 64 % (p384n - 1) + 1
      ∧ (Config.certKey s.boot.certs = Config.slhPublic256s did → Config.certSigned s.boot.certs f.rooth = true →
        t.sec.identity = true ∧ t = { s with boot := t.boot, sec := t.sec })
      ∧ (Config.certKey s.boot.certs ≠ Config.slhPublic256s did ∨ Config.certSigned s.boot.certs f.rooth = false →
        t.sec.identity = s.sec.identity ∧ ∃ r, t.err.log.getLast? = some r ∧ r.code = 0x0050)) ∧
  (∀ s, controlRuns s = true → s.boot.aliasSigned = false →
    let content := leBytes Config.serial.toNat 8 ++ Config.slhPublic256f s.sec.aliasSeed ++ digestBytes s.boot.fwdig ++ leBytes s.boot.svn 4
    exec .aliasCertificateSign s = .next { s with
      boot := { s.boot with aliasSigned := true }
      sec := { s.sec with aliasCert := Config.aliasCert content (Config.slhSign256s s.sec.didSeed content) } }) ∧
  (∀ s w, s.err.fatal = false → (w = .heartbeat ∧ controlRuns s = true ∨ w = .timeout ∧ s.outOfReset = true ∧ s.boot.running = true ∧ 24000000000 ≤ s.boot.t) →
    ∃ t, exec (.bringupWatchdog w) s = .next t ∧ t.boot.phase = .failed ∧ t.boot.cause = 7 ∧ SameBytes s t ∧ t.seqs = s.seqs)

/-- Format, waves, training, clearing, broadcast, qualification, publication (R210 to R212, R293, R591 to R603). -/
def Obligations.BringupToRelease : Prop :=
  (∀ s l, controlRuns s = true → s.boot.flashDone = false →
    ∃ t, exec (.flashFormat l) s = .next t ∧ t.boot.flashDone = true ∧ t.seqs = s.seqs ∧ SameBytes s t
      ∧ t.mem.flashKey = BitVec.ofNat 512 (Config.trng 512 s.draws % 2 ^ 512)
      ∧ (∀ k ∈ t.mem.fenced, k < 32)) ∧
  (∀ s, bringingUp s .controlStart = true ∨ bringingUp s .waves = true → s.boot.stackWaves < 6 →
    ∃ t, exec .powerWave s = .next t ∧ t.boot.phase = .waves ∧ t.boot.stackWaves = s.boot.stackWaves + 1 ∧ t.boot.clusWaves = s.boot.clusWaves
      ∧ t = { s with boot := t.boot }) ∧
  (∀ s, bringingUp s .controlStart = true ∨ bringingUp s .waves = true → s.boot.stackWaves = 6 → s.boot.clusWaves < 13 →
    ∃ t, exec .powerWave s = .next t ∧ t.boot.phase = .waves ∧ t.boot.stackWaves = 6 ∧ t.boot.clusWaves = s.boot.clusWaves + 1
      ∧ t = { s with boot := t.boot }) ∧
  (∀ s f failed d2d k, bringingUp s .waves = true → s.boot.stackWaves = 6 → s.boot.clusWaves = 13 → s.boot.fuses = some f →
    ((nats 64).filter (fun i => d2d.testBit i)).length ≤ f.d2dSpares →
    ∃ t, exec (.stackPortTraining failed d2d) s = .next t ∧ t.boot.phase = .training ∧ t.boot.portsTrained = true
      ∧ (∀ st n, (st, n) ∈ t.boot.stackSparesUsed ↔ st < 24 ∧ n = lookD 0 failed st ∧ 0 < n ∧ n ≤ f.stackSpares.getD st 0)
      ∧ t.boot.d2dSparesUsed = ((nats 64).filter (fun i => d2d.testBit i)).length
      ∧ codeChan t k = (if k < 768 ∧ f.stackSpares.getD (k / 32) 0 < lookD 0 failed (k / 32) ∧ codeChan s k = .good then .failed else codeChan s k)
      ∧ codeUnit t k = (if k < 6912 ∧ f.stackSpares.getD (k / 288) 0 < lookD 0 failed (k / 288) ∧ codeUnit s k = .good then .failed else codeUnit s k)
      ∧ t = { s with boot := t.boot, floor := { s.floor with chan := t.floor.chan, unit := t.floor.unit } }) ∧
  (∀ s f failed d2d, bringingUp s .waves = true → s.boot.stackWaves = 6 → s.boot.clusWaves = 13 → s.boot.fuses = some f → s.err.fatal = false →
    f.d2dSpares < ((nats 64).filter (fun i => d2d.testBit i)).length →
    ∃ t, exec (.stackPortTraining failed d2d) s = .next t ∧ t.boot.phase = .failed ∧ t.boot.cause = 5 ∧ SameBytes s t ∧ t.seqs = s.seqs) ∧
  (∀ s fail1 fail2 k, bringingUp s .training = true → s.boot.portsTrained = true →
    ∃ t, exec (.channelTraining fail1 fail2) s = .next t ∧ t.boot.chansTrained = true
      ∧ codeChan t k = (if k ∈ fail1 ∧ k ∈ fail2 ∧ codeChan s k = .good then .failed else codeChan s k)
      ∧ t = { s with boot := t.boot, floor := { s.floor with chan := t.floor.chan } }) ∧
  (∀ s a, bringingUp s .training = true → s.boot.chansTrained = true →
    ∃ t, exec .bringupZeroFill s = .next t ∧ t.boot.phase = .clearing ∧ rd8 t.mem.dram a = 0 ∧ rd8 t.mem.chk a = 0
      ∧ t = { s with boot := t.boot, mem := { s.mem with dram := [], chk := [], frames := [] } }) ∧
  (∀ s u1 u2 c1 c2 k, bringingUp s .clearing = true →
    ∃ t, exec (.firmwareBroadcast u1 u2 c1 c2) s = .next t ∧ t.boot.phase = .broadcast ∧ t.boot.xspiHighZ = true ∧ t.boot.loaded = fwImage
      ∧ codeUnit t k = (if k ∈ u1 ∧ k ∈ u2 ∧ codeUnit s k = .good then .failed else codeUnit s k)
      ∧ codeClus t k = (if k ∈ c1 ∧ k ∈ c2 ∧ codeClus s k = .good then .failed else codeClus s k)
      ∧ t = { s with boot := t.boot, floor := { s.floor with unit := t.floor.unit, clus := t.floor.clus } }) ∧
  (∀ s u1 u2 c1 c2 k, bringingUp s .broadcast = true → s.boot.aliasSigned = false ∨ s.boot.flashDone = false →
    ∃ t, exec (.qualification [] u1 u2 c1 c2) s = .next t ∧ t.boot.phase = .waiting ∧ t.att.zph0.good = true ∧ t.att.zph1.good = true
      ∧ codeUnit t k = (if k ∈ failedTwice unitFails u1 u2 ∧ codeUnit s k = .good then .failed else codeUnit s k)
      ∧ codeClus t k = (if k ∈ failedTwice clusFails c1 c2 ∧ codeClus s k = .good then .failed else codeClus s k)
      ∧ (∀ f ∈ t.boot.qual, codeUnit s (frUnit f) = .good ∧ (look s.mem.frames (frameIx f) = none ∨ look s.mem.frames (frameIx f) = some .dirty))
      ∧ (∀ a, (∀ f ∈ t.boot.qual, ¬ (pageAddr f ≤ a ∧ a < pageAddr f + 69632)) → rd8 t.mem.dram a = rd8 s.mem.dram a) ∧ t.seqs = s.seqs) ∧
  (∀ s zs u1 u2 c1 c2, bringingUp s .broadcast = true → 0 ∈ zs → 1 ∈ zs → s.err.fatal = false →
    ∃ t, exec (.qualification zs u1 u2 c1 c2) s = .next t ∧ t.boot.phase = .failed ∧ t.boot.cause = 6 ∧ SameBytes s t ∧ t.seqs = s.seqs) ∧
  (∀ s shorted, bringingUp s .qualification = true ∨ bringingUp s .waiting = true → s.boot.aliasSigned = true → s.boot.flashDone = true →
    ∃ t, exec (.floorPlanPublish shorted) s = .next t ∧ t.boot.phase = .released ∧ t.boot.running = false ∧ t.now = 0
      ∧ t.floor.published = true ∧ t.floor.gen = 1 ∧ t.floor.pciw = s.boot.pcieWidth ∧ t.boot.qual = [] ∧ (∀ a, (∃ f ∈ s.boot.qual, pageAddr f ≤ a ∧ a < pageAddr f + 69632) → rd8 t.mem.dram a = 0)
      ∧ (∀ a, (∀ f ∈ s.boot.qual, ¬ (pageAddr f ≤ a ∧ a < pageAddr f + 69632)) → rd8 t.mem.dram a = rd8 s.mem.dram a) ∧ t.seqs = s.seqs ∧ t.pending = s.pending
      ∧ t.boot.belowmin = decide (countGood s.floor.clus 208 < 192 ∨ countGood s.floor.unit 6912 < 6720))

/-- PCI Express and host resets (R532, R596, R603, R605, R612, R638, R670, R696). -/
def Obligations.PcieAndHostResets : Prop :=
  (∀ s lanes, s.outOfReset = true → s.boot.board.pciw = 0 ∨ s.boot.board.pciw = 8 →
    (∀ f, s.boot.fuses = some f → 4 ∈ f.widths ∧ 8 ∈ f.widths) →
    exec (.pcieLinkTraining lanes true) s = .next { s with boot := { s.boot with
      pcieUp := decide (lanes % 256 = 255 ∨ lanes % 16 = 15 ∨ lanes / 16 % 16 = 15)
      pcieWidth := if lanes % 256 = 255 then 8 else if lanes % 16 = 15 ∨ lanes / 16 % 16 = 15 then 4 else 0 } }) ∧
  (∀ s lanes, s.outOfReset = true → s.boot.board.pciw = 4 → (∀ f, s.boot.fuses = some f → 4 ∈ f.widths) →
    exec (.pcieLinkTraining lanes true) s = .next { s with boot := { s.boot with
      pcieUp := decide (lanes % 16 = 15 ∨ lanes / 16 % 16 = 15)
      pcieWidth := if lanes % 16 = 15 ∨ lanes / 16 % 16 = 15 then 4 else 0 } }) ∧
  (∀ s lanes, s.outOfReset = true →
    exec (.pcieLinkTraining lanes false) s = .next { s with boot := { s.boot with pcieUp := false, pcieWidth := 0 } }) ∧
  (∀ s, s.outOfReset = true → s.boot.pcieUp = true → s.boot.phase ≠ .released → s.boot.phase ≠ .failed →
    exec .configurationRequest s = .next { s with out := .cfgCompletion false :: s.out }) ∧
  (∀ s, s.outOfReset = true → s.boot.pcieUp = true → s.boot.phase = .released ∨ s.boot.phase = .failed →
    exec .configurationRequest s = .next { s with out := .cfgCompletion true :: s.out, boot := { s.boot with cfgDefault := false } }) ∧
  (∀ s, s.outOfReset = true → s.boot.phase ≠ .released →
    exec .hostInterfaceReset s = .next { s with boot := { s.boot with pcieUp := false, pcieWidth := 0 } }) ∧
  (∀ s, s.outOfReset = true → s.boot.phase = .released →
    ∃ t, exec .hostInterfaceReset s = .next t ∧ t.boot.cfgDefault = true ∧ t.sec.ide = [] ∧ t.sec.spdm = .start ∧ t.sec.handshake = false
      ∧ t.sec.secured = false ∧ SameBytes s t ∧ t.seqs = s.seqs ∧ t.fab.ports = s.fab.ports ∧ t.net.sess = s.net.sess ∧ t.pending = s.pending) ∧
  (∀ s vf, s.up = true → vf < 64 → ∃ t, exec (.vfFunctionLevelReset vf) s = .next t ∧ (dom t vf).tdi = .unlocked
      ∧ (∀ td, td ≠ vf → dom t td = dom s td) ∧ (chan t (8 + vf)).rfull = false
      ∧ (∀ c, c ≠ 8 + vf → chan t c = chan s c) ∧ t.seqs = s.seqs ∧ SameBytes s t ∧ t.pending = s.pending)

/-- Doorbells and messages (R543, R544, R548, R552, R554 to R556). -/
def Obligations.MailboxDoorbells : Prop :=
  (∀ s ch, reachable s ch = true → ∃ t, exec (.req ch) s = .next t ∧ OnlyChan s t ch { chan s ch with db := (chan s ch).db ||| 1#32 }) ∧
  (∀ s ch, reachable s ch = true → (chan s ch).mask.getLsbD 1 = false →
    ∃ t, exec (.rack ch) s = .next t ∧ OnlyChan s t ch { chan s ch with db := ((chan s ch).db ||| 2#32) &&& ~~~2#32, rfull := false }) ∧
  (∀ s ch v, reachable s ch = true → (chan s ch).db.getLsbD 1 = false → (chan s ch).db.getLsbD 30 = false → (chan s ch).db.getLsbD 31 = false →
    ∃ t, exec (.mbxMaskWrite ch v) s = .next t ∧ OnlyChan s t ch { chan s ch with mask := v &&& 0xC0000F03#32 }) ∧
  (∀ s ch, takesMessages s ch = true → dbTaken (chan s ch) 0 = true → nout s ch < 16 →
    ∃ t x, exec (.messageTaken ch) s = .next t ∧ t.mbx.cmds = s.mbx.cmds ++ [x] ∧ t.mbx.nextCmd = s.mbx.nextCmd + 1
      ∧ x.id = s.mbx.nextCmd ∧ x.ch = ch ∧ x.code = (reqMessage (chan s ch)).cmd ∧ x.tag = (reqMessage (chan s ch)).tag
      ∧ x.body = (reqMessage (chan s ch)).body ∧ x.status = msgCheck s ch (reqMessage (chan s ch))
      ∧ x.stage = (if msgCheck s ch (reqMessage (chan s ch)) = 0 then .waiting else .done)
      ∧ (chan t ch).db = (chan s ch).db &&& ~~~1#32 ∧ (chan t ch).evt = (chan s ch).evt ||| 1#32
      ∧ SameBytes s t ∧ t.seqs = s.seqs ∧ t.doms = s.doms) ∧
  (∀ s ch x, s.mbx.cmds.find? (fun y => y.ch == ch && y.stage == .done) = some x → ch < 73 → (chan s ch).rfull = false → reachable s ch = true →
    ∃ t, exec (.responseWritten ch) s = .next t ∧ (chan t ch).rfull = true ∧ (chan t ch).evt = (chan s ch).evt ||| 2#32
      ∧ (chan t ch).rspBuf = (respBytes x.code x.td x.tag x.status x.rekeyed x.rsp).zipIdx.map (fun b => (b.2, b.1))
      ∧ t.mbx.cmds = s.mbx.cmds.filter (fun y => y.id != x.id) ∧ SameBytes s t ∧ t.seqs = s.seqs ∧ t.doms = s.doms) ∧
  (∀ s ch x, s.mbx.cmds.find? (fun y => y.ch == ch && y.stage == .done) = some x → 73 ≤ ch → builderWaits s true x.src 0 = false →
    ∃ t, exec (.responseWritten ch) s = .next t
      ∧ lookD [] t.mbx.kept ch = ((x.msn, respBytes x.code x.td x.tag x.status x.rekeyed x.rsp) :: lookD [] s.mbx.kept ch).take 16
      ∧ t.mbx.cmds = s.mbx.cmds.filter (fun y => y.id != x.id) ∧ SameBytes s t ∧ t.seqs = s.seqs ∧ t.doms = s.doms) ∧
  (∀ s ch c, reachable s ch = true → (chan s ch).mask.getLsbD 31 = false →
    s.mbx.cmds.find? (fun x => x.ch == ch && !x.discard && x.tag == (chan s ch).atag.toNat) = some c → cmd? s c.id = some c → c.stage = .waiting →
    ∃ t, exec (.mbxAbort ch) s = .next t
      ∧ (c.code ≠ 0x0308 → t.mbx.cmds = answered s c 0x0062 [] ∧ (chan t ch).db.getLsbD 31 = false ∧ SameBytes s t ∧ t.seqs = s.seqs ∧ t.doms = s.doms)
      ∧ (c.code = 0x0308 → HasAnswer t c 0x0062 ∧ ∀ u, .raw c.id ∉ lookD [] t.att.units u)) ∧
  (∀ s ch, reachable s ch = true → (chan s ch).mask.getLsbD 30 = false →
    ∃ t, exec (.mbxChannelReset ch) s = .next t
      ∧ chan t ch = { Chan.reset with evt := (chan s ch).evt ||| 16#32, evtSeq := seqBump (chan s ch).evtSeq }
      ∧ (∀ c, c ≠ ch → chan t c = chan s c)
      ∧ (∀ x ∈ t.mbx.cmds, x.ch = ch → x.discard = true ∧ x.stage ≠ .done)
      ∧ t.mbx.cmds.filter (fun x => x.ch != ch) = s.mbx.cmds.filter (fun x => x.ch != ch) ∧ SameBytes s t ∧ t.seqs = s.seqs ∧ t.doms = s.doms) ∧
  (∀ s s1 port f i, f.ftype = 8 → checkFrame port f s = (true, s1) → fmPeer s1 f.src = some i → lookD [] s1.mbx.kept (73 + i) = [] →
    s1.mbx.cmds.all (fun x => x.ch != 73 + i) = true → s1.up = true → (chan s1 (73 + i)).rfull = false →
    ∃ t x, exec (.mgmtCmd port f) s = .next t ∧ t.mbx.cmds = s1.mbx.cmds ++ [x] ∧ x.ch = 73 + i ∧ x.msn = f.msn ∧ x.src = f.src
      ∧ x.code = (Msg.ofBytes f.payload).cmd ∧ SameBytes s1 t ∧ t.seqs = s1.seqs)

/-- Work queues (R568, R569, R571 to R573, R575). -/
def Obligations.WorkQueues : Prop :=
  (∀ s ch c, Starts s ch 0x0504 c → byteAt c.body 0 ≤ 3 → 4 ≤ byteAt c.body 1 → byteAt c.body 1 ≤ 12 → wq? s ch (byteAt c.body 0) = none →
    ∃ t w, exec (.wqCreate ch) s = .next t ∧ t.mbx.cmds = answered s c 0 [] ∧ wq? t ch (byteAt c.body 0) = some w
      ∧ w.sqaddr = le c.body 8 8 ∧ w.cqaddr = le c.body 16 8 ∧ w.log2n = byteAt c.body 1 ∧ w.head = 0 ∧ w.tail = 0 ∧ w.cq = 0 ∧ w.cqhead = 0
      ∧ (∀ k, k ≠ ch → chan t k = chan s k) ∧ t = { s with mbx := { s.mbx with cmds := t.mbx.cmds, chans := t.mbx.chans } }) ∧
  (∀ s ch c w, Starts s ch 0x0505 c → wq? s ch (byteAt c.body 0) = some w → w.destroying = none → w.taken = [] →
    ∃ t, exec (.wqDestroy ch) s = .next t ∧ wq? t ch (byteAt c.body 0) = none ∧ HasAnswer t c 0
      ∧ t = { s with mbx := { s.mbx with cmds := t.mbx.cmds, chans := t.mbx.chans } }) ∧
  (∀ s ch q w, s.up = true → ch < 72 → q < 4 → dbTaken (chan s ch) (8 + q) = true → wq? s ch q = some w → w.reading = false →
    w.stopped = false → w.destroying = none → w.head ≠ w.tail → (w.head + 2 ^ 16 - w.cqhead) % 2 ^ 16 < 2 ^ w.log2n → dmaStopped s (chanFn ch) = false →
    ∃ t w', exec (.wqTake ch q) s = .next t ∧ wq? t ch q = some w' ∧ w'.head = (w.head + 1) % 2 ^ 16 ∧ w'.reading = true
      ∧ w'.taken = w.taken ++ [w.head] ∧ t.mbx.dma = s.mbx.dma ++ [(s.mbx.nextDma, .wqEntry ch q w.head)]
      ∧ t.out = .dmaRead s.mbx.nextDma (chanFn ch) (w.sqaddr + w.head % 2 ^ w.log2n * 16) 16 :: s.out
      ∧ (chan t ch).db.getLsbD (8 + q) = false ∧ t = { s with mbx := t.mbx, out := t.out }) ∧
  (∀ s ch q idx w st tag rlen, wq? s ch q = some w → look w.ready idx = some (st, tag, rlen) → w.destroying = none → dmaStopped s (chanFn ch) = false →
    ∃ t w', exec (.wqCompletion ch q idx ⟨true, true⟩) s = .next t ∧ wq? t ch q = some w' ∧ w'.cq = w.cq + 1 ∧ look w'.ready idx = none
      ∧ idx ∉ w'.taken ∧ w'.stopped = w.stopped
      ∧ .dmaWrite (chanFn ch) (w.cqaddr + w.cq % 2 ^ w.log2n * 16) (cqEntry w idx st tag rlen) ∈ t.out
      ∧ (chan t ch).evt = (chan s ch).evt ||| BitVec.ofNat 32 (2 ^ (12 + q)) ∧ SameBytes s t ∧ t.seqs = s.seqs) ∧
  (∀ s ch q idx w st tag rlen, wq? s ch q = some w → look w.ready idx = some (st, tag, rlen) → w.destroying = none → dmaStopped s (chanFn ch) = false →
    rlen ≠ 0 →
    ∃ t w', exec (.wqCompletion ch q idx ⟨false, true⟩) s = .next t ∧ wq? t ch q = some w' ∧ w'.cq = w.cq + 1 ∧ look w'.ready idx = none
      ∧ .dmaWrite (chanFn ch) (w.cqaddr + w.cq % 2 ^ w.log2n * 16) (cqEntry w idx 0x64 tag 0) ∈ t.out
      ∧ (chan t ch).evt = (chan s ch).evt ||| 8#32 ||| BitVec.ofNat 32 (2 ^ (12 + q)) ∧ SameBytes s t ∧ t.seqs = s.seqs) ∧
  (∀ s did ch q idx bs, look s.mbx.dma did = some (.wqEntry ch q idx) → 8 ≤ ch → nbits (le bs 8 8) 5 0 = ch - 8 → dmaStopped s (chanFn ch) = false →
    ∃ t, exec (.hostDmaReadComplete did (.bytes bs)) s = .next t
      ∧ t.mbx.dma = rem s.mbx.dma did ++ [(s.mbx.nextDma, .wqDescriptor ch q idx (ch - 8) (nbits (le bs 8 8) 63 32))]
      ∧ t.out = .dmaRead s.mbx.nextDma (chanFn ch) (le bs 0 8) (nbits (le bs 8 8) 63 32) :: s.out
      ∧ t = { s with mbx := { s.mbx with dma := t.mbx.dma, nextDma := s.mbx.nextDma + 1 }, out := t.out }) ∧
  (∀ s did ch q idx w, look s.mbx.dma did = some (.wqEntry ch q idx) → wq? s ch q = some w →
    ∃ t w', exec (.hostDmaReadComplete did .failed) s = .next t ∧ wq? t ch q = some w' ∧ look w'.ready idx = some (0x64, 0, 0)
      ∧ (chan t ch).evt = (chan s ch).evt ||| 8#32 ∧ SameBytes s t ∧ t.seqs = s.seqs)

/-- Floor plan, error log and crash snapshot as read (R558, R598, R602, R614, R621). -/
def Obligations.NodeReads : Prop :=
  (∀ s ch c, Starts s ch 0x0101 c → le c.body 4 4 ≤ 4064 →
    exec (.flpRead ch) s = .next (withAnswer s c 0 (readRange (if s.floor.published then floorPlan s else []) c.body))) ∧
  (∀ s ch c, Starts s ch 0x0102 c →
    exec (.errRead ch) s = .next (withAnswer s c 0
      (leBytes (errRead s (le c.body 0 4)).1.length 4 ++ leBytes (errRead s (le c.body 0 4)).2 4 ++ zeros 8 ++ (errRead s (le c.body 0 4)).1.flatMap recBytes))) ∧
  (∀ s ch c, Starts s ch 0x0103 c → le c.body 4 4 ≤ 4064 →
    exec (.crashRead ch) s = .next (withAnswer s c 0 (readRange (match s.err.crash with | some k => crashBytes k | none => []) c.body))) ∧
  (∀ s, errRead s 0 = (s.err.log.take 63, 0)) ∧
  (∀ rec_ body, (readRange rec_ body).take 4 = leBytes rec_.length 4) ∧
  (∀ s ch i code c, i = .flpRead ch ∧ code = 0x0101 ∨ i = .crashRead ch ∧ code = 0x0103 → Starts s ch code c → 4064 < le c.body 4 4 →
    exec i s = .next (withAnswer s c 1 []))

/-- Configuration, seal and unseal of a tenant domain (R244, R245, R509 to R512, R558 to R561). -/
def Obligations.DomainCommands : Prop :=
  (∀ s ch c, Starts s ch 0x0201 c → (dom s c.td).sealed = false → holdsSeq s c.td = false →
    let g := if (byteAt c.body 0).testBit 0 then BitVec.ofNat 64 (le c.body 8 8 &&& 0xF0FF0F0F) else (dom s c.td).geom
    let f := if (byteAt c.body 0).testBit 1 then wordsOf c.body 16 fmtMasks else (dom s c.td).fmt
    let w := if (byteAt c.body 0).testBit 2 then wordsOf c.body 80 tierMasks else (dom s c.td).tier
    let p := if (byteAt c.body 0).testBit 3 then BitVec.ofNat 64 (le c.body 112 8 &&& 0x83) else (dom s c.td).policy
    geomOk g f = true → fmtOk g f = true → tierOk w = true → fld p 1 0 < 2 →
    ∃ t, exec (.tdConfig ch) s = .next t ∧ OnlyDomAnswer s t c.td { dom s c.td with geom := g, fmt := f, tier := w, policy := p } c
      (zeros 8 ++ wordsBytes [g] ++ wordsBytes f ++ wordsBytes w ++ wordsBytes [p])) ∧
  (∀ s ch c, Starts s ch 0x0202 c → byteAt c.body 0 = 0x10 → le c.body 4 4 ≠ 0 → 16 + 4 * le c.body 4 4 ≤ c.body.length →
    (dom s c.td).sealed = false → holdsSeq s c.td = false → le c.body 4 4 = fmtRdim (dom s c.td).fmt / 2 →
    let r : List F32 := (nats (le c.body 4 4)).map (fun i => BitVec.ofNat 32 (le c.body (16 + 4 * i) 4))
    ∃ t, exec (.tdTable ch) s = .next t ∧ OnlyDomAnswer s t c.td { dom s c.td with rotary := r, rotDig := some (rotDigest r) } c (digestBytes (rotDigest r))) ∧
  (∀ s ch c, Starts s ch 0x0202 c → byteAt c.body 0 = 0x10 → le c.body 4 4 = 0 → (dom s c.td).sealed = false → holdsSeq s c.td = false →
    ∃ t, exec (.tdTable ch) s = .next t ∧ OnlyDomAnswer s t c.td { dom s c.td with rotary := [], rotDig := none } c (zeros 48)) ∧
  (∀ s ch c, Starts s ch 0x0203 c → (dom s c.td).sealed = false →
    ∃ t, exec (.tdAdmkey ch) s = .next t ∧
      OnlyDomAnswer s t c.td { dom s c.td with admKey := if allZero (fit c.body 64) then [] else fit c.body 64 } c []) ∧
  (∀ s ch c, Starts s ch 0x0204 c → (dom s c.td).sealed = false → (dom s c.td).rotary.length = fmtRdim (dom s c.td).fmt / 2 →
    ∃ t, exec (.tdSeal ch) s = .next t ∧ (dom t c.td).sealed = true ∧ (dom t c.td).cfgdig = cfgDigest c.td (dom s c.td)
      ∧ (dom t c.td).geom = (dom s c.td).geom ∧ (dom t c.td).fmt = (dom s c.td).fmt
      ∧ OnlyDomAnswer s t c.td (dom t c.td) c (digestBytes (cfgDigest c.td (dom s c.td)))) ∧
  (∀ s ch c, Starts s ch 0x0204 c → (dom s c.td).sealed = true →
    exec (.tdSeal ch) s = .next (withAnswer s c 0 (digestBytes (dom s c.td).cfgdig))) ∧
  (∀ s ch c, Starts s ch 0x0205 c → (dom s c.td).sealed = true →
    ∃ t, exec (.tdUnseal ch) s = .next t ∧ (dom t c.td).sealed = false ∧ (dom t c.td).tdi = .error
      ∧ (∀ x ∈ t.net.sess, x.mgmt = true ∨ x.td ≠ c.td) ∧ (∀ x ∈ t.sec.slots, x.2.td ≠ c.td) ∧ HasAnswer t c 0) ∧
  (∀ s ch i code c, i = .tdConfig ch ∧ code = 0x0201 ∨ i = .tdAdmkey ch ∧ code = 0x0203 → Starts s ch code c → (dom s c.td).sealed = true →
    exec i s = .next (withAnswer s c 0x0050 []))

/-- Raw bank commands: FILL, COPY, SCALE, ADD, MUL and RMS_APPLY write their range, RMS_SUMSQ and SCORE their result to the host
(R129, R155 to R161, R261). -/
def Obligations.RawBankCommands : Prop :=
  (∀ s ch c r d dp sp l ls i, (i, r.opc) ∈ [(Instr.fill (.raw ch), 1), (.copy (.raw ch), 2), (.scale ch, 3), (.add ch, 4), (.mul ch, 5), (.rmsApply ch, 7)] →
    RawReady s ch c r d dp sp l ls →
    ∃ t, exec i s = .next t ∧ HasAnswer t c 0
      ∧ (∀ k, k < 32 * r.ncw → rd8 t.mem.dram (pageAddr l.frame + r.doff + k)
          = (maskPage (dom s c.td).geom (dom s c.td).fmt r.doff (rawNew r (rawKey c.id) (rdPage s.mem l.frame r.doff (32 * r.ncw)).bytes (rawSource s c r ls))).getD k 0)
      ∧ SameOutside s t (pageAddr l.frame + r.doff) (pageAddr l.frame + r.doff + 32 * r.ncw)) ∧
  (∀ s ch c r d dp sp l ls, r.opc = 6 → RawReady s ch c r d dp sp l ls →
    ∃ t, exec (.rmsSumsq ch) s = .next t ∧ HasAnswer t c 0 ∧ SameBytes s t ∧ t.seqs = s.seqs
      ∧ t.out = .dmaWrite c.td r.raddr (rawSums r (rawKey c.id) (rdPage s.mem l.frame r.doff (32 * r.ncw)).bytes) :: s.out) ∧
  (∀ s ch c r d dp sp l ls, r.opc = 8 → RawReady s ch c r d dp sp l ls →
    ∃ t, exec (.score ch) s = .next t ∧ HasAnswer t c 0 ∧ SameBytes s t ∧ t.seqs = s.seqs
      ∧ t.out = .dmaWrite c.td r.raddr ((rawScores (dom s c.td).geom (dom s c.td).fmt (rawKey c.id) (elems r.efmt (rawSource s c r ls))
          (rdPage s.mem l.frame 0 69632).bytes).flatMap (fun x => leBytes x.toNat 4)) :: s.out) ∧
  (∀ s f, look s.mem.frames (frameIx f) = some .dirty → pairRuns s (frUnit f) = true → Settled s →
    (lookD [] s.att.units (frUnit f) = [] ∨ nextOp s (frUnit f) = some (.zero f)) →
    ∃ t, exec (.fill (.sequencer f)) s = .next t ∧ look t.mem.frames (frameIx f) = none
      ∧ (∀ a, frameIx f * 69632 ≤ a → a < (frameIx f + 1) * 69632 → rd8 t.mem.dram a = 0)
      ∧ SameOutside s t (frameIx f * 69632) ((frameIx f + 1) * 69632) ∧ t = { s with mem := t.mem, att := t.att }
      ∧ ∀ u, u ≠ frUnit f → lookD [] t.att.units u = lookD [] s.att.units u)

/-- Sequence commands (R56, R57, R61, R75 to R78, R153, R279, R558, R562). -/
def Obligations.SequenceCommands : Prop :=
  (∀ s ch c x, Starts s ch 0x0301 c →
    let a := Sva.ofNat (le c.body 0 8)
    let f := freeKey s (seqKey c.td a.seqn)
    let k := nextKey f.kidx f.sgen f.kbase
    le c.body 0 8 % 2 ^ 40 = 0 → a.td = c.td → ext? s (le c.body 8 2) = some x → x.td = c.td → x.state = .active →
    byteAt c.body 11 ≤ 63 → le c.body 16 4 < le c.body 20 4 → seq? s c.td a.seqn = none → descRoom s c.td (seqKey c.td a.seqn) = true →
    ∃ t d, exec (.seqCreate ch) s = .next t ∧ seq? t c.td a.seqn = some d ∧ d.state = .own ∧ d.nlayer = byteAt c.body 10
      ∧ d.nhead = byteAt c.body 11 ∧ d.base = le c.body 16 4 ∧ d.hend = le c.body 20 4 ∧ d.len = le c.body 16 4 ∧ d.tfront = le c.body 16 4
      ∧ d.ext = le c.body 8 2 ∧ d.tchan ∈ placeChans s c.td ∧ d.kidx = k.1 ∧ d.sgen = k.2.1 ∧ d.kbase = k.2.2.1 ∧ d.mgen = 0 ∧ d.ckep = 0 ∧ d.leaves = [] ∧ d.l2 = []
      ∧ HasAnswer t c 0 ∧ t.mem = s.mem ∧ (∀ td n, seqKey td n ≠ seqKey c.td a.seqn → seq? t td n = seq? s td n)) ∧
  (∀ s ch c d, Starts s ch 0x0302 c → Names s c d → d.state = .own → seqBusy s d = false →
    ∃ t, exec (.seqRelease ch) s = .next t ∧ seq? t d.td d.seqn = none ∧ HasAnswer t c 0
      ∧ (∀ td n, seqKey td n ≠ seqKey d.td d.seqn → (seq? t td n).isSome = (seq? s td n).isSome)) ∧
  (∀ s ch c d, Starts s ch 0x0303 c → Names s c d → d.here = true → d.len + le c.body 16 4 ≤ d.tfront →
    ∃ t, exec (.seqCommit ch) s = .next t
      ∧ OnlySeqAnswer s t { d with len := d.len + le c.body 16 4 } c (leBytes (d.len + le c.body 16 4) 4)) ∧
  (∀ s ch c d, Starts s ch 0x0303 c → Names s c d → d.here = true → d.tfront < d.len + le c.body 16 4 →
    exec (.seqCommit ch) s = .next (withAnswer s c 5 [])) ∧
  (∀ s ch c d, Starts s ch 0x0304 c → Names s c d → d.here = true → d.base ≤ le c.body 16 4 → le c.body 16 4 ≤ d.len →
    truncPages s d (le c.body 16 4) = [] → Settled s →
    ∃ t, exec (.seqTruncate ch) s = .next t ∧ OnlySeqAnswer s t { d with len := le c.body 16 4, tfront := le c.body 16 4 } c
      (leBytes (rkeyOf d) 4 ++ leBytes (le c.body 16 4) 4)) ∧
  (∀ s ch c d, Starts s ch 0x0304 c → Names s c d → d.here = true → d.base ≤ le c.body 16 4 → le c.body 16 4 ≤ d.len →
    truncPages s d (le c.body 16 4) ≠ [] → seqBusy s d = false → Settled s →
    ∃ t d', exec (.seqTruncate ch) s = .next t ∧ seq? t d.td d.seqn = some d' ∧ d'.len = le c.body 16 4 ∧ d'.tfront = le c.body 16 4
      ∧ d'.kidx = (nextKey d.kidx d.sgen d.kbase).1 ∧ d'.sgen = (nextKey d.kidx d.sgen d.kbase).2.1 ∧ d'.state = d.state ∧ HasAnswer t c 0
      ∧ SameBytes s t) ∧
  (∀ s ch c d, Starts s ch 0x0305 c → Names s c d → d.here = true → openAppends s d.td d.seqn = [] →
    exec (.seqFence ch) s = .next (withAnswer s c 0 [])) ∧
  (∀ s ch c d, Starts s ch 0x0305 c → Names s c d → d.here = true → openAppends s d.td d.seqn ≠ [] →
    ∃ t x, exec (.seqFence ch) s = .next t ∧ cmd? t c.id = some x ∧ x.stage = .running ∧ x.todo = openAppends s d.td d.seqn
      ∧ t = { s with mbx := { s.mbx with cmds := t.mbx.cmds } }) ∧
  (∀ s ch c d, Starts s ch 0x0306 c → Names s c d → d.here = true → byteAt c.body 16 ≤ d.nlayer →
    ∃ t d', exec (.seqStage ch) s = .next t ∧ t.mbx.cmds = answered s c 0 [] ∧ seq? t d.td d.seqn = some d' ∧ d'.wake.tstage = s.now
      ∧ SameBytes s t ∧ t.doms = s.doms) ∧
  (∀ s ch c d, Starts s ch 0x0307 c → Names s c d →
    exec (.seqQuery ch) s = .next (withAnswer s c 0 (descBytes d)))

/-- Prefix directory commands (R346, R358 to R366). -/
def Obligations.PrefixCommands : Prop :=
  (∀ s ch c x, Starts s ch 0x0401 c → byteAt c.body 0 = 1 → keysCheck c 1 16 = 0 →
    (bankTab s (bankOf (keyAt c.body 16 0))).find? (fun x => x.2.key == keyAt c.body 16 0) = some x → headerOk s c.td x.2 = true → x.2.st = .live →
    ∃ t, exec (.pfxLookup ch) s = .next t ∧ SameBytes s t ∧ t.seqs = s.seqs ∧ t.pfx.banks = s.pfx.banks
      ∧ t.mbx.cmds = answered s c 0 (leBytes 1 1 ++ zeros 15 ++ (leBytes 0 2 ++ leBytes x.2.ver 2 ++ leBytes x.2.nlayer 1 ++ leBytes x.2.nhead 1
        ++ leBytes (b2n x.2.psn) 1 ++ zeros 1))) ∧
  (∀ s ch c, Starts s ch 0x0401 c → byteAt c.body 0 = 1 → keysCheck c 1 16 = 0 →
    (bankTab s (bankOf (keyAt c.body 16 0))).find? (fun x => x.2.key == keyAt c.body 16 0) = none →
    ∃ t, exec (.pfxLookup ch) s = .next t ∧ SameBytes s t ∧ t.seqs = s.seqs ∧ t.pfx = s.pfx
      ∧ t.mbx.cmds = answered s c 0 (leBytes 1 1 ++ zeros 15 ++ keyResult 0x32 0 0)) ∧
  (∀ s ch c d ix s1, Starts s ch 0x0402 c → byteAt c.body 20 = 1 → keysCheck c 1 32 = 0 → Names s c d → d.here = true →
    let key := keyAt c.body 32 0
    let tp := le c.body 16 4
    let e : DirE := { key := key, st := .reserved, ver := le c.body 22 2, ref := 0, rtn := (byteAt c.body 21).testBit 0, psn := false, sidx := ix, nlayer := d.nlayer, nhead := d.nhead }
    (tp + 1) * tokT s d.td ≤ d.len → d.base ≤ tp * tokT s d.td → tp < 1024 → c.abortReq = false →
    (bankTab s (bankOf key)).find? (fun x => x.2.key == key) = none → pageLeaves s d (tokenPages d tp) = 0 → pagesQuiet s d (tokenPages d tp) = true →
    (lookD [] s.pfx.copies d.td).length < (lookD 0x4000#32 s.pfx.quota d.td).toNat → tableRoom s d.td (16 * (2 + (tokenPages d tp).length) + 32) = true →
    freeSidx s d.td (2 + (tokenPages d tp).length) = some ix → insertEntry d.td e s = some s1 →
    ∃ t x, exec (.seqPublish ch) s = .next t ∧ cmd? t c.id = some x ∧ x.stage = .running ∧ x.obj = ix + 1 ∧ t.pfx.banks = s1.pfx.banks
      ∧ t.pfx.copies = s1.pfx.copies ∧ (∃ g ∈ t.pfx.groups, g.td = d.td ∧ g.sidx = ix ∧ g.key = key) ∧ SameBytes s t ∧ t.seqs = s.seqs) ∧
  (∀ s ch c d i e, s.mbx.cmds.find? (fun c => c.ch == ch && c.stage == .running && c.code == 0x0402 && !publishBlocked s c) = some c → cmd? s c.id = some c →
    c.discard = false → c.abortReq = false → c.todo = [i] → 0 < c.obj → Names s c d → Settled s →
    let ps := tokenPages d (le c.body 16 4 + i)
    pagesQuiet s d ps = true → pageLeaves s d ps = 0 → (∀ p ∈ ps, ∃ l, walk s d p = .page l l ∧ l.tier = .dram) →
    entryCopy? s d.td (keyAt c.body 32 i) = some e →
    ∃ t e', exec (.publishPageComplete ch) s = .next t ∧ HasAnswer t c 0 ∧ entryCopy? t d.td (keyAt c.body 32 i) = some e' ∧ e'.st = .live
      ∧ e'.ref = ps.length + b2n ((byteAt c.body 21).testBit 0) ∧ SameBytes s t) ∧
  (∀ s ch c d x, Starts s ch 0x0403 c → byteAt c.body 16 = 1 → keysCheck c 1 32 = 0 → Names s c d → d.here = true →
    let tt := tokT s d.td
    let j := d.len / tt
    d.len = j * tt → d.tfront = d.len → (j + 1) * tt ≤ d.hend → j < 1024 →
    (bankTab s (bankOf (keyAt c.body 32 0))).find? (fun x => x.2.key == keyAt c.body 32 0) = some x → headerOk s c.td x.2 = true → x.2.st = .live →
    x.2.ver = le c.body 18 2 → x.2.psn = false → x.2.nlayer = d.nlayer → x.2.nhead = d.nhead → (∀ p ∈ tokenPages d j, leafOf d p = none) →
    tcheckPage s d (tokenPages d j) = none →
    tableRoom s d.td (growthOf d (tokenPages d j)) = true →
    ∃ t d', exec (.seqAttach ch) s = .next t ∧ seq? t d.td d.seqn = some d' ∧ d'.len = (j + 1) * tt ∧ d'.tfront = (j + 1) * tt ∧ d'.state = d.state
      ∧ SameBytes s t ∧ t.mbx.cmds = answered s c 0 (leBytes 1 1 ++ zeros 3 ++ leBytes ((j + 1) * tt) 4 ++ zeros 8 ++ keyResult 0 0 0)) ∧
  (∀ s ch c x g e, Starts s ch 0x0404 c → keyTd (keyAt c.body 0 0) = c.td →
    (bankTab s (bankOf (keyAt c.body 0 0))).find? (fun x => x.2.key == keyAt c.body 0 0) = some x → headerOk s c.td x.2 = true → x.2.st = .live →
    x.2.rtn = true → groupOfEntry s c.td x.2 = some g → g.key = keyAt c.body 0 0 → entryCopy? s c.td (keyAt c.body 0 0) = some e → e.sidx = g.sidx → 2 ≤ e.ref →
    ∃ t e', exec (.pfxUnpublish ch) s = .next t ∧ t.mbx.cmds = answered s c 0 [] ∧ entryCopy? t c.td (keyAt c.body 0 0) = some e'
      ∧ e'.rtn = false ∧ e'.ref = e.ref - 1 ∧ SameBytes s t ∧ t.seqs = s.seqs) ∧
  (∀ s td sidx g, s.pfx.groups.find? (fun g => g.td == td && g.sidx == sidx) = some g → g.freeing = true → (∀ r ∈ g.recs, r.2.ref = 0) → s.mem.chgs = [] → Settled s →
    (∀ r ∈ g.recs, r.2.leaf.tier = .dram → frameUsers s r.2.leaf.frame = [] ∧ codeChan s (frChan r.2.leaf.frame) = .good) →
    ∃ t, exec (.groupBackgroundFree td sidx) s = .next t ∧ (∀ x ∈ t.pfx.groups, ¬(x.td = td ∧ x.sidx = sidx))
      ∧ (∀ r ∈ g.recs, r.2.leaf.tier = .dram → look t.mem.frames (frameIx r.2.leaf.frame) = some .dirty) ∧ SameBytes s t ∧ t.seqs = s.seqs)

/-- Queue pair commands (R405 to R409, R563, R564): a creation names its QPN or takes the lowest of the domain's that is free, with an on-node slot
or a context table; each refusal has the status given and no effect. -/
def Obligations.QueuePairCommands : Prop :=
  (∀ s ch c n, Starts s ch 0x0501 c → le c.body 16 2 ≤ 0x3FF → qpnOf c.td n = true → qpnFree s n = true →
    le c.body 0 4 = n ∨ le c.body 0 4 = 0 ∧ (∀ m, m < n → qpnOf c.td m = true → qpnFree s m = false) →
    onNode s c.td < slotsOf s c.td ∨ (dom s c.td).qpTab.isSome = true →
    ∃ t q, exec (.qpCreate ch) s = .next t ∧ qp? t n = some q ∧ q.td = c.td ∧ q.state = .ready ∧ q.pqpn = le c.body 8 3 ∧ q.peer = le c.body 4 3
      ∧ q.epsn = le c.body 12 3 ∧ q.apsn = q.epsn ∧ q.win = le c.body 16 2 ∧ q.snxt = Config.trng 24 s.draws % 2 ^ 24 ∧ q.suna = q.snxt ∧ q.msns = 0
      ∧ q.wr = (byteAt c.body 18).testBit 0 ∧ q.rd = (byteAt c.body 18).testBit 1 ∧ q.at_ = (byteAt c.body 18).testBit 2 ∧ q.tlast = s.now
      ∧ q.retries = 0 ∧ q.cwnd = 16 * 256 ∧ q.rto = rtomin s ∧ q.srtt = rtomin s / 2 ∧ q.rttvar = rtomin s / 4 ∧ q.rbits = [] ∧ q.sent = []
      ∧ t.mbx.cmds = answered s c 0 (leBytes n 4 ++ leBytes q.snxt 4) ∧ (∀ m, m ≠ n → (qp? t m).isSome = (qp? s m).isSome)
      ∧ t = { s with net := t.net, mbx := t.mbx, draws := s.draws + 1, out := t.out }
      ∧ (onNode s c.td < slotsOf s c.td → q.onNode = true ∧ t.out = s.out ∧ ∀ m, m ≠ n → qp? t m = qp? s m)) ∧
  (∀ s ch c st, Starts s ch 0x0501 c →
    let n := le c.body 0 4
    let own := fun m => qpnOf c.td m = true ∧ qpnFree s m = true
    st = 1 ∧ 0x3FF < le c.body 16 2 ∨ le c.body 16 2 ≤ 0x3FF ∧
      (st = 3 ∧ n ≠ 0 ∧ qpnOf c.td n = false ∨ st = 0x61 ∧ qpnOf c.td n = true ∧ qpnFree s n = false ∨ st = 0x61 ∧ n = 0 ∧ (∀ m, ¬ own m)
        ∨ st = 0x43 ∧ (own n ∨ n = 0 ∧ ∃ m, own m) ∧ slotsOf s c.td ≤ onNode s c.td ∧ (dom s c.td).qpTab = none) →
    exec (.qpCreate ch) s = .next (withAnswer s c st [])) ∧
  (∀ s ch c q, Starts s ch 0x0502 c → qp? s (le c.body 0 4) = some q → qpnOf c.td (le c.body 0 4) = true → q.td = c.td →
    ∃ t, exec (.qpDestroy ch) s = .next t ∧ qp? t (le c.body 0 4) = none ∧ qpnFree t (le c.body 0 4) = false ∧ HasAnswer t c 0
      ∧ (∀ n, n ≠ le c.body 0 4 → (qp? t n).isSome = (qp? s n).isSome)
      ∧ ((∀ m ∈ q.sendq, m.owner = .other) → (∀ n, n ≠ le c.body 0 4 → qp? t n = qp? s n)
        ∧ t = { s with net := t.net, mbx := { s.mbx with cmds := answered s c 0 [] } })) ∧
  (∀ s ch c, Starts s ch 0x0502 c → qp? s (le c.body 0 4) = none ∨ qpnOf c.td (le c.body 0 4) = false →
    exec (.qpDestroy ch) s = .next (withAnswer s c 3 [])) ∧
  (∀ s ch c, Starts s ch 0x0503 c → le c.body 0 8 % 4096 = 0 → le c.body 8 4 = 16384 →
    ∃ t, exec (.qpTable ch) s = .next t ∧ OnlyDomAnswer s t c.td { dom s c.td with qpTab := some (le c.body 0 8) } c []) ∧
  (∀ s ch c, Starts s ch 0x0503 c → le c.body 0 8 % 4096 = 0 → le c.body 8 4 = 0 → (∀ q ∈ s.net.qps, q.td = c.td → q.onNode = true) →
    ∃ t, exec (.qpTable ch) s = .next t ∧ OnlyDomAnswer s t c.td { dom s c.td with qpTab := none } c []) ∧
  (∀ s ch c st, Starts s ch 0x0503 c →
    st = 1 ∧ (le c.body 0 8 % 4096 ≠ 0 ∨ le c.body 8 4 ≠ 0 ∧ le c.body 8 4 ≠ 16384) ∨
      st = 0x42 ∧ le c.body 0 8 % 4096 = 0 ∧ le c.body 8 4 = 0 ∧ (∃ q ∈ s.net.qps, q.td = c.td ∧ q.onNode = false) →
    exec (.qpTable ch) s = .next (withAnswer s c st []))

/-- Extent commands and composition changes (R473, R476, R478, R479, R486, R487). -/
def Obligations.ExtentCommands : Prop :=
  (∀ s ch c, Starts s ch 0x0601 c → extSetCheck s (ExtD.ofBytes c.body) = 0 → ext? s (ExtD.ofBytes c.body).id = none →
    let d := ExtD.ofBytes c.body
    ∃ t, exec (.extSet ch) s = .next t
      ∧ ext? t d.id = some { state := .active, td := d.td, host := d.host, epoch := 0, flash := d.flash, qpq := d.qpq, deadline := 0, tdl := 0, chan := d.chan, clus := d.clus }
      ∧ (∀ e, e ≠ d.id → ext? t e = ext? s e) ∧ t.cmp.pendingExt = some (d.id, c.id, false) ∧ cmd? t c.id = some { c with stage := .running }
      ∧ (∀ k ∈ d.clus, (clus t k).ext = some d.id ∧ (clus t k).td = some d.td ∧ (clus t k).dirty = true ∧ (clus t k).joining = true)
      ∧ SameBytes s t ∧ t.seqs = s.seqs ∧ t.net = s.net) ∧
  (∀ s ch c st, Starts s ch 0x0601 c → extSetCheck s (ExtD.ofBytes c.body) = st → st ≠ 0 →
    ∃ t, exec (.extSet ch) s = .next t ∧ t.mbx.cmds = answered s c st [] ∧ t.cmp = s.cmp ∧ t.mem = s.mem ∧ t.seqs = s.seqs) ∧
  (∀ s e x cid c, s.cmp.pendingExt = some (e, cid, false) → ext? s e = some x → handedOver s = true →
    (∀ k ∈ x.clus, codeClus s k = .good → (clus s k).dirty = false ∧ (clus s k).joining = false) → onNode s x.td ≤ slotsOf s x.td →
    cmd? s cid = some c → c.discard = false → s.cmp.substWait = [] →
    ∃ t, exec (.extSetComplete e) s = .next t ∧ t.cmp.pendingExt = none ∧ t.cmp.epoch = s.cmp.epoch + 1
      ∧ ext? t e = some { x with epoch := (s.cmp.epoch + 1).toNat } ∧ t.mbx.cmds = answered s c 0 (leBytes (s.cmp.epoch + 1).toNat 4)
      ∧ t.mem = s.mem ∧ t.seqs = s.seqs ∧ t.net = s.net) ∧
  (∀ s ch c, Starts s ch 0x0602 c → le c.body 0 2 ≤ 4095 → (∀ x, ext? s (le c.body 0 2) = some x → 8 ≤ ch → ch < 72 → x.td = c.td) →
    exec (.extGet ch) s = .next (withAnswer s c 0 (extBytes s (le c.body 0 2)))) ∧
  (∀ s n c x, Starts s n 0x0603 c → le c.body 2 2 ≠ 0 → le c.body 0 2 ≤ 4095 → ext? s (le c.body 0 2) = some x → x.state = .active →
    s.cmp.pendingExt = none → tablesFit s x.td (chansAfter s (le c.body 0 2) x.td []) = true →
    pagesFit s x.td (le c.body 0 2) (flashShare s x.td) true (chansAfter s (le c.body 0 2) x.td []) x.chan = true →
    ∃ t, exec (.extRevoke n) s = .next t
      ∧ ext? t (le c.body 0 2) = some { x with state := .draining, deadline := le c.body 2 2, tdl := s.now + le c.body 2 2 * 1000000 }
      ∧ t.cmp.pendingExt = some (le c.body 0 2, c.id, true) ∧ cmd? t c.id = some { c with stage := .running }
      ∧ (∀ k ∈ x.chan, (ch t k).releasing = some x.td) ∧ (∀ k ∈ x.clus, (clus t k).leaving = true) ∧ SameBytes s t ∧ t.seqs = s.seqs) ∧
  (∀ s ch c x, Starts s ch 0x0603 c → le c.body 2 2 ≠ 0 → le c.body 0 2 ≤ 4095 → ext? s (le c.body 0 2) = some x → x.state = .draining →
    s.cmp.pendingExt = none → tablesFit s x.td (chansAfter s (le c.body 0 2) x.td []) = true →
    pagesFit s x.td (le c.body 0 2) (flashShare s x.td) true (chansAfter s (le c.body 0 2) x.td []) x.chan = true →
    s.now + le c.body 2 2 * 1000000 < x.tdl →
    ∃ t, exec (.extRevoke ch) s = .next t ∧ t.mbx.cmds = answered s c 0 (leBytes s.cmp.epoch.toNat 4)
      ∧ ext? t (le c.body 0 2) = some { x with deadline := le c.body 2 2, tdl := s.now + le c.body 2 2 * 1000000 } ∧ t.mem = s.mem ∧ t.seqs = s.seqs) ∧
  (∀ s e cid c x, s.cmp.pendingExt = some (e, cid, true) → handedOver s = true → ext? s e = some x → cmd? s cid = some c → c.discard = false →
    s.cmp.substWait = [] →
    ∃ t, exec (.revokeEpochIncrement e) s = .next t ∧ t.cmp.pendingExt = none ∧ t.cmp.epoch = s.cmp.epoch + 1
      ∧ ext? t e = some { x with epoch := (s.cmp.epoch + 1).toNat } ∧ t.mbx.cmds = answered s c 0 (leBytes (s.cmp.epoch + 1).toNat 4)
      ∧ t.mem = s.mem ∧ t.seqs = s.seqs)

/-- The deadline, evacuation, zero-fill and release of an extent (R480 to R482, R486, R487). -/
def Obligations.ExtentRelease : Prop :=
  (∀ s e x, ext? s e = some x → x.state = .draining → x.tdl ≤ s.now → (∀ d ∈ s.seqs, d.2.ext ≠ e) →
    (∀ q ∈ s.net.qps, q.td = x.td → hostOf s q.peer ≠ x.host) → onNode s x.td ≤ sumOthers s e (fun y => y.td == x.td) (·.qpq) →
    ∃ t, exec (.revokeDeadline e) s = .next t ∧ ext? t e = some { x with state := .revoked, deadline := 0 } ∧ t = { s with cmp := { s.cmp with exts := t.cmp.exts } }) ∧
  (∀ s td seqn page p d x f, evacLoc s td seqn page = some p → p.record = none → seq? s td seqn = some d → ext? s d.ext = some x → x.state = .active →
    (ch s (frChan p.leaf.frame)).releasing = some td → locMoving s td p = false → placeLoc s td p none = some f →
    ∃ t, exec (.evacuationMove td seqn page) s = .next t ∧ t.mem.nextChg = s.mem.nextChg + 1 ∧ look t.mem.frames (frameIx f) = some .used
      ∧ t.mem.chgs = s.mem.chgs ++ [{ chgOf .move td p.seqn p.pix p.leaf.frame f none with id := s.mem.nextChg }]
      ∧ t.seqs = s.seqs ∧ t.cmp = s.cmp ∧ SameOutside s t (pageAddr f) (pageAddr f + 69632)) ∧
  (∀ s c td, (ch s c).releasing = some td → (∀ p ∈ domPages s td, frChan p.leaf.frame ≠ c) → (∀ g ∈ s.mem.chgs, c ∉ chgChans g) →
    (∀ e ∈ s.cmp.exts, e.2.state = .draining → c ∉ e.2.chan) →
    let lo := 9 * c * 2560 * 69632
    let hi := 9 * (c + 1) * 2560 * 69632
    ∃ t, exec (.channelZeroFill c) s = .next t ∧ (ch t c).releasing = none ∧ (∀ a, lo ≤ a → a < hi → rd8 t.mem.dram a = 0) ∧ SameOutside s t lo hi
      ∧ (∀ ix, ix / 2560 / 9 = c → look t.mem.frames ix = none ∨ look t.mem.frames ix = some .retired)
      ∧ (∀ ix, ix / 2560 / 9 ≠ c → look t.mem.frames ix = look s.mem.frames ix)
      ∧ (∀ k, k ≠ c → ch t k = ch s k) ∧ t.cmp = s.cmp ∧ t.mbx = s.mbx) ∧
  (∀ s e x, ext? s e = some x → x.state = .revoked → (∀ c ∈ x.chan, (ch s c).releasing = none) →
    (∀ k ∈ x.clus, (clus s k).leaving = false ∧ (clus s k).dirty = false) → s.cmp.pendingExt = none →
    exec (.extentReleaseComplete e) s = .next { s with cmp := { s.cmp with exts := rem s.cmp.exts e } })

/-- Migration at the source: OFFER, HANDOFF, and the timers of a migration and of a forward record (R492, R496). -/
def Obligations.MigrationAtSource : Prop :=
  (∀ s ch c d q, Starts s ch 0x0604 c → Names s c d → d.state = .own → qp? s (le c.body 20 4) = some q → q.td = d.td → q.peer = le c.body 16 4 →
    q.state = .ready → tcheckPage s d (mappedPages d) = none →
    ∃ t, exec (.seqMigrate ch) s = .next t
      ∧ seq? t d.td d.seqn = some { d with
          state := .migrating, mgen := (d.mgen + 1) % 2 ^ 16, chgMig := []
          mig := some (Mig.fresh false (le c.body 16 4 % 2 ^ 18) (le c.body 20 4) s.now (some c.id)) }
      ∧ SendsOwner s t (le c.body 20 4) ∧ cmd? t c.id = some { c with stage := .running } ∧ t.mem = s.mem ∧ OtherSeqs s t d.td d.seqn) ∧
  (∀ s td seqn d m q, seq? s td seqn = some d → d.mig = some m → d.state = .handoff → m.handoffSent = false → busySeq s td seqn = false →
    openAppends s td seqn = [] → qp? s m.qpn = some q → q.state = .ready → tcheckPage s d (mappedPages d) = none →
    ∃ t, exec (.handoffSend td seqn) s = .next t ∧ seq? t td seqn = some { d with mig := some { m with handoffSent := true } }
      ∧ SendsOwner s t m.qpn ∧ t.mem = s.mem ∧ t.mbx = s.mbx ∧ OtherSeqs s t td seqn) ∧
  (∀ s td seqn d m c, seq? s td seqn = some d → d.td = td → d.seqn = seqn → d.mig = some m → d.state = .migrating → m.incoming = false →
    m.progress + cmpMtime s ≤ s.now → claimQuiet s m = true → m.cmd = some c.id → cmd? s c.id = some c → c.discard = false →
    (∀ h ∈ s.att.handoffHeld, ¬(h.td = td ∧ h.seqn = seqn)) →
    ∃ t, exec (.migrationTimer td seqn) s = .next t ∧ seq? t td seqn = some { d with state := .own, mig := none }
      ∧ t.mbx.cmds = answered s c 0x0062 [] ∧ t.mem = s.mem ∧ OtherSeqs s t td seqn) ∧
  (∀ s td seqn d m, seq? s td seqn = some d → d.td = td → d.seqn = seqn → d.mig = some m → d.state = .forwarded → m.tfwd + cmpFwdhold s ≤ s.now →
    claimQuiet s m = true → d.exp = none → m.cmd = none → mappedPages d = [] → Settled s →
    ∃ t, exec (.fwdholdTimer td seqn) s = .next t ∧ seq? t td seqn = none ∧ SameBytes s t ∧ OtherSeqs s t td seqn ∧ t.mbx = s.mbx)

/-- Checkpoint export and import (R497 to R501, R566). -/
def Obligations.ExportAndImport : Prop :=
  (∀ s ch c d x bad, Starts s ch 0x0605 c → Settled s → Names s c d → byteAt c.body 28 = 1 → 8 ≤ ch → ch < 72 → d.state = .own → d.exp = none → le c.body 16 4 = 0 →
    sess? s false d.td (le c.body 24 4) = some x → (∀ p ∈ mappedPages d, (exportPage s d bad p).1 ≠ 3 ∧ ∀ k, walk s d p ≠ .tcheck k) →
    let bs := (exportRecords s d bad x.exportKey x.xid (le c.body 20 4) 0).1
    bs.length ≤ le c.body 48 8 → dmaStopped s (chanFn ch) = false →
    ∃ t d' e, exec (.seqExport ⟨ch, bad⟩) s = .next t ∧ seq? t d.td d.seqn = some d' ∧ d'.exp = some e ∧ e.cmd = c.id ∧ e.newep = le c.body 20 4 ∧ e.xid = x.xid
      ∧ e.records = (mappedPages d).length ∧ e.bytes = bs.length ∧ e.written = true ∧ (∀ p ∈ mappedPages d, p ∉ d'.chgExp) ∧ d'.ckep = d.ckep
      ∧ t.out = .dmaWrite (chanFn ch) (le c.body 40 8) bs :: s.out ∧ cmd? t c.id = some { c with stage := .running }
      ∧ SameBytes s t ∧ OtherSeqs s t d.td d.seqn) ∧
  (∀ s td seqn d e c, seq? s td seqn = some d → d.exp = some e → e.hostDma = true → cmd? s e.cmd = some c → c.discard = false →
    ∃ t, exec (.exportComplete td ⟨seqn, false⟩) s = .next t
      ∧ seq? t td seqn = some { d with exp := none, chgExp := d.chgExp ++ e.cleared.filter (fun p => !d.chgExp.contains p) }
      ∧ t.mbx.cmds = answered s c 0x0062 [] ∧ t.mem = s.mem ∧ OtherSeqs s t td seqn) ∧
  (∀ s td seqn ok d e c, seq? s td seqn = some d → d.exp = some e → e.written = true → (e.hostDma = true → ok = true) → cmd? s e.cmd = some c →
    c.discard = false →
    ∃ t, exec (.exportComplete td ⟨seqn, ok⟩) s = .next t ∧ seq? t td seqn = some { d with exp := none, ckep := e.newep }
      ∧ t.mbx.cmds = answered s c 0 (leBytes e.xid 4 ++ leBytes e.records 4 ++ leBytes e.bytes 8) ∧ t.mem = s.mem ∧ OtherSeqs s t td seqn) ∧
  (∀ s ch c x, Starts s ch 0x0606 c → le c.body 0 8 % 2 ^ 40 = 0 → byteAt c.body 28 = 1 → 8 ≤ ch → ch < 72 →
    let a := Sva.ofNat (le c.body 0 8)
    a.td = c.td → ext? s (le c.body 8 2) = some x → x.td = c.td → x.state = .active → (sess? s false c.td (le c.body 24 4)).isSome = true →
    seq? s c.td a.seqn = none → le c.body 16 4 = 0 → descRoom s c.td (seqKey c.td a.seqn) = true → le c.body 48 8 ≠ 0 →
    dmaStopped s (chanFn ch) = false →
    let k := nextKey (freeKey s (seqKey c.td a.seqn)).kidx (freeKey s (seqKey c.td a.seqn)).sgen (freeKey s (seqKey c.td a.seqn)).kbase
    ∃ t d y, exec (.seqImport ch) s = .next t ∧ seq? t c.td a.seqn = some d ∧ d.state = .own ∧ d.ext = le c.body 8 2 ∧ d.leaves = [] ∧ d.len = 0
      ∧ d.kidx = k.1 ∧ d.sgen = k.2.1 ∧ d.kbase = k.2.2.1 ∧ cmd? t c.id = some y ∧ y.stage = .running
      ∧ t.out = .dmaRead s.mbx.nextDma (chanFn ch) (le c.body 40 8) (min 4096 (le c.body 48 8)) :: s.out
      ∧ t.mbx.dma = s.mbx.dma ++ [(s.mbx.nextDma, .importSource c.id)] ∧ t.mem = s.mem ∧ OtherSeqs s t c.td a.seqn) ∧
  (∀ s ch c bs d x, RecordFits s c bs d x →
    s.mbx.cmds.find? (fun c => c.ch == ch && c.code == 0x0606 && c.stage == .running
      && (frontRecord c.part == some bs || importDead s c || (Imp.ofCmd c).failed != 0)) = some c → (Imp.ofCmd c).failed = 0 →
    nbits (le bs 0 8) 63 56 = 0x5A → (Imp.ofCmd c).index ≠ 0 → nbits (le bs 0 8) 31 0 = 8 → d.exp = none → d.mig = none →
    ∃ t, exec (.importRecord ch bs) s = .next t
      ∧ (le (recordBody x bs) 0 8 = (Imp.ofCmd c).pages → HasAnswer t c 0 ∧ t.mem = s.mem ∧ OtherSeqs s t d.td d.seqn
        ∧ seq? t d.td d.seqn = some { d with ckep := nbits (le bs 16 8) 63 32, len := nbits (le bs 40 8) 63 32, tfront := nbits (le bs 40 8) 31 0 })
      ∧ (le (recordBody x bs) 0 8 ≠ (Imp.ofCmd c).pages → seqBusy s d = false → HasAnswer t c 0x46 ∧ seq? t d.td d.seqn = none)
      ∧ (le (recordBody x bs) 0 8 ≠ (Imp.ofCmd c).pages → seqBusy s d = true → t.seqs = s.seqs ∧ ∃ y, cmd? t c.id = some y ∧ (Imp.ofCmd y).failed = 0x46)) ∧
  (∀ s ch c bs d x, RecordFits s c bs d x →
    s.mbx.cmds.find? (fun c => c.ch == ch && c.code == 0x0606 && c.stage == .running
      && (frontRecord c.part == some bs || importDead s c || (Imp.ofCmd c).failed != 0)) = some c → (Imp.ofCmd c).failed = 0 →
    nbits (le bs 0 8) 63 56 = 0x58 → (Imp.ofCmd c).index = 0 → nbits (le bs 0 8) 31 0 = 64 → d.exp = none → d.mig = none →
    (frontRecord (c.part.drop bs.length)).isSome = true →
    ∃ t, exec (.importRecord ch bs) s = .next t
      ∧ (recordBody x bs = fmtBytes s d.td → t.mem = s.mem ∧ (∃ y, cmd? t c.id = some y ∧ y.part = c.part.drop bs.length ∧ (Imp.ofCmd y).index = 1)
        ∧ seq? t d.td d.seqn = some { d with
            base := nbits (le bs 48 8) 63 32, hend := nbits (le bs 48 8) 31 0, len := nbits (le bs 40 8) 63 32, tfront := nbits (le bs 40 8) 31 0 })
      ∧ (recordBody x bs ≠ fmtBytes s d.td → seqBusy s d = false → HasAnswer t c 0x46 ∧ seq? t d.td d.seqn = none))

/-- Report slots: report, signature, reading, upload, expiry (R522, R523, R526, R527, R565). -/
def Obligations.ReportSlots : Prop :=
  (∀ s ch c k, Starts s ch 0x0701 c → s.sec.identity = true → (byteAt c.body 4 % 2 = 1 → ch < 8) → (byteAt c.body 4 % 2 = 0 → (dom s c.td).sealed = true) →
    freeSlot? s = some k →
    ∃ t x, exec (.sesReport ch) s = .next t ∧ look t.sec.slots k = some x ∧ x.num = s.sec.nextReport ∧ x.td = c.td ∧ x.peer = le c.body 0 4 % 2 ^ 24
      ∧ x.mgmt = decide (byteAt c.body 4 % 2 = 1) ∧ x.nonce = fit (slice c.body 16 32) 32 ∧ x.signing = some c.id
      ∧ x.dk = BitVec.ofNat 256 (Config.trng 256 s.draws) ∧ (∀ j, j ≠ k → look t.sec.slots j = look s.sec.slots j)
      ∧ cmd? t c.id = some { c with stage := .running } ∧ t = { s with sec := t.sec, mbx := t.mbx, draws := s.draws + 1 }) ∧
  (∀ s slot x c, look s.sec.slots slot = some x → x.signing = some c.id → slot ∈ signingNow s → s.up = true → cmd? s c.id = some c → c.discard = false →
    let r := signedReport s slot x
    let out := if x.out = [] then [] else x.out ++ r ++ s.boot.certs ++ s.sec.aliasCert
    ∃ t, exec (.reportSigned slot) s = .next t ∧ look t.sec.slots slot = some { x with signing := none, report := r, out := out, since := s.now }
      ∧ (∀ j, j ≠ slot → look t.sec.slots j = look s.sec.slots j)
      ∧ t.mbx.cmds = answered s c 0 (if x.out = [] then leBytes (rptid slot x) 4 ++ leBytes r.length 4 else leBytes out.length 4)
      ∧ t = { s with sec := { s.sec with slots := t.sec.slots }, mbx := t.mbx, regs := t.regs }) ∧
  (∀ s ch c bs, Starts s ch 0x0703 c →
    byteAt c.body 4 = 1 ∧ bs = s.boot.certs ∨ byteAt c.body 4 = 2 ∧ bs = s.sec.aliasCert ∨
      (∃ x, slot? s (le c.body 0 4) c.td = some x ∧ x.signing = none ∧ (byteAt c.body 4 = 0 ∧ bs = x.report ∨ byteAt c.body 4 = 3 ∧ bs = x.out)) →
    bs ≠ [] → le c.body 12 4 ≤ 4032 → le c.body 8 4 + le c.body 12 4 ≤ bs.length →
    exec (.sesRead ch) s = .next (withAnswer s c 0 (fit c.body 16 ++ leBytes bs.length 4 ++ zeros 28 ++ slice bs (le c.body 8 4) (le c.body 12 4)))) ∧
  (∀ s ch c x, Starts s ch 0x0704 c → le c.body 0 4 ≠ 0 → slot? s (le c.body 0 4) c.td = some x → le c.body 12 4 ≤ 4032 →
    le c.body 8 4 + le c.body 12 4 ≤ 131072 →
    ∃ t x', exec (.sesWrite ch) s = .next t ∧ look t.sec.slots (le c.body 0 4 / 2 ^ 28) = some x' ∧ x' = { x with upload := x'.upload }
      ∧ (∀ i, i < le c.body 12 4 → lookD 0 x'.upload (le c.body 8 4 + i) = (fit (c.body.drop 48) (le c.body 12 4)).getD i 0)
      ∧ (∀ j, j < le c.body 8 4 ∨ le c.body 8 4 + le c.body 12 4 ≤ j → lookD 0 x'.upload j = lookD 0 x.upload j)
      ∧ t.mbx.cmds = answered s c 0 (leBytes (le c.body 0 4) 4) ∧ t = { s with sec := { s.sec with slots := t.sec.slots }, mbx := t.mbx }) ∧
  (∀ s ch c k, Starts s ch 0x0704 c → le c.body 0 4 = 0 → freeSlot? s = some k → le c.body 12 4 ≤ 4032 → le c.body 8 4 + le c.body 12 4 ≤ 131072 →
    ∃ t x, exec (.sesWrite ch) s = .next t ∧ look t.sec.slots k = some x ∧ x.num = s.sec.nextReport ∧ x.td = c.td ∧ x.signing = none
      ∧ (∀ i, i < le c.body 12 4 → lookD 0 x.upload (le c.body 8 4 + i) = (fit (c.body.drop 48) (le c.body 12 4)).getD i 0)
      ∧ t.mbx.cmds = answered s c 0 (leBytes (rptid k x) 4) ∧ t = { s with sec := t.sec, mbx := t.mbx }) ∧
  (∀ s ch c, Starts s ch 0x0705 c → s.sec.identity = true →
    exec (.sesCerts ch) s = .next (withAnswer s c 0 (leBytes s.boot.certs.length 4 ++ leBytes s.sec.aliasCert.length 4))) ∧
  (∀ s slot x, look s.sec.slots slot = some x → x.signing = none → s.up = true → x.since + 10000000000 ≤ s.now →
    exec (.reportSlotExpiry slot) s = .next { s with sec := { s.sec with slots := rem s.sec.slots slot } })

/-- Session keys: opening from either side, closing, expiry of a replaced key, the management key, zeroisation (R524 to R528, R533, R534). -/
def Obligations.SessionKeys : Prop :=
  (∀ s ch c x, Starts s ch 0x0702 c → s.sec.identity = true → (dom s c.td).sealed = true → slot? s (le c.body 0 4) c.td = some x → x.signing = none →
    le c.body 4 4 ≤ 131072 → (∀ d ∈ s.seqs, d.2.exp = none) →
    let up := slotBytes x.upload (le c.body 4 4)
    let rep := up.take (reportLen up)
    let peer := nbits (be rep 16 8) 57 40
    let e := Config.kemEncaps (slice rep (rep.length - 49856 - 1568) 1568) (Config.trng 256 s.draws % 2 ^ 256)
    sessionFull s false c.td peer = false →
    ∃ t, exec (.sesPeer ch) s = .next t ∧ t.net.qps = s.net.qps ∧ t.mem = s.mem ∧ t.seqs = s.seqs
      ∧ (peerReportOk s c.td rep (up.drop (reportLen up)) = false → t.mbx.cmds = answered s c 0x0054 [] ∧ t.net = s.net ∧ t.sec = s.sec)
      ∧ (peerReportOk s c.td rep (up.drop (reportLen up)) = true → ∃ y z, sess? t false c.td peer = some y
      ∧ y.frameKey = BitVec.ofNat 256 (be (sessionSecret e.2 rep e.1 c.td (nodeId s)) 0 32) ∧ y.exportKey = BitVec.ofNat 256 (be (sessionSecret e.2 rep e.1 c.td (nodeId s)) 32 32)
      ∧ y.fcnt = 0 ∧ y.xid = 0 ∧ y.old = (sess? s false c.td peer).map (fun o => (o.frameKey, s.now + 10000000))
      ∧ look t.sec.slots (le c.body 0 4 / 2 ^ 28) = some z ∧ z.signing = some c.id ∧ z.peer = peer ∧ z.out = fit e.1 1568
      ∧ cmd? t c.id = some { c with stage := .running })) ∧
  (∀ s ch c x, Starts s ch 0x0706 c → byteAt c.body 4 ≤ 2 → slot? s (le c.body 0 4) c.td = some x → (x.mgmt = true ∧ ch < 8 ∨ x.mgmt = false ∧ (dom s c.td).sealed = true) →
    x.report ≠ [] → le c.body 8 4 ≤ 131072 → (∀ d ∈ s.seqs, d.2.exp = none) →
    let up := slotBytes x.upload (le c.body 8 4)
    let secret := sessionSecret (Config.kemDecaps x.dk (up.take 1568)) x.report (up.take 1568) (if x.mgmt then 0 else x.td) x.peer
    openOk s x (byteAt c.body 4) up = true → sessionFull s x.mgmt x.td x.peer = false →
    (∀ e ∈ s.sec.slots, e.1 = le c.body 0 4 / 2 ^ 28 → e.2.signing = none) →
    ∃ t y, exec (.sesOpen ch) s = .next t ∧ sess? t x.mgmt x.td x.peer = some y ∧ y.frameKey = BitVec.ofNat 256 (be secret 0 32)
      ∧ y.exportKey = BitVec.ofNat 256 (be secret 32 32) ∧ y.fcnt = 0 ∧ y.xid = 0
      ∧ y.old = (sess? s x.mgmt x.td x.peer).map (fun o => (o.frameKey, s.now + 10000000))
      ∧ look t.sec.slots (le c.body 0 4 / 2 ^ 28) = none ∧ t.mbx.cmds = answered s c 0 [] ∧ t.net.qps = s.net.qps ∧ t.mem = s.mem ∧ t.seqs = s.seqs) ∧
  (∀ s ch c x, Starts s ch 0x0706 c → byteAt c.body 4 ≤ 2 → slot? s (le c.body 0 4) c.td = some x → (x.mgmt = true ∧ ch < 8 ∨ x.mgmt = false ∧ (dom s c.td).sealed = true) →
    x.report ≠ [] → le c.body 8 4 ≤ 131072 → openOk s x (byteAt c.body 4) (slotBytes x.upload (le c.body 8 4)) = false →
    (∀ e ∈ s.sec.slots, e.1 = le c.body 0 4 / 2 ^ 28 → e.2.signing = none) →
    ∃ t, exec (.sesOpen ch) s = .next t ∧ look t.sec.slots (le c.body 0 4 / 2 ^ 28) = none ∧ t.mbx.cmds = answered s c 0x0054 [] ∧ t.net = s.net ∧ SameBytes s t ∧ t.seqs = s.seqs) ∧
  (∀ s ch c x, Starts s ch 0x0706 c → slot? s (le c.body 0 4) c.td = some x → (∀ e ∈ s.sec.slots, e.1 = le c.body 0 4 / 2 ^ 28 → e.2.signing = none) →
    2 < byteAt c.body 4 ∨ x.mgmt = false ∧ (dom s c.td).sealed = false ∨ (x.mgmt = true ∧ ch < 8 ∨ x.mgmt = false ∧ (dom s c.td).sealed = true) ∧
      (x.report = [] ∨ 131072 < le c.body 8 4) →
    ∃ t st, exec (.sesOpen ch) s = .next t ∧ look t.sec.slots (le c.body 0 4 / 2 ^ 28) = none ∧ t.net = s.net ∧ t.mbx.cmds = answered s c st [] ∧ SameBytes s t ∧ t.seqs = s.seqs
      ∧ st = if 2 < byteAt c.body 4 then 0x0001 else if x.mgmt = false ∧ (dom s c.td).sealed = false then 0x0051 else 0x0053) ∧
  (∀ s ch c, Starts s ch 0x0707 c → (∀ d ∈ s.seqs, d.2.exp = none) →
    ∃ t, exec (.sesClose ch) s = .next t ∧ (∀ x ∈ t.net.sess, ¬(x.mgmt = false ∧ x.td = c.td ∧ x.peer = le c.body 0 4))
      ∧ (∀ n q, qp? s n = some q → q.td = c.td → q.peer = le c.body 0 4 → ∃ q', qp? t n = some q' ∧ q'.state = .error)
      ∧ HasAnswer t c 0 ∧ SameBytes s t ∧ t.seqs = s.seqs) ∧
  (∀ s td peer, s.up = true →
    ∃ t, exec (.oldSessionKeyExpiry td peer) s = .next t ∧ t = { s with net := { s.net with sess := t.net.sess } }
      ∧ (∀ x ∈ t.net.sess, x.td = td → x.peer = peer → ∀ k e, x.old = some (k, e) → s.now < e)
      ∧ t.net.sess.map (fun x => { x with old := none }) = s.net.sess.map (fun x => { x with old := none })) ∧
  (∀ s ch c, Starts s ch 0x0708 c →
    exec (.secMgmtkey ch) s = .next { s with
      sec := { s.sec with mgmtKey := if allZero (fit c.body 64) then [] else fit c.body 64 }
      mbx := { s.mbx with cmds := answered s c 0 [] } }) ∧
  (∀ s ch c, Starts s ch 0x0709 c →
    ∃ t, exec (.secZeroise ch) s = .next t ∧ t.sec.slots = [] ∧ t.sec.stopped = true ∧ t.net.sess = [] ∧ t.net.spillKey = 0 ∧ t.mem.flashKey = 0
      ∧ t.mem.pages = [] ∧ (∀ d ∈ t.doms, d.2.place.key = 0) ∧ t.mbx.cmds = answered s c 0 [] ∧ SameBytes s t ∧ t.seqs = s.seqs)

/-- The SPDM responder (R531): each exchange in its place answers and moves the connection on; one out of place gets ERROR. -/
def Obligations.SpdmMessages : Prop :=
  (∀ s m, spdmReady s = true →
    exec (.getVersion m) s = .next { s with
      out := .spdm ([0x13, 0x04, 0, 0] ++ Config.spdmBody 0x04 m) :: s.out
      sec := { s.sec with spdm := .version, handshake := false, secured := false } }) ∧
  (∀ s m, spdmReady s = true → s.sec.spdm = .version →
    exec (.getCapabilities m) s = .next { s with
      out := .spdm ([0x13, 0x61, 0, 0] ++ Config.spdmBody 0x61 m) :: s.out
      sec := { s.sec with spdm := .capabilities } }) ∧
  (∀ s m, spdmReady s = true → s.sec.spdm = .capabilities →
    exec (.negotiateAlgorithms m) s = .next { s with
      out := .spdm ([0x13, 0x63, 0, 0] ++ Config.spdmBody 0x63 m) :: s.out
      sec := { s.sec with spdm := .algorithms } }) ∧
  (∀ s m, spdmReady s = true → s.sec.spdm = .algorithms →
    exec (.getDigests m) s = .next { s with out := .spdm ([0x13, 0x01, 0, 0] ++ Config.spdmBody 0x01 (m ++ s.boot.certs)) :: s.out }
    ∧ exec (.getCertificate m) s = .next { s with out := .spdm ([0x13, 0x02, 0, 0] ++ slice s.boot.certs (le m 4 2) (le m 6 2)) :: s.out }
    ∧ (let b := Config.spdmBody 0x03 (m ++ s.boot.certs)
      exec (.challenge m) s = .next { s with out := .spdm ([0x13, 0x03, 0, 0] ++ (b ++ Config.p384Sign s.sec.spdmKey (m ++ b))) :: s.out })
    ∧ (∃ blocks, exec (.getMeasurements m) s = .next { s with
        out := .spdm ([0x13, 0x60, 0, 0] ++ (Config.spdmBody 0x60 m ++ (digestBytes s.boot.fwdig ++ blocks))) :: s.out })) ∧
  (∀ s m, spdmReady s = true → s.sec.spdm = .algorithms →
    let b := Config.p384Share (Config.trng 384 s.draws % 2 ^ 384) m
    exec (.keyExchange m) s = .next { s with
      draws := s.draws + 1
      out := .spdm ([0x13, 0x64, 0, 0] ++ (b ++ Config.p384Sign s.sec.spdmKey (m ++ b))) :: s.out
      sec := { s.sec with handshake := true } }) ∧
  (∀ s m, spdmReady s = true → s.sec.spdm = .algorithms → s.sec.handshake = true →
    exec (.finish m) s = .next { s with
      out := .spdm ([0x13, 0x65, 0, 0] ++ Config.spdmBody 0x65 m) :: s.out
      sec := { s.sec with handshake := false, secured := true } }) ∧
  (∀ s m, spdmReady s = true → s.sec.spdm = .algorithms → s.sec.secured = true →
    exec (.endSession m) s = .next { s with
      out := .spdm ([0x13, 0x6C, 0, 0] ++ Config.spdmBody 0x6C m) :: s.out
      sec := { s.sec with secured := false } }) ∧
  (∀ s m i, i ∈ [Instr.getDigests m, .getCertificate m, .challenge m, .getMeasurements m, .keyExchange m, .finish m, .endSession m] →
    spdmReady s = true → s.sec.spdm ≠ .algorithms → exec i s = .next { s with out := .spdm [0x13, 0x7F, 0x04, 0] :: s.out })

/-- IDE key sets, TDISP and the debug token (R512, R530, R532, R694). -/
def Obligations.HostPathSecurity : Prop :=
  (∀ s stream tx set key, spdmReady s = true → s.sec.secured = true → stream < 65 → set < 2 →
    let x := lookD Ide.fresh s.sec.ide stream
    exec (.ideKmKeyProgramming stream tx set key) s = .next { s with
      out := .tdisp true :: s.out
      sec := { s.sec with ide := put s.sec.ide stream (if tx then { x with txKeys := put x.txKeys set key } else { x with rxKeys := put x.rxKeys set key }) } }) ∧
  (∀ s stream tx set, spdmReady s = true → s.sec.secured = true →
    let x := lookD Ide.fresh s.sec.ide stream
    (look (if tx then x.txKeys else x.rxKeys) set).isSome = true →
    exec (.kSetGo stream tx set) s = .next { s with
      out := .tdisp true :: s.out
      sec := { s.sec with ide := put s.sec.ide stream (if tx then { x with txSet := some set } else { x with rxSet := some set }) } }) ∧
  (∀ s stream tx set, spdmReady s = true → s.sec.secured = true →
    look (if tx then (lookD Ide.fresh s.sec.ide stream).txKeys else (lookD Ide.fresh s.sec.ide stream).rxKeys) set = none →
    exec (.kSetGo stream tx set) s = .next { s with out := .tdisp false :: s.out }) ∧
  (∀ s vf, spdmReady s = true → s.sec.secured = true → vf < 64 → (dom s vf).sealed = true → (dom s vf).tdi = .unlocked →
    ∃ t, exec (.lockInterfaceRequest vf) s = .next t ∧ (dom t vf).tdi = .locked ∧ (∀ k, k ≠ vf → dom t k = dom s k)
      ∧ t = { s with doms := t.doms, out := .tdisp true :: s.out }) ∧
  (∀ s vf, spdmReady s = true → s.sec.secured = true → vf < 64 → (dom s vf).sealed = false →
    exec (.lockInterfaceRequest vf) s = .next { s with out := .tdisp false :: s.out }) ∧
  (∀ s vf, spdmReady s = true → s.sec.secured = true → vf < 64 → (dom s vf).tdi = .locked →
    ∃ t, exec (.tdispMessage vf .startInterface) s = .next t ∧ (dom t vf).tdi = .run ∧ (∀ k, k ≠ vf → dom t k = dom s k)
      ∧ t = { s with doms := t.doms, out := .tdisp true :: s.out }) ∧
  (∀ s vf, spdmReady s = true → s.sec.secured = true → vf < 64 →
    ∃ t, exec (.tdispMessage vf .stopInterface) s = .next t ∧ (dom t vf).tdi = .unlocked ∧ (∀ k, k ≠ vf → dom t k = dom s k)
      ∧ t = { s with doms := t.doms, out := .tdisp true :: s.out }) ∧
  (∀ s token, s.pwr.powered = true →
    exec (.debugUnlockToken token) s = .next (if Config.debugToken token = true then { s with sec := { s.sec with debugArmed := true } } else s))

/-- Changes of leaf entries come to their end: moves, promotions and demotions (R71, R72, R275 to R278, R297, R298, R301, R355). -/
def Obligations.LeafChanges : Prop :=
  (∀ s cid c d l, chg? s cid = some c → c.kind = .move → c.rewritten = false → c.record = none → seq? s c.td c.seqn = some d → leafOf d c.page = some l →
    l.psn = false → chgRetrains s c = false → c.inPair = false → (rdPage s.mem c.src 0 69632).bad = [] →
    ∃ t d', exec (.leafRewrite cid) s = .next t ∧ seq? t c.td c.seqn = some d' ∧ leafOf d' c.page = some { l with frame := c.dst }
      ∧ (∀ k, k < 69632 → rd8 t.mem.dram (pageAddr c.dst + k) = (rdPage s.mem c.src 0 69632).bytes.getD k 0)
      ∧ SameOutside s t (pageAddr c.dst) (pageAddr c.dst + 69632) ∧ (∃ x, chg? t cid = some x ∧ x.rewritten = true) ∧ OtherSeqs s t c.td c.seqn) ∧
  (∀ s cid c d l, chg? s cid = some c → c.kind = .move → c.rewritten = false → c.record = none → seq? s c.td c.seqn = some d → leafOf d c.page = some l →
    chgRetrains s c = false → (c.inPair = true → c.issued = true) → l.psn = true ∨ c.inPair = true →
    ∃ t d', exec (.leafRewrite cid) s = .next t ∧ seq? t c.td c.seqn = some d' ∧ leafOf d' c.page = some { l with frame := c.dst }
      ∧ (l.psn = false → SameBytes s t) ∧ SameOutside s t (pageAddr c.dst) (pageAddr c.dst + 69632)
      ∧ (l.psn = true → ∀ k, k < 65536 → rd8 t.mem.dram (pageAddr c.dst + k) = 0) ∧ (∃ x, chg? t cid = some x ∧ x.rewritten = true) ∧ OtherSeqs s t c.td c.seqn) ∧
  (∀ s cid c d l, chg? s cid = some c → c.kind = .cow → c.cmp = 0 → c.rewritten = false → pageUsers s c.td c.seqn c.src = false →
    chgPoisoned s c = false → chgRetrains s c = false → c.inPair = false → (rdPage s.mem c.src 0 69632).bad = [] → seq? s c.td c.seqn = some d → leafOf d c.page = some l → l.tier = .shared →
    Settled s →
    ∃ t d' l', exec (.leafRewrite cid) s = .next t ∧ seq? t c.td c.seqn = some d' ∧ leafOf d' c.page = some l' ∧ l'.tier = .dram ∧ l'.frame = c.dst
      ∧ l'.tdc = c.td ∧ l'.gen = (l.gen + 1) % 2 ^ 16 ∧ l'.shr = false ∧ l'.psn = false ∧ chg? t cid = none
      ∧ (∀ k, k < 69632 → rd8 t.mem.dram (pageAddr c.dst + k) = (rdPage s.mem c.src 0 69632).bytes.getD k 0)
      ∧ SameOutside s t (pageAddr c.dst) (pageAddr c.dst + 69632) ∧ OtherSeqs s t c.td c.seqn) ∧
  (∀ s cid c u, s.att.units.find? (fun x => x.2.contains (.copy cid)) = some u → nextOp s u.1 = some (.copy cid) → pairRuns s u.1 = true →
    chg? s cid = some c → chgPoisoned s c = false → (rdPage s.mem c.src 0 69632).bad = [] → Settled s →
    ∃ t, exec (.copy (.sequencer cid)) s = .next t ∧ chg? t cid = some { c with issued := true } ∧ lookD [] t.att.units u.1 = (lookD [] s.att.units u.1).drop 1
      ∧ (∀ k, k < 69632 → rd8 t.mem.dram (pageAddr c.dst + k) = (rdPage s.mem c.src 0 69632).bytes.getD k 0)
      ∧ SameOutside s t (pageAddr c.dst) (pageAddr c.dst + 69632) ∧ t.seqs = s.seqs) ∧
  (∀ s cid c, chg? s cid = some c → c.rewritten = true → c.kind = .move ∨ c.kind = .demote → frameUsers s c.src = [] →
    codeChan s (frChan c.src) = .good → Settled s →
    ∃ t, exec (.oldFrameReturn cid) s = .next t ∧ chg? t cid = none ∧ look t.mem.frames (frameIx c.src) = some .dirty ∧ SameBytes s t
      ∧ (c.kind = .move → (∀ d, seq? s c.td c.seqn = some d → ∀ e ∈ d.l2, ∃ i, i < 64 * (e.2.len + 1) ∧ ∀ l, look d.leaves (e.1 * 0x400 + i) = some l → l.tier ≠ .flash) →
        t.mem.pages = s.mem.pages ∧ t.seqs = s.seqs)) ∧
  (∀ s cid c d l p, chg? s cid = some c → c.kind = .promote → c.issued = true → c.rewritten = false → c.record = none → chgRetrains s c = false →
    look s.mem.pages c.src = some p → p.bad = false → seq? s c.td c.seqn = some d → leafOf d c.page = some l →
    ∃ t d', exec (.promotionComplete cid false) s = .next t ∧ seq? t c.td c.seqn = some d'
      ∧ leafOf d' c.page = some { l with tier := .dram, frame := c.dst, cmp := 0 } ∧ look t.mem.pages c.src = none
      ∧ (∀ k, k < 65536 → rd8 t.mem.dram (pageAddr c.dst + k) = lookD 0 p.data k)
      ∧ SameOutside s t (pageAddr c.dst) (pageAddr c.dst + 69632) ∧ (∃ x, chg? t cid = some x ∧ x.rewritten = true) ∧ OtherSeqs s t c.td c.seqn) ∧
  (∀ s cid c d l p, chg? s cid = some c → c.kind = .promote → c.issued = true → c.rewritten = false → c.record = none → chgRetrains s c = false →
    look s.mem.pages c.src = some p → seq? s c.td c.seqn = some d → leafOf d c.page = some l → l.tier = .flash → codeChan s (frChan c.dst) = .good →
    Settled s →
    ∃ t d', exec (.promotionComplete cid true) s = .next t ∧ seq? t c.td c.seqn = some d' ∧ leafOf d' c.page = some { l with psn := true }
      ∧ chg? t cid = none ∧ look t.mem.frames (frameIx c.dst) = some .dirty ∧ SameBytes s t ∧ OtherSeqs s t c.td c.seqn) ∧
  (∀ s cid c d l k x, chg? s cid = some c → c.kind = .demote → c.issued = true → c.rewritten = false → c.record = none → programTarget s cid = some k → chgRetrains s c = false → Settled s →
    seq? s c.td c.seqn = some d → leafOf d c.page = some l →
    let p := flashCopy (dom s c.td).geom c.td c.cmp c.src s.mem
    p.2.bad = [] → target? s (k / 8) (k % 8) = some x → (writeBlock s (k / 8) (k % 8) (storedSize 0 true) x).isSome = true →
    ∃ t d' l' y, exec (.demotionComplete cid true) s = .next t ∧ seq? t c.td c.seqn = some d' ∧ leafOf d' c.page = some l' ∧ l'.tier = .flash ∧ l'.frame = c.dst
      ∧ look t.mem.pages c.dst = some y ∧ y.data = p.1.data ∧ y.side = p.1.side ∧ y.cmp = p.1.cmp ∧ y.bad = false ∧ y.td = c.td
      ∧ SameBytes s t ∧ (∃ x, chg? t cid = some x ∧ x.rewritten = true) ∧ OtherSeqs s t c.td c.seqn) ∧
  (∀ s cid c k, chg? s cid = some c → c.kind = .demote → c.issued = true → c.rewritten = false → programTarget s cid = some k → chgRetrains s c = false →
    ∃ t, exec (.demotionComplete cid false) s = .next t ∧ chg? t cid = some { c with issued := false } ∧ SameBytes s t ∧ t.seqs = s.seqs)

/-- Demotion starts, staging reads, wakes and heat (R268, R271, R273, R275, R280 to R284). -/
def Obligations.DemotionAndStaging : Prop :=
  (∀ s td seqn p d l e n k x, s.up = true → 1024 * freeFrames s td < tierLo s td * poolFrames s td ∨ (dom s td).demoting = true →
    1024 * (freeFrames s td + pendingDemotes s td) < tierHi s td * poolFrames s td →
    tierHi s td * poolFrames s td ≤ 1024 * (freeFrames s td + pendingDemotes s td + 1) →
    victim s td true = some (.page td seqn p) → seq? s td seqn = some d → walk s d p = .page l e → l.tier ≠ .shared → chooseLpn s d p = some n →
    pickTarget s (storedSize 0 true) = some k → look s.mem.targets k = some x →
    ∃ t, exec (.backgroundDemotion td) s = .next t
      ∧ t.mem.chgs = s.mem.chgs ++ [{ chgOf .demote td seqn p e.frame n none with id := s.mem.nextChg, cmp := tierCmpm s td }]
      ∧ look t.mem.targets k = some { x with queue := x.queue ++ [(3, .program s.mem.nextChg)] } ∧ t.seqs = s.seqs ∧ SameBytes s t
      ∧ (dom t td).demoting = belowHi s td) ∧
  (∀ s td, tierLo s td * poolFrames s td ≤ 1024 * freeFrames s td → (dom s td).demoting = false → exec (.backgroundDemotion td) s = .next s) ∧
  (∀ s td w seqn p d l e n k x, nextWake s td = some w → seq? s td w.seqn = some w → place s td w.seqn ((nextRead s w).getD 0) none = none →
    victim s td false = some (.page td seqn p) → seq? s td seqn = some d → walk s d p = .page l e → l.tier ≠ .shared → chooseLpn s d p = some n →
    pickTarget s (storedSize 0 true) = some k → look s.mem.targets k = some x →
    ∃ t, exec (.forcedDemotion td) s = .next t
      ∧ t.mem.chgs = s.mem.chgs ++ [{ chgOf .demote td seqn p e.frame n none with id := s.mem.nextChg, cmp := tierCmpm s td, staged := true }]
      ∧ look t.mem.targets k = some { x with queue := x.queue ++ [(3, .program s.mem.nextChg)] } ∧ SameBytes s t
      ∧ seq? t td w.seqn = some { w with wake := { w.wake with
          waited := if w.wake.waited.contains ((nextRead s w).getD 0) then w.wake.waited else w.wake.waited ++ [(nextRead s w).getD 0] } } ∧ OtherSeqs s t td w.seqn) ∧
  (∀ s td d p l e f fp x, nextWake s td = some d → seq? s td d.seqn = some d → nextRead s d = some p → walk s d p = .page l e → e.tier = .flash →
    e.psn = false → l.tier ≠ .shared → isMoving s td d.seqn p = false → place s td d.seqn p none = some f → look s.mem.pages e.frame = some fp →
    fp.bad = false → target? s fp.chan fp.tgt = some x → (dom s td).staged < tierFwt s td →
    ∃ t d', exec (.stagingReadIssue td) s = .next t ∧ seq? t td d.seqn = some d' ∧ d'.wake.queue = d.wake.queue.filter (· != p) ∧ d'.wake.issued = d.wake.issued ++ [p]
      ∧ t.mem.chgs = s.mem.chgs ++ [{ chgOf .promote td d.seqn p e.frame f none with id := s.mem.nextChg, staged := true }]
      ∧ target? t fp.chan fp.tgt = some { x with queue := x.queue ++ [(1, .readChg s.mem.nextChg)] }
      ∧ look t.mem.frames (frameIx f) = some .used ∧ (dom t td).staged = (dom s td).staged + 1
      ∧ SameOutside s t (pageAddr f) (pageAddr f + 69632) ∧ OtherSeqs s t td d.seqn) ∧
  (∀ s td seqn page d, seq? s td seqn = some d → d.td = td → d.seqn = seqn → page ∈ d.wake.issued →
    (∀ c ∈ s.mem.chgs, c.kind = .promote → c.td = td → c.seqn = seqn → c.page = page → c.rewritten = true) →
    ∃ t d', exec (.stagingReadComplete td seqn page) s = .next t ∧ seq? t td seqn = some d' ∧ page ∉ d'.wake.issued ∧ d'.leaves = d.leaves
      ∧ t = { s with seqs := t.seqs } ∧ OtherSeqs s t td seqn) ∧
  (∀ s td seqn d, seq? s td seqn = some d → d.wake.st = .waiting → d.wake.tstage + tierMinres s td ≤ s.now →
    ∃ t, exec (.wakeMinresExpiry td seqn) s = .next t
      ∧ seq? t td seqn = some { d with wake := { d.wake with st := .idle, queue := [], issued := [], waited := [] } } ∧ t = { s with seqs := t.seqs }
      ∧ OtherSeqs s t td seqn) ∧
  (∀ s td, s.up = true → (dom s td).nextDecay ≤ s.now →
    ∃ t, exec (.heatDecayTick td) s = .next t ∧ (dom t td).halfNow = tierHalf s td
      ∧ (dom t td).nextDecay = (dom s td).nextDecay + tierHalf s td * 100000000 ∧ (∀ k, k ≠ td → dom t k = dom s k)
      ∧ SameBytes s t
      ∧ ((∀ k n d, seq? s k n = some d → ∀ e ∈ d.l2, ∃ i, i < 64 * (e.2.len + 1) ∧ ∀ l, look d.leaves (e.1 * 0x400 + i) = some l → l.tier ≠ .flash) →
        (∀ k n d, seq? s k n = some d → seq? t k n
          = some (if d.td = td then { d with leaves := d.leaves.map (fun l => (l.1, { l.2 with heat := l.2.heat / 2 })) } else d))
        ∧ t = { s with seqs := t.seqs, doms := t.doms, pfx := { s.pfx with groups := t.pfx.groups } }))

/-- Flash targets: operations by priority, collection, relocation, a target that fails to answer (R299 to R304, R307, R696). -/
def Obligations.FlashTargets : Prop :=
  (∀ s c k x pr cid g p fd, target? s c k = some x → nextFlashOp x = some (pr, .readChg cid) → mayIssue s c pr x = true → chg? s cid = some g →
    look s.mem.pages g.src = some p → p.chan = c → p.tgt = k →
    ∃ t y, exec (.flashOperationIssue c k fd) s = .next t ∧ chg? t cid = some { g with issued := true } ∧ target? t c k = some y
      ∧ y.queue = x.queue.erase (pr, .readChg cid) ∧ (blkAt y p.block).reads = (blkAt x p.block).reads + 1 ∧ t.mem.pages = s.mem.pages
      ∧ t = { s with mem := { s.mem with chgs := t.mem.chgs, targets := t.mem.targets }, regs := { s.regs with ctr := t.regs.ctr }, free := s.free + 1 }) ∧
  (∀ s c k x pr n p fd, target? s c k = some x → nextFlashOp x = some (pr, .direct n) → mayIssue s c pr x = true → look s.mem.pages n = some p →
    p.chan = c → p.tgt = k → n ∉ s.mem.direct →
    ∃ t y, exec (.flashOperationIssue c k fd) s = .next t ∧ t.mem.direct = s.mem.direct ++ [n] ∧ target? t c k = some y
      ∧ y.queue = x.queue.erase (pr, .direct n) ∧ (blkAt y p.block).reads = (blkAt x p.block).reads + 1
      ∧ t = { s with mem := { s.mem with direct := t.mem.direct, targets := t.mem.targets }, regs := { s.regs with ctr := t.regs.ctr }, free := s.free + 1 }) ∧
  (∀ s c k x pr cid g b fd, target? s c k = some x → nextFlashOp x = some (pr, .program cid) → mayIssue s c pr x = true → chg? s cid = some g →
    writeBlock s c k (storedSize 0 true) x = some b → fd.ok = true →
    ∃ t y, exec (.flashOperationIssue c k fd) s = .next t ∧ chg? t cid = some { g with issued := true } ∧ target? t c k = some y
      ∧ y.queue = x.queue.map (fun o => if o = (pr, .program cid) then (0, .program cid) else o)
      ∧ t = { s with mem := { s.mem with chgs := t.mem.chgs, targets := t.mem.targets } }) ∧
  (∀ s c k x pr cid g b fd, target? s c k = some x → nextFlashOp x = some (pr, .program cid) → mayIssue s c pr x = true → chg? s cid = some g →
    writeBlock s c k (storedSize 0 true) x = some b → fd.ok = false →
    ∃ t y, exec (.flashOperationIssue c k fd) s = .next t ∧ chg? t cid = some { g with issued := false } ∧ target? t c k = some y
      ∧ (blkAt y b).retired = true ∧ (4, .relocate b) ∈ y.queue ∧ t.mem.pages = s.mem.pages ∧ t.seqs = s.seqs ∧ SameBytes s t) ∧
  (∀ s c k x pr b fd, target? s c k = some x → nextFlashOp x = some (pr, .relocate b) → mayIssue s c pr x = true → blockPages s c k b = [] → Settled s →
    ∃ t y, exec (.flashOperationIssue c k fd) s = .next t ∧ target? t c k = some y ∧ y.queue = x.queue.erase (pr, .relocate b)
      ∧ y.blk = x.blk ∧ t = { s with mem := { s.mem with targets := t.mem.targets } }) ∧
  (∀ s c k x pr op fd, target? s c k = some x → nextFlashOp x = some (pr, op) → mayIssue s c pr x = false →
    exec (.flashOperationIssue c k fd) s = .next s) ∧
  (∀ s c k x b i fd, target? s c k = some x → blockPages s c k b = [] → fd.ok = true → Settled s →
    i = .idleCollection c ⟨k, fd⟩ ∧ worstBlock x = some b ∧ s.mem.flsCtl.getLsbD 31 = true ∧ x.queue = [] ∧ mayIssue s c 5 x = true ∨
      i = .forcedCollection c ⟨k, fd⟩ ∧ worstBlock x = some b ∧ 1024 * (erasedBlocks x).length < max 4 (fld s.mem.flsCtl 23 16) * x.blocks
        ∧ mayIssue s c 2 x = true ∨
      i = .readDisturbRelocation c k b fd ∧ max 10 (fld s.mem.flsCtl 15 0) * 1000 ≤ (blkAt x b).reads ∧ mayIssue s c 4 x = true ∨
      i = .wearRelocation c k b fd ∧ wearDue x b = true ∧ mayIssue s c 4 x = true →
    ∃ t y, exec i s = .next t ∧ target? t c k = some y
      ∧ blkAt y b = { blkAt x b with erases := (blkAt x b).erases + 1, reads := 0, erased := true, invalid := 0 }
      ∧ t = { s with mem := { s.mem with targets := t.mem.targets } }) ∧
  (∀ s i c k b n p fd, i ∈ [Instr.idleCollection c ⟨k, fd⟩, .forcedCollection c ⟨k, fd⟩, .readDisturbRelocation c k b fd, .wearRelocation c k b fd] →
    fd.badPages = [] → Settled s →
    (s.mem.pages.map (·.1)).Nodup → look s.mem.pages n = some p →
    ∃ t p', exec i s = .next t ∧ look t.mem.pages n = some p' ∧ p'.data = p.data ∧ p'.side = p.side ∧ p'.cmp = p.cmp ∧ p'.td = p.td
      ∧ p'.units = p.units ∧ SameBytes s t ∧ t.seqs = s.seqs) ∧
  (∀ s c k x, target? s c k = some x → x.timeouts < 2 →
    ∃ t, exec (.onfiTargetTimeout c k) s = .next t ∧ target? t c k = some { x with timeouts := x.timeouts + 1 }
      ∧ t = { s with mem := { s.mem with targets := t.mem.targets } }) ∧
  (∀ s c k x, target? s c k = some x → 2 ≤ x.timeouts → Settled s →
    ∃ t, exec (.onfiTargetTimeout c k) s = .next t ∧ target? t c k = none ∧ SameBytes s t
      ∧ ∀ n p, look s.mem.pages n = some p → p.chan = c → p.tgt = k → ∃ p', look t.mem.pages n = some p' ∧ p'.bad = true)

/-- Refresh, retraining, scrubbing and write-back of a channel (R142, R314, R330 to R334). -/
def Obligations.ChannelService : Prop :=
  (∀ s u b, streaming s u = true ∨ (ch s (u / 9)).retraining = true → lookD 0 s.mem.postponed (2 * u + b % 2) < 8 →
    exec (.refresh u b) s = .next { s with mem := { s.mem with
      postponed := put s.mem.postponed (2 * u + b % 2) (lookD 0 s.mem.postponed (2 * u + b % 2) + 1) } }) ∧
  (∀ s u b, streaming s u = false ∧ (ch s (u / 9)).retraining = false ∨ 8 ≤ lookD 0 s.mem.postponed (2 * u + b % 2) →
    exec (.refresh u b) s = .next { s with mem := { s.mem with postponed := rem s.mem.postponed (2 * u + b % 2) } }) ∧
  (∀ s c, c < 768 → codeChan s c = .good → (∀ k ∈ s.mem.chans, k.1 / 32 = c / 32 → k.2.retraining = false) →
    ∃ t, exec (.channelRetraining c) s = .next t ∧ ch t c = { ch s c with retraining := true, retryDone := false } ∧ (∀ k, k ≠ c → ch t k = ch s k)
      ∧ lookD 0 t.regs.ctr (ctrChan c 3) = min (lookD 0 s.regs.ctr (ctrChan c 3) + 1) 0xFFFFFFFF
      ∧ t = { s with mem := { s.mem with chans := t.mem.chans }, regs := { s.regs with ctr := t.regs.ctr } }) ∧
  (∀ s c, (ch s c).retraining = true →
    ∃ t, exec (.retrainingResult c true) s = .next t ∧ ch t c = { ch s c with retraining := false, retryDone := false }
      ∧ (∀ k, k ≠ c → ch t k = ch s k)
      ∧ (∀ u b, u / 9 = c → b < 2 → streaming s u = false → lookD 0 t.mem.postponed (2 * u + b) = 0)
      ∧ (∀ u b, b < 2 → u / 9 ≠ c ∨ streaming s u = true → lookD 0 t.mem.postponed (2 * u + b) = lookD 0 s.mem.postponed (2 * u + b))
      ∧ t = { s with mem := { s.mem with chans := t.mem.chans, postponed := t.mem.postponed } }) ∧
  (∀ s c, (ch s c).retraining = true → (ch s c).retryDone = false →
    ∃ t, exec (.retrainingResult c false) s = .next t ∧ ch t c = { ch s c with retryDone := true } ∧ (∀ k, k ≠ c → ch t k = ch s k)
      ∧ t = { s with mem := { s.mem with chans := t.mem.chans }, regs := { s.regs with ctr := t.regs.ctr } }) ∧
  (∀ s c, (ch s c).retraining = true → (ch s c).retryDone = true → Settled s →
    ∃ t, exec (.retrainingResult c false) s = .next t ∧ codeChan t c = .fenced ∧ (∀ k, k ≠ c → codeChan t k = codeChan s k)
      ∧ (ch t c).retraining = false ∧ (ch t c).fencedOwner = chanOwner s c ∧ (s.floor.published = true → t.floor.gen = s.floor.gen + 1) ∧ SameBytes s t) ∧
  (∀ s c, codeChan s c = .good → (ch s c).retraining = false → (ch s c).scrub < frameCodewords → (cwAt s.mem (9 * c * 2560 * 69632 + 32 * (ch s c).scrub)).2 = .clean →
    ∃ t, exec (.patrolScrub c []) s = .next t ∧ ch t c = { ch s c with scrub := (ch s c).scrub + 1 } ∧ (∀ k, k ≠ c → ch t k = ch s k)
      ∧ t = { s with mem := { s.mem with chans := t.mem.chans } }) ∧
  (∀ s c j b, codeChan s c = .good → (ch s c).retraining = false → (ch s c).scrub < frameCodewords → j < 32 →
    let a := 9 * c * 2560 * 69632 + 32 * (ch s c).scrub
    (cwAt { s.mem with dram := wr8 s.mem.dram (a + j) (rd8 s.mem.dram (a + j) ^^^ b) } a).2 = .corrected →
    ∃ t, exec (.patrolScrub c [(j, b)]) s = .next t ∧ a ∈ t.att.writeback ∧ (ch t c).scrub = (ch s c).scrub + 1
      ∧ lookD 0 t.regs.ctr (ctrChan c 0) = min (lookD 0 s.regs.ctr (ctrChan c 0) + 1) (if 0x170000 ≤ ctrChan c 0 then 0xFFFFFFFFFFFFFFFF else 0xFFFFFFFF)
      ∧ rd8 t.mem.dram (a + j) = rd8 s.mem.dram (a + j) ^^^ b ∧ (∀ x, x ≠ a + j → rd8 t.mem.dram x = rd8 s.mem.dram x)
      ∧ t.mem.chk = s.mem.chk ∧ t.seqs = s.seqs) ∧
  (∀ s u a bs, pairRuns s u = true → s.att.writeback.find? (fun a => a / 69632 / 2560 == u) = some a → cwAt s.mem a = (bs, .corrected) →
    ∃ t, exec (.correctedWriteback u) s = .next t ∧ a ∉ t.att.writeback ∧ (∀ k, k < 32 → rd8 t.mem.dram (a + k) = bs.getD k 0)
      ∧ (∀ k, k < 4 → rd8 t.mem.chk (a / 8 + k) = (ecc bs).getD k 0)
      ∧ (∀ x, x < a ∨ a + 32 ≤ x → rd8 t.mem.dram x = rd8 s.mem.dram x) ∧ (∀ x, x < a / 8 ∨ a / 8 + 4 ≤ x → rd8 t.mem.chk x = rd8 s.mem.chk x)
      ∧ t = { s with att := { s.att with writeback := t.att.writeback }, mem := { s.mem with dram := t.mem.dram, chk := t.mem.chk } })

/-- Occupancy, windows, the rebalancing state machine and its moves (R321 to R327, R71, R168, R269). -/
def Obligations.PlacementWindows : Prop :=
  (∀ s, s.up = true →
    ∃ t, exec .occupancySample s = .next t ∧ t.mem.samplesInWindow = s.mem.samplesInWindow + 1
      ∧ (∀ c, c < 768 → ch t c = { ch s c with occ := (ch s c).occ + pendingOn s c }) ∧ (∀ c, 768 ≤ c → ch t c = ch s c)
      ∧ t = { s with mem := { s.mem with chans := t.mem.chans, samplesInWindow := t.mem.samplesInWindow } }) ∧
  (∀ s td, s.up = true → td < 64 → (dom s td).place.state = .watch →
    let p := (dom s td).place
    ∃ t, exec .windowEnd s = .next t ∧ t.mem.samplesInWindow = 0 ∧ (∀ k ∈ t.mem.chans, k.2.occ = 0) ∧ t.seqs = s.seqs ∧ SameBytes s t
      ∧ (hotChans s td = [] → (dom t td).place = { p with streak := 0, calm := p.calm + 1, holdoff := if 50 ≤ p.calm + 1 then 100000000 else p.holdoff })
      ∧ (hotChans s td ≠ [] → p.streak + 1 < 50 → (dom t td).place = { p with streak := p.streak + 1, calm := 0 })
      ∧ (hotChans s td ≠ [] → 50 ≤ p.streak + 1 → icAuto s = true → (dom t td).place.state = .rebalance ∧ (dom t td).place.rset = hotChans s td
        ∧ (dom t td).place.streak = 0 ∧ (dom t td).place.cool = [])) ∧
  (∀ s td, (dom s td).place.state = .hold → (dom s td).place.holdUntil ≤ s.now → (dom s td).place.streak < 50 ∨ icAuto s = false →
    ∃ t, exec (.holdoffElapsed td) s = .next t ∧ dom t td = { dom s td with place := { (dom s td).place with state := .watch } }
      ∧ (∀ k, k ≠ td → dom t k = dom s k) ∧ t = { s with doms := t.doms }) ∧
  (∀ s td, (dom s td).place.state = .hold → (dom s td).place.holdUntil ≤ s.now → 50 ≤ (dom s td).place.streak → icAuto s = true →
    ∃ t, exec (.holdoffElapsed td) s = .next t ∧ (dom t td).place.state = .rebalance ∧ (dom t td).place.rset = hotChans s td
      ∧ (dom t td).place.key = BitVec.ofNat 128 (Config.trng 128 s.draws) ∧ (dom t td).place.streak = 0 ∧ (∀ k, k ≠ td → dom t k = dom s k)
      ∧ t = { s with doms := t.doms, draws := s.draws + 1, regs := { s.regs with ctr := t.regs.ctr } }) ∧
  (∀ s td p f, s.up = true → goodMove s td = some (p, f) → movesNow s td < max 1 (rbRate s) →
    ∃ t, exec (.rebalanceMoveStart td) s = .next t
      ∧ t.mem.chgs = s.mem.chgs ++ [{ chgOf .move td p.seqn p.pix p.leaf.frame f p.record with id := s.mem.nextChg }]
      ∧ look t.mem.frames (frameIx f) = some .used ∧ movesNow t td = movesNow s td + 1 ∧ t.seqs = s.seqs ∧ t.doms = s.doms
      ∧ SameOutside s t (pageAddr f) (pageAddr f + 69632)) ∧
  (∀ s td p f, s.up = true → goodMove s td = none → (dom s td).place.state = .rebalance → movesNow s td < rbRate s → rebalanceMove s td = some (p, f) →
    ∃ t, exec (.rebalanceMoveStart td) s = .next t
      ∧ t.mem.chgs = s.mem.chgs ++ [{ chgOf .move td p.seqn p.pix p.leaf.frame f p.record with id := s.mem.nextChg, rebal := true }]
      ∧ look t.mem.frames (frameIx f) = some .used ∧ movesNow t td = movesNow s td + 1 ∧ t.seqs = s.seqs
      ∧ (dom t td).place.rset = (dom s td).place.rset.filter (· != frChan p.leaf.frame) ++ [frChan p.leaf.frame]
      ∧ SameOutside s t (pageAddr f) (pageAddr f + 69632))

/-- Issue of an accepted request, and release of one that its host's budget held (R99, R100, R135, R148, R179, R460, R461). -/
def Obligations.RequestIssue : Prop :=
  (∀ s rid r, req? s rid = some r → r.stage = .accepted → budgetOk s r.host = false ∨ heldOf s r.host ≠ [] →
    ∃ t, exec (.requestIssue rid) s = .next t ∧ req? t rid = some { r with stage := .held } ∧ heldOf t r.host = (heldOf s r.host).filter (· < rid) ++ [rid] ++ (heldOf s r.host).filter (rid < ·)
      ∧ (∀ h, h ≠ r.host → heldOf t h = heldOf s h) ∧ t.att.units = s.att.units ∧ t.att.gcmds = s.att.gcmds ∧ t.mem = s.mem ∧ t.seqs = s.seqs) ∧
  (∀ s rid r, req? s rid = some r → r.stage = .accepted → budgetOk s r.host = true → heldOf s r.host = [] → groupBusy s r = true →
    ∃ t, exec (.requestIssue rid) s = .next t ∧ req? t rid = some { r with stage := .queueHeld } ∧ t.att.units = s.att.units
      ∧ t.att.gcmds = s.att.gcmds ∧ t.mem = s.mem ∧ t.seqs = s.seqs ∧ t.fab = s.fab) ∧
  (∀ s rid r h tp d l e, req? s rid = some r → r.stage = .accepted → budgetOk s r.host = true → heldOf s r.host = [] →
    BankPage s r h tp d l e → mergeFull s (frChan e.frame / 32) rid = false →
    let p : PageRef := { rid := rid, k := 0, head := h, tpage := tp, leaf := some e }
    ∃ t, exec (.requestIssue rid) s = .next t
      ∧ req? t rid = some { r with stage := .issued, issueNo := s.att.nextIssue, bankHeld := [], unitLeft := [p] }
      ∧ lookD [] t.att.units (frUnit e.frame) = lookD [] s.att.units (frUnit e.frame) ++ [.attend p]
      ∧ (∀ u, u ≠ frUnit e.frame → lookD [] t.att.units u = lookD [] s.att.units u)
      ∧ lookD 0 t.fab.charged r.host = lookD 0 s.fab.charged r.host + 1 ∧ t.mem = s.mem ∧ t.seqs = s.seqs) ∧
  (∀ s rid r h tp d l e, req? s rid = some r → r.stage = .accepted → budgetOk s r.host = true → heldOf s r.host = [] →
    BankPage s r h tp d l e → mergeFull s (frChan e.frame / 32) rid = true →
    ∃ t, exec (.requestIssue rid) s = .next t
      ∧ req? t rid = some { r with stage := .issued, issueNo := s.att.nextIssue, bankHeld := [(0, tp)] }
      ∧ t.att.units = s.att.units ∧ t.mem = s.mem ∧ t.seqs = s.seqs) ∧
  (∀ s rid r d l k tp, req? s rid = some r → r.stage = .accepted → budgetOk s r.host = true → heldOf s r.host = [] → onBank r = true →
    r.fence = false → r.appLeft = [(k, tp)] → r.unitLeft = [] → r.grpLeft = [] → r.zphLeft = [] → r.rstart = r.rend → seq? s r.td r.seqn = some d →
    let pix := pageIx r.layer (headOf r k) tp
    walk s d pix = .page l l → l.tier = .dram → isMoving s r.td r.seqn pix = false → appendQueued s rid k tp = false →
    (∀ q ∈ s.att.reqs, q.stage = .issued → q.td = r.td → q.seqn = r.seqn → ∀ a ∈ q.appLeft, pageIx q.layer (headOf q a.1) a.2 = pix →
      appendQueued s q.id a.1 a.2 = true) →
    ∃ t, exec (.requestIssue rid) s = .next t ∧ req? t rid = some { r with stage := .issued, issueNo := s.att.nextIssue, bankHeld := [] }
      ∧ lookD [] t.att.units (frUnit l.frame) = lookD [] s.att.units (frUnit l.frame) ++ [.append rid k tp]
      ∧ (∀ u, u ≠ frUnit l.frame → lookD [] t.att.units u = lookD [] s.att.units u) ∧ t.mem = s.mem ∧ t.seqs = s.seqs) ∧
  (∀ s host rid rest r h tp d l e, heldOf s host = rid :: rest → budgetOk s host = true → req? s rid = some r → BankPage s r h tp d l e →
    mergeFull s (frChan e.frame / 32) rid = false →
    let p : PageRef := { rid := rid, k := 0, head := h, tpage := tp, leaf := some e }
    ∃ t, exec (.heldRequestRelease host) s = .next t ∧ heldOf t host = rest
      ∧ req? t rid = some { r with stage := .issued, issueNo := s.att.nextIssue, bankHeld := [], unitLeft := [p] }
      ∧ lookD [] t.att.units (frUnit e.frame) = lookD [] s.att.units (frUnit e.frame) ++ [.attend p] ∧ t.mem = s.mem ∧ t.seqs = s.seqs) ∧
  (∀ s host, budgetOk s host = false ∨ (∃ rid rest r, heldOf s host = rid :: rest ∧ req? s rid = some r ∧ groupBusy s r = true) →
    exec (.heldRequestRelease host) s = .next s)

/-- Bank units and stacks: ATTEND, APPEND, and a stack's partials to the home die (R18, R81, R130 to R138, R143, R146, R149, R490, R498). -/
def Obligations.BankPath : Prop :=
  (∀ s u p r l, pairRuns s u = true → codeUnit s u = .good → nextOp s u = some (.attend p) → req? s p.rid = some r → PageReady s r p l →
    s.att.lulCtl.getLsbD 31 = false → Settled s →
    ∃ t r', exec (.bankAttend u) s = .next t ∧ req? t p.rid = some r'
      ∧ r' = { r with unitLeft := r.unitLeft.filter (fun q => !samePage p q), stackParts := r.stackParts ++ [(u / 288, pageResult s r p l)] }
      ∧ ((readFor s r p.tpage l.frame).bad = [] → lookD [] t.att.units u = (lookD [] s.att.units u).drop 1) ∧ SameBytes s t) ∧
  (∀ s u k tp r d l, pairRuns s u = true → nextOp s u = some (.append r.id k tp) → req? s r.id = some r → seq? s r.td r.seqn = some d →
    let pix := pageIx r.layer (headOf r k) tp
    let x := appendIn s r k tp l.frame
    walk s d pix = .page l l → l.tier = .dram → frUnit l.frame = u → isMoving s r.td r.seqn pix = false → (k, tp) ∈ r.appLeft →
    (x.readAll s.mem).bad = [] → (x.store (s.mem, [])).2 = [] → Settled s →
    ∃ t d', exec (.bankAppend u) s = .next t ∧ t.mem.dram = (x.store (s.mem, [])).1.dram ∧ t.mem.chk = (x.store (s.mem, [])).1.chk
      ∧ req? t r.id = some { r with appLeft := r.appLeft.filter (· != (k, tp)) } ∧ lookD [] t.att.units u = (lookD [] s.att.units u).drop 1
      ∧ seq? t r.td r.seqn = some d' ∧ pix ∈ d'.chgMig ∧ pix ∈ d'.chgExp ∧ d'.leaves = d.leaves ∧ OtherSeqs s t r.td r.seqn) ∧
  (∀ s st rid r, req? s rid = some r → r.stage = .issued → (r.stackParts.filter (fun x => x.1 == st)) ≠ [] → leftFor s r st = false → Settled s →
    ∃ t, exec (.stackPartialSend st rid) s = .next t ∧ req? t rid = some { r with
        stackParts := r.stackParts.filter (fun x => x.1 != st)
        homeParts := r.homeParts ++ (mergeAll (geomW (dom s r.td).geom) ((r.stackParts.filter (fun x => x.1 == st)).map (·.2)) s).1 }
      ∧ t.mem = s.mem ∧ t.seqs = s.seqs ∧ t.att.gcmds = s.att.gcmds ∧ t.att.units = s.att.units)

/-- Cluster groups: fetch, compute, merge; a cluster that leaves and its clearing (R173, R175, R176, R181 to R187, R189, R198). -/
def Obligations.ClusterPath : Prop :=
  (∀ s c g p r l k, fetchCmd s c = some g → (lookD [] g.share c).find? needsFetch = some p → req? s g.rid = some r → PageReady s r p l → r.appLeft = [] →
    (ch s (frChan l.frame)).retraining = false → freeSlot s c = some k → clusterServes s g.td c = true → otherGroup s g p = none → Settled s →
    let x : Tile := { slot := k, page := p, leaf := l
                      rd := fetchRead (dom s r.td).geom (dom s r.td).fmt l.frame (readPage s r.td r.seqn (refPix r p) l.frame) }
    ∃ t g', exec (.clusterPageFetch c) s = .next t ∧ g' ∈ t.att.gcmds ∧ g'.id = g.id ∧ lookD [] g'.share c = (lookD [] g.share c).filter (fun q => !samePage p q)
      ∧ lookD [] g'.fetched c = lookD [] g.fetched c ++ [x] ∧ g'.parts = g.parts ∧ (∀ w ∈ slotWays k, w ∈ (clus t c).ways) ∧ SameBytes s t) ∧
  (∀ s c g x rest r e, currentCmd s c = some g → s.att.gcmds.find? (fun y => y.id == g.id) = some g → lookD [] g.fetched c = x :: rest →
    req? s g.rid = some r → clusterServes s g.td c = true → s.att.lulCtl.getLsbD 31 = false → Settled s →
    let part := if x.rd.bad = [] then pagePart s r x.page x.rd.bytes else poisonPart s r x.page
    (∀ q ∈ lookD [] g.parts c, sameShape q part = false) →
    ∃ t g', exec (.clusterPageCompute ⟨c, e⟩) s = .next t ∧ g' ∈ t.att.gcmds ∧ g'.id = g.id
      ∧ lookD [] g'.fetched c = (lookD [] g.fetched c).filter (fun y => !samePage x.page y.page)
      ∧ lookD [] g'.done c = lookD [] g.done c ++ [x.page] ∧ lookD [] g'.parts c = lookD [] g.parts c ++ [part]
      ∧ (g'.busyAt c = false → g'.arrived = g.arrived.filter (· != c) ++ [c]) ∧ SameBytes s t) ∧
  (∀ s c g p r e, currentCmd s c = some g → s.att.gcmds.find? (fun y => y.id == g.id) = some g → lookD [] g.fetched c = [] →
    (lookD [] g.share c).find? (fun q => !needsFetch q && !pageWaits s r q.k q.tpage && (!isDirect q || directReady s q)) = some p → p.leaf = none → r.fence = false → r.app = false →
    req? s g.rid = some r → clusterServes s g.td c = true → s.att.lulCtl.getLsbD 31 = false → Settled s →
    (∀ q ∈ lookD [] g.parts c, sameShape q (absentPart s r p) = false) →
    ∃ t g', exec (.clusterPageCompute ⟨c, e⟩) s = .next t ∧ g' ∈ t.att.gcmds ∧ g'.id = g.id ∧ lookD [] g'.done c = lookD [] g.done c ++ [p]
      ∧ lookD [] g'.share c = (lookD [] g.share c).filter (fun q => !samePage p q) ∧ lookD [] g'.parts c = lookD [] g.parts c ++ [absentPart s r p]
      ∧ SameBytes s t) ∧
  (∀ s die rid r g, req? s rid = some r → r.stage = .issued → s.att.gcmds.find? (fun g => g.rid == rid && g.die == die) = some g →
    (∀ c ∈ g.members, g.busyAt c = false) → s.att.gwait = [] →
    ∃ t r', exec (.groupMerge die rid) s = .next t ∧ req? t rid = some r'
      ∧ r'.homeParts = r.homeParts ++ (mergeAll (geomW (dom s r.td).geom) (g.arrived.flatMap (fun c => lookD [] g.parts c)) s).1
      ∧ r'.grpLeft = r.grpLeft.filter (fun p => !(g.done.flatMap (·.2)).any (samePage p))
      ∧ t.att.gcmds = s.att.gcmds.filter (fun x => x.id != g.id) ∧ t.mem = s.mem ∧ t.seqs = s.seqs) ∧
  (∀ s c, (clus s c).leaving = true → (∀ g ∈ s.att.gcmds, c ∉ g.members) → s.att.gwait = [] →
    ∃ t, exec (.clusterHandover c) s = .next t ∧ clus t c = { clus s c with leaving := false, dirty := true, joining := false }
      ∧ (∀ k, k ≠ c → clus t k = clus s k) ∧ t = { s with att := { s.att with clus := t.att.clus } }) ∧
  (∀ s c g r, (clus s c).leaving = true → s.att.gwait = [] → s.att.gcmds = [g] → c ∈ g.members → (∃ k ∈ g.members, k ≠ c) → req? s g.rid = some r →
    r.unitLeft = [] → r.zphLeft = [] → (∀ p ∈ r.grpLeft, inFlash p = false) → lookD [] g.wait c = [] →
    (∀ p ∈ lookD [] g.share c ++ (lookD [] g.fetched c).map (·.page) ++ lookD [] g.done c,
      ∃ d l e, seq? s r.td r.seqn = some d ∧ walk s d (pageIx r.layer (headOf r p.k) p.tpage) = .page l e ∧ e.tier = .dram) →
    ∃ t g', exec (.clusterHandover c) s = .next t ∧ (clus t c).leaving = false ∧ (clus t c).dirty = true ∧ t.att.gcmds = [g'] ∧ g'.id = g.id
      ∧ g'.members = g.members.filter (· != c) ∧ lookD [] g'.share c = [] ∧ lookD [] g'.parts c = []
      ∧ (∀ p ∈ lookD [] g.share c ++ (lookD [] g.fetched c).map (·.page) ++ lookD [] g.done c, ∃ k ∈ g'.members, ∃ q ∈ lookD [] g'.share k,
          q.k = p.k ∧ q.tpage = p.tpage) ∧ t.mem = s.mem ∧ t.seqs = s.seqs) ∧
  (∀ s c, (clus s c).dirty = true → (clus s c).leaving = false →
    ∃ t, exec (.clusterZeroFill c) s = .next t
      ∧ clus t c = { clus s c with dirty := false, joining := false, td := (clus s c).ext.bind (fun e => (ext? s e).map (·.td)), ways := [] }
      ∧ (∀ k, k ≠ c → clus t k = clus s k) ∧ (∀ e ∈ t.att.tc, e.cluster ≠ some c)
      ∧ t = { s with att := { s.att with clus := t.att.clus, tc := t.att.tc } })

/-- Zephyr's recovery work, and the home die's merge with its reply (R32, R190, R199, R200, R203, R204, R573). -/
def Obligations.ZephyrAndHome : Prop :=
  (∀ s die e td r p rest l, (zph s die).good = true → (zph s die).fenced = false → nextDom s die = some td →
    (zphWork s die).find? (fun r => r.td == td) = some r → req? s r.id = some r → zphPass s r = p :: rest → p.rid = r.id → PageReady s r p l →
    (zph s die).buf = [] → rowsPerHead r ≤ 16 → lookD [] r.zphRows (zphKey p) = [] → Settled s →
    let rd := fetchRead (dom s r.td).geom (dom s r.td).fmt l.frame (readPage s r.td r.seqn (refPix r p) l.frame)
    ∃ t k, exec (.zephyrPass ⟨die, e⟩) s = .next t ∧ req? t r.id = some { r with
        zephyr := true, zphLeft := r.zphLeft.filter (fun q => !samePage p q), zphRows := rem r.zphRows (zphKey p)
        homeParts := r.homeParts ++ [if rd.bad = [] then pagePart { s with free := k } r p rd.bytes else poisonPart s r p] }
      ∧ (zph t die).last = td ∧ (zph t die).td = some td ∧ (zph t die).rowStore = (nats (rowsPerHead r)).map (queryRow r p.k)
      ∧ (∀ x ∈ (zph t die).samples, x.state = .checking → some x.key ≠ (zph t die).active) ∧ SameBytes s t) ∧
  (∀ s die e td r p rest l, (zph s die).good = true → (zph s die).fenced = false → nextDom s die = some td →
    (zphWork s die).find? (fun r => r.td == td) = some r → req? s r.id = some r → zphPass s r = p :: rest → p.rid = r.id → PageReady s r p l →
    (zph s die).buf = [] → zphRowsDone r p + 16 < rowsPerHead r → Settled s →
    (fetchRead (dom s r.td).geom (dom s r.td).fmt l.frame (readPage s r.td r.seqn (refPix r p) l.frame)).bad = [] →
    ∃ t r', exec (.zephyrPass ⟨die, e⟩) s = .next t ∧ req? t r.id = some r' ∧ r' = { r with zephyr := true, zphRows := r'.zphRows }
      ∧ zphRowsDone r' p = zphRowsDone r p + 16 ∧ (lookD [] r'.zphRows (zphKey p)).take (zphRowsDone r p) = lookD [] r.zphRows (zphKey p)
      ∧ (zph t die).rowStore = ((List.range 16).map (fun i => queryRow r p.k (zphRowsDone r p + i))) ∧ SameBytes s t) ∧
  (∀ s s' rid r c q idx w, req? s rid = some r → workDone s r = true → mergePlace r s = some s' →
    shapesDiffer (mergeAll (geomW (dom s r.td).geom) r.homeParts s).1 = false →
    badHeads r (mergeAll (geomW (dom s r.td).geom) r.homeParts s).1 = [] →
    r.sender = .wq c q idx → wq? s c q = some w → dmaStopped s (chanFn c) = false →
    ∃ t w' hdr rlen, exec (.homeDieMerge rid) s = .next t ∧ req? t rid = none ∧ wq? t c q = some w' ∧ look w'.ready idx = some (0, r.tag, rlen)
      ∧ (.dmaWrite (chanFn c) r.yaddr hdr) ∈ t.out ∧ hdr.length = 64 ∧ t.mem = s.mem ∧ t.seqs = s.seqs) ∧
  (∀ s s' rid r, req? s rid = some r → workDone s r = true → mergePlace r s = some s' →
    badHeads r (mergeAll (geomW (dom s r.td).geom) r.homeParts s).1 ≠ [] → r.recomputed = false → rangePages r (tokT s r.td) = [] →
    ∃ t r', exec (.homeDieMerge rid) s = .next t ∧ req? t rid = some r' ∧ r'.recomputed = true ∧ t.mem = s.mem ∧ t.seqs = s.seqs)

/-- Lull's samples: a step, the read of the page, the last step's comparison, the recomputation, age, and LUL_CTL with EN clear (R199, R208, R214,
R221 to R227). -/
def Obligations.LullSamples : Prop :=
  (∀ s die x, lullBit s 30 = true → zphQuiet s die = true → nextSample s die = some x →
    x.steps + 1 ≠ x.reads (dom s x.td).geom (dom s x.td).fmt → x.steps + 1 < x.total (dom s x.td).geom (dom s x.td).fmt →
    ∃ t, exec (.lullSampleStep die) s = .next t ∧ (zph t die).active = some x.key ∧ (zph t die).td = some x.td
      ∧ samplesOf t die = (samplesOf s die).map (fun y => if y.key = x.key then { x with state := .checking, steps := x.steps + 1 } else y)
      ∧ SameBytes s t ∧ t.seqs = s.seqs ∧ t.floor = s.floor) ∧
  (∀ s die x l, lullBit s 30 = true → zphQuiet s die = true → nextSample s die = some x →
    x.steps + 1 = x.reads (dom s x.td).geom (dom s x.td).fmt → x.page.leaf = some l → (sampleRead s x false).bad = [] → Settled s →
    ∃ t, exec (.lullSampleStep die) s = .next t ∧ (zph t die).active = some x.key ∧ (zph t die).td = some x.td
      ∧ (zph t die).buf = [{ slot := 0, page := x.page, leaf := l, rd := sampleRead s x false }]
      ∧ samplesOf t die = (samplesOf s die).map (fun y => if y.key = x.key then { x with state := .checking, steps := x.steps + 1 } else y)
      ∧ SameBytes s t ∧ t.seqs = s.seqs ∧ t.floor = s.floor) ∧
  (∀ s die x b, lullBit s 30 = true → zphQuiet s die = true → nextSample s die = some x → (zph s die).td = some x.td → (zph s die).buf.head? = some b →
    x.steps + 1 ≠ x.reads (dom s x.td).geom (dom s x.td).fmt → x.total (dom s x.td).geom (dom s x.td).fmt ≤ x.steps + 1 →
    let y : Sample := { x with state := .checking, steps := x.steps + 1 }
    let z := sampleRows s y b.rd.bytes
    ∃ t, exec (.lullSampleStep die) s = .next t ∧ SameBytes s t ∧ t.seqs = s.seqs ∧ t.floor = s.floor ∧ (zph t die).acc = z
      ∧ (agrees { s with free := s.free + pageDraws x.req } y x.copy.tokens x.copy.rows z = true →
          (zph t die).active = none ∧ ∀ w, w ∈ samplesOf t die ↔ w ∈ samplesOf s die ∧ w.key ≠ x.key)
      ∧ (agrees { s with free := s.free + pageDraws x.req } y x.copy.tokens x.copy.rows z = false →
          samplesOf t die = (samplesOf s die).map (fun w => if w.key = x.key then { x with state := .retrying, steps := x.steps + 1, ref := some z } else w))) ∧
  (∀ s die x z l, s.up = true → (samplesOf s die).find? (fun x => x.state == .retrying) = some x → originIdle s x = true → x.ref = some z → x.cluster = none →
    x.page.leaf = some l → l.tier = .dram → (sampleRead s x true).bad = [] → Settled s →
    let a := (sampleRows s x (sampleRead s x true).bytes).map (·.row)
    ∃ t, exec (.sampleRetry die) s = .next t
      ∧ (agrees { s with free := s.free + pageDraws x.req } x x.copy.tokens a z = true →
          t.floor = s.floor ∧ ∀ y, y ∈ samplesOf t die ↔ y ∈ samplesOf s die ∧ y.key ≠ x.key)
      ∧ (agrees { s with free := s.free + pageDraws x.req } x x.copy.tokens a z = false →
          codeUnit t x.unit = .fenced ∧ (∀ u, u ≠ x.unit → codeUnit t u = codeUnit s u) ∧ ∀ y ∈ samplesOf t die, y.key ≠ x.key)) ∧
  (∀ s die x, s.up = true → (samplesOf s die).find? (fun x => x.state == .retrying) = some x → originIdle s x = true → x.cluster = none →
    (sampleRead s x true).bad ≠ [] → Settled s →
    ∃ t, exec (.sampleRetry die) s = .next t ∧ t.floor = s.floor ∧ ∀ y ∈ samplesOf t die, y.key ≠ x.key) ∧
  (∀ s die idx x, (samplesOf s die)[idx]? = some x → x.taken + ageNs s ≤ s.now →
    ∃ t, exec (.sampleAgeExpiry die idx) s = .next t ∧ (∀ y, y ∈ samplesOf t die ↔ y ∈ samplesOf s die ∧ y.key ≠ x.key)
      ∧ SameBytes s t ∧ t.seqs = s.seqs ∧ t.floor = s.floor ∧ t.att.reqs = s.att.reqs) ∧
  (∀ s die idx x, (samplesOf s die)[idx]? = some x → s.now < x.taken + ageNs s → exec (.sampleAgeExpiry die idx) s = .next s) ∧
  (∀ s, s.up = true → s.att.lulCtl.getLsbD 31 = true →
    ∃ t, exec .lullDisable s = .next t ∧ t.att.lulCtl = s.att.lulCtl &&& 0x781FFFFF#32
      ∧ (∀ die, ∀ y ∈ samplesOf t die, y ∈ samplesOf s die ∧ y.state ≠ .held) ∧ t.floor = s.floor ∧ t.mem = s.mem ∧ t.seqs = s.seqs)

/-- Lull's other activities: a free frame's test, a spare lane, the prefix directory, Zephyr's known answers (R207, R214, R218, R219, R350). -/
def Obligations.LullChecks : Prop :=
  (∀ s u slot n, testSteps s (u * 2560 + slot) = some n → testMay s u (u * 2560 + slot) = true → slot < 2560 →
    ∃ t, exec (.lullMemoryTest u slot none) s = .next t
      ∧ look t.mem.frames (u * 2560 + slot) = (if n + 1 < 25 then some (.testing (n + 1)) else none)
      ∧ (∀ k, k < 69632 → rd8 t.mem.dram ((u * 2560 + slot) * 69632 + k) = 0)
      ∧ SameOutside s t ((u * 2560 + slot) * 69632) ((u * 2560 + slot + 1) * 69632) ∧ t.seqs = s.seqs ∧ t.floor = s.floor) ∧
  (∀ s u slot n o, testSteps s (u * 2560 + slot) = some n → testMay s u (u * 2560 + slot) = true → slot < 2560 → testCovers n o = true →
    ∃ t, exec (.lullMemoryTest u slot (some o)) s = .next t ∧ look t.mem.frames (u * 2560 + slot) = some .retired
      ∧ lookD 0 t.floor.retired (u / 9) = lookD 0 s.floor.retired (u / 9) + 1 ∧ t.floor.gen = s.floor.gen + (if s.floor.published then 1 else 0)
      ∧ SameOutside s t ((u * 2560 + slot) * 69632) ((u * 2560 + slot + 1) * 69632) ∧ t.seqs = s.seqs
      ∧ (s.err.fatal = false → ∃ r ∈ t.err.log, r.code = 0x0010)) ∧
  (∀ s lane, lullBit s 28 = true → spareLane s lane = true → lane ∉ s.att.badLanes →
    exec (.lullSpareLane lane true) s = .next (lullStep (laneDie lane) s)) ∧
  (∀ s lane, lullBit s 28 = true → spareLane s lane = true → lane ∉ s.att.badLanes →
    ∃ t, exec (.lullSpareLane lane false) s = .next t ∧ t.att = { s.att with badLanes := lane :: s.att.badLanes } ∧ t.mem = s.mem ∧ t.seqs = s.seqs
      ∧ t.fab = s.fab ∧ (s.err.fatal = false → ∃ r ∈ t.err.log, r.code = 0x0004)) ∧
  (∀ s b, lullBit s 27 = true → s.pfx.turn = b → (∀ x ∈ bankTab s b, entryOk s x.2 = true) →
    (∀ l ∈ s.pfx.copies, ∀ e ∈ l.2, bankOf e.key = b → ∃ x ∈ bankTab s b, x.2.key = e.key) →
    ∃ t, exec (.lullPrefixCheck b) s = .next t ∧ t = { s with pfx := { s.pfx with cursor := t.pfx.cursor, turn := t.pfx.turn }, regs := t.regs }) ∧
  (∀ s b x, lullBit s 27 = true → s.pfx.turn = b → lookD 0 s.pfx.cursor b = 0 → (checkItems s b).length ≤ 64 →
    (bankTab s b).find? (fun y => y.2.key == x.2.key) = some x → entryOk s x.2 = false → entryCopy? s (keyTd x.2.key) x.2.key = none →
    (∀ y ∈ bankTab s b, y.2.key ≠ x.2.key → entryOk s y.2 = true) →
    (∀ l ∈ s.pfx.copies, ∀ e ∈ l.2, bankOf e.key = b → ∃ y ∈ bankTab s b, y.2.key = e.key) →
    ∃ t, exec (.lullPrefixCheck b) s = .next t ∧ bankTab t b = (bankTab s b).filter (fun y => y.2.key != x.2.key)
      ∧ (∀ k, k ≠ b → bankTab t k = bankTab s k) ∧ t.pfx.copies = s.pfx.copies ∧ t.pfx.groups = s.pfx.groups ∧ t.mem = s.mem ∧ t.seqs = s.seqs
      ∧ (s.err.fatal = false → ∃ r ∈ t.err.log, r.code = 0x0011)) ∧
  (∀ s b x e, lullBit s 27 = true → s.pfx.turn = b → lookD 0 s.pfx.cursor b = 0 → (checkItems s b).length ≤ 64 →
    (bankTab s b).find? (fun y => y.2.key == x.2.key) = some x → entryOk s x.2 = false → entryCopy? s (keyTd x.2.key) x.2.key = some e →
    headerOk s (keyTd x.2.key) e = true →
    (∀ y ∈ bankTab s b, y.2.key ≠ x.2.key → entryOk s y.2 = true) →
    (∀ l ∈ s.pfx.copies, ∀ e ∈ l.2, bankOf e.key = b → ∃ y ∈ bankTab s b, y.2.key = e.key) →
    ∃ t, exec (.lullPrefixCheck b) s = .next t ∧ bankTab t b = (bankTab s b).map (fun y => if y.2.key = x.2.key then (y.1, e) else y)
      ∧ (∀ k, k ≠ b → bankTab t k = bankTab s k) ∧ t.pfx.copies = s.pfx.copies ∧ t.pfx.groups = s.pfx.groups ∧ t.mem = s.mem ∧ t.seqs = s.seqs) ∧
  (∀ s die, s.up = true → s.att.lulCtl.getLsbD 31 = true → zphQuiet s die = true →
    exec (.lullZephyrCheck die true) s = .next (lullStep die s)) ∧
  (∀ s die, s.up = true → s.att.lulCtl.getLsbD 31 = true → zphQuiet s die = true → die < 2 → (zph s (1 - die)).fenced = false →
    ∃ t, exec (.lullZephyrCheck die false) s = .next t ∧ (zph t die).fenced = true
      ∧ (zph t (1 - die)).fenced = false ∧ t.err.fatal = s.err.fatal ∧ SameBytes s t ∧ t.seqs = s.seqs) ∧
  (∀ s die, s.up = true → s.att.lulCtl.getLsbD 31 = true → zphQuiet s die = true → die < 2 → (zph s (1 - die)).fenced = true → s.err.fatal = false →
    ∃ t, exec (.lullZephyrCheck die false) s = .next t ∧ (zph t die).fenced = true
      ∧ t.err.fatal = true ∧ t.boot.phase = .failed ∧ t.boot.cause = 6 ∧ SameBytes s t ∧ t.seqs = s.seqs)

/-- A step of the memory test completes when it may begin (R214, R216, R218). -/
def Obligations.LullMemoryTestCompletes : Prop :=
  ∀ s u slot n bad, testSteps s (u * 2560 + slot) = some n → testMay s u (u * 2560 + slot) = true → slot < 2560 →
    ∃ t, exec (.lullMemoryTest u slot bad) s = .next t ∧ (∀ k, k < 69632 → rd8 t.mem.dram ((u * 2560 + slot) * 69632 + k) = 0)
      ∧ look t.mem.frames (u * 2560 + slot) ∈ [some .retired, some (.testing (n + 1)), none]
      ∧ (∀ ix, ix ≠ u * 2560 + slot → look t.mem.frames ix = look s.mem.frames ix)

/-- The exercise of a spare lane completes when it may begin, and a lane that fails counts as bad (R214, R219). -/
def Obligations.LullSpareLaneCompletes : Prop :=
  ∀ s lane ok, lullBit s 28 = true → spareLane s lane = true → lane ∉ s.att.badLanes →
    ∃ t, exec (.lullSpareLane lane ok) s = .next t ∧ t.att.badLanes = (if ok then s.att.badLanes else lane :: s.att.badLanes) ∧ t.mem = s.mem
      ∧ t.seqs = s.seqs ∧ t.net = s.net

/-- A step of the prefix check completes when it may begin: it goes on by 64 entries or copies (R214, R350). -/
def Obligations.LullPrefixCheckCompletes : Prop :=
  ∀ s b, lullBit s 27 = true → s.pfx.turn = b →
    let at_ := lookD 0 s.pfx.cursor b
    ∃ t, exec (.lullPrefixCheck b) s = .next t ∧ lookD 0 t.pfx.cursor b = (if at_ + 64 < (checkItems s b).length then at_ + 64 else 0)
      ∧ t.pfx.turn = (if at_ + 64 < (checkItems s b).length then b else (b + 1) % 16)
      ∧ (∀ k, k ≠ b → bankTab t k = bankTab s k) ∧ t.pfx.copies = s.pfx.copies ∧ t.pfx.groups = s.pfx.groups ∧ t.mem = s.mem ∧ t.seqs = s.seqs

/-- A part of the known-answer set completes when it may begin: an answer that differs fences the Zephyr, no other does (R207). -/
def Obligations.LullZephyrCheckCompletes : Prop :=
  ∀ s die ok, s.up = true → s.att.lulCtl.getLsbD 31 = true → zphQuiet s die = true → die < 2 →
    ∃ t, exec (.lullZephyrCheck die ok) s = .next t ∧ (zph t die).fenced = !ok ∧ (zph t (1 - die)).fenced = (zph s (1 - die)).fenced
      ∧ SameBytes s t ∧ t.seqs = s.seqs

/-- Units and clusters are fenced, the error handler runs, a fatal error stops the node, and a signal held back is raised (R167, R197, R616,
R623, R630 to R633, R691). -/
def Obligations.FencesAndHandler : Prop :=
  (∀ s u cause c, s.up = true → codeUnit s u = .good → nextOp s u = some (.raw c.id) → cmd? s c.id = some c →
    (∀ x ∈ s.mbx.cmds, x.id = c.id → x = c) → c.discard = false →
    3 ≤ (RawD.ofBytes c.body).opc →
    ∃ t, exec (.unitFence u cause) s = .next t ∧ HasAnswer t c 0x22 ∧ codeUnit t u = .fenced ∧ (∀ k, k ≠ u → codeUnit t k = codeUnit s k)) ∧
  (∀ s u cause, s.up = true → codeUnit s u = .good → (∀ id, nextOp s u ≠ some (.raw id)) → Settled s →
    ∃ t, exec (.unitFence u cause) s = .next t ∧ codeUnit t u = .fenced ∧ (∀ k, k ≠ u → codeUnit t k = codeUnit s k)
      ∧ t.floor.gen = s.floor.gen + (if s.floor.published then 1 else 0) ∧ t.mem = s.mem ∧ t.seqs = s.seqs) ∧
  (∀ s c cause, s.up = true → codeClus s c = .good → extOfClus s c = none → (∀ g ∈ s.att.gcmds, c ∉ g.members) → s.att.gwait = [] →
    ∃ t, exec (.clusterFence c cause) s = .next t ∧ codeClus t c = .fenced ∧ clus t c = Clus.idle ∧ (∀ k, k ≠ c → codeClus t k = codeClus s k ∧ clus t k = clus s k)
      ∧ t.floor.gen = s.floor.gen + (if s.floor.published then 1 else 0) ∧ t.mem = s.mem ∧ t.seqs = s.seqs) ∧
  (∀ s h, s.err.fatal = false → s.err.active = some h → h.work = [] ∨ h.work = [.bookkeeping] →
    let q := s.err.queue.filter (fun k => !contains h.rec_ k.rec_.code k.rec_.cls k.rec_.tdv k.rec_.sva)
    ∃ t, exec .handlingStep s = .next t
      ∧ (q = [] → t.err.active = none ∧ t.err.queue = []) ∧ (∀ k, nextHdl q = some k → t.err.active = some { k with suspended := false } ∧ t.err.queue = q.erase k)
      ∧ t.err.log = s.err.log ∧ t.mem = s.mem ∧ t.seqs = s.seqs ∧ t.doms = s.doms) ∧
  (∀ s h td c rest ix, s.err.fatal = false → s.err.active = some h → h.work = .sweepChan td c :: rest → rest ≠ [] → c ∈ domChans s td →
    codeChan s c = .good → look s.mem.frames ix = some .used → ix / 2560 / 9 = c → (s.mem.frames.map (·.1)).Nodup →
    ∃ t, exec .handlingStep s = .next t ∧ t.err.active = some { h with work := rest }
      ∧ look t.mem.frames ix = some (if ix ∈ referencedFrames s td then .used else .dirty) ∧ SameBytes s t ∧ t.seqs = s.seqs) ∧
  (∀ s h cause, s.err.fatal = false → s.err.active = some h → cause = 1 ∨ cause = 2 →
    ∃ t r, exec (.handlerWatchdog cause) s = .next t ∧ t.err.fatal = true ∧ t.boot.phase = .failed ∧ t.boot.cause = 7
      ∧ t.err.log.getLast? = some r ∧ r.code = 0x0054 ∧ r.info = cause ∧ t.net.sess = [] ∧ t.mem.dram = s.mem.dram ∧ t.seqs = s.seqs) ∧
  (∀ s code info n, s.outOfReset = true → s.boot.phase = .released → s.err.fatal = false →
    (code, n) ∈ [(0x0051, 4), (0x0052, 5), (0x0053, 6), (0x0054, 7), (0x0055, info)] →
    ∃ t r, exec (.fatalError code info) s = .next t ∧ t.err.fatal = true ∧ t.boot.phase = .failed ∧ t.boot.cause = n
      ∧ t.err.log.getLast? = some r ∧ r.code = code ∧ r.info = info ∧ r.fatal = true ∧ t.net.sess = [] ∧ t.sec.slots = [] ∧ t.mem.pages = []
      ∧ t.mem.dram = s.mem.dram ∧ t.seqs = s.seqs ∧ (∃ c, t.err.crash = some c ∧ c.after = 0)) ∧
  (∀ s code info c, s.outOfReset = true → s.err.fatal = true → s.err.crash = some c → code ∈ [0x0051, 0x0052, 0x0053, 0x0054, 0x0055] →
    exec (.fatalError code info) s = .next { s with err := { s.err with crash := some { c with after := c.after + 1 } } }) ∧
  (∀ s l, s.err.pendPf = true → s.err.fatal = false → s.err.lastPf = some l → l + 10000 ≤ s.clk →
    exec (.interruptHoldoffExpiry false) s = .next { s with out := .msix 64 8 :: s.out, err := { s.err with pendPf := false, lastPf := some s.clk } }) ∧
  (∀ s l b rest, s.err.pendSb = b :: rest → s.err.lastSb = some l → l + 10000 ≤ s.clk → s.i3c = true → s.side.events % 2 = 1 →
    exec (.interruptHoldoffExpiry true) s = .next { s with out := .sideband b :: s.out, err := { s.err with pendSb := rest, lastSb := some s.clk } }) ∧
  (∀ s b rest l, s.err.pendSb = b :: rest → s.err.lastSb = some l → s.clk < l + 10000 → exec (.interruptHoldoffExpiry true) s = .next s)

/-- Frames at a port: the checks, the meter, the queue pair, the window (R394, R399, R404, R406, R432, R456 to R458). -/
def Obligations.FramesAtPort : Prop :=
  (∀ s i p f, FrameRow s i p f ∨ i = .undefinedFrameType p f ∧ (f.ftype = 0 ∨ 9 ≤ f.ftype) →
    ((port s p).carries = false → exec i s = .next s) ∧
    ((port s p).carries = true →
      (frameOk f = false → exec i s = .next (bump (ctrPort p 5) s)) ∧
      (frameOk f = true → f.dst ≠ nodeId s → exec i s = .next (bump (ctrPort p 6) s)) ∧
      (frameOk f = true → f.dst = nodeId s → mgmtOk s f = false → exec i s = .next (bump (ctrPort p 5) s)) ∧
      (frameOk f = true → f.dst = nodeId s → mgmtOk s f = true → f.mgmt = false →
        (sess? s false f.td f.src = none → exec i s = .next (bump (ctrPort p 7) s)) ∧
        ∀ x, sess? s false f.td f.src = some x → tagOk s x f = false →
          exec i s = .next (bump (ctrTd f.td 0x100) (bump (ctrPort p 8) s))))) ∧
  (∀ s i p f, FrameRow s i p f → (checkFrame p f s).1 = true → f.mgmt = false → metered f = true →
    (meter (hostOf s f.src) (64 + f.plen) s).1 = .red →
    ∃ t, exec i s = .next t ∧ look t.fab.lastRed (hostOf s f.src) = some s.now ∧ t.net = s.net ∧ t.mem = s.mem ∧ t.seqs = s.seqs ∧ t.att = s.att) ∧
  (∀ s i p f, FrameRow s i p f → (checkFrame p f s).1 = true → f.mgmt = false → (police p f (checkFrame p f s).2).1 = true →
    qp? s f.qpn = none ∨ (∃ q, qp? s f.qpn = some q ∧ (q.td ≠ f.td ∨ q.peer ≠ f.src)) →
    ∃ t, exec i s = .next t ∧ t.net = s.net ∧ t.mem = s.mem ∧ t.seqs = s.seqs ∧ t.att = s.att) ∧
  (∀ s i p f q pn, FrameRow s i p f → (checkFrame p f s).1 = true → f.mgmt = false → (police p f (checkFrame p f s).2).1 = true → qp? s f.qpn = some q →
    q.td = f.td → q.peer = f.src → q.state = .error → q.lastQperr = none → usable s q.peer = [pn] →
    ∃ t, exec i s = .next t ∧ Naked t pn q f.psn 8 0 ∧ qp? t f.qpn = some { q with lastQperr := some s.now, tlast := s.now } ∧ t.mem = s.mem ∧ t.seqs = s.seqs) ∧
  (∀ s i p f q, FrameRow s i p f → Arrives s p f q → f.ftype ∉ [5, 6] →
    (psnHalf ≤ psnSub f.psn q.epsn ∨ psnSub f.psn q.epsn ≤ q.win ∧ psnSub f.psn q.epsn ∈ q.rbits →
      ∃ t, exec i s = .next t ∧ t.mem = s.mem ∧ t.seqs = s.seqs ∧ t.att = s.att
        ∧ qp? t f.qpn = some { q with echo := f.tstamp, epsnf := f.psn, tlast := s.now, sinceAck := 0, firstUnacked := none,
                                       finals := q.finals.filter (fun x => !q.passed x) }) ∧
    (psnSub f.psn q.epsn < psnHalf → q.win < psnSub f.psn q.epsn →
      ∃ t, exec i s = .next t ∧ t.mem = s.mem ∧ t.seqs = s.seqs ∧ t.att = s.att ∧ t.net = { s.net with qps := t.net.qps }
        ∧ qp? t f.qpn = some { q with tlast := s.now }))

/-- Attention frames, remote writes and reads at their receiver, and acknowledgements (R393, R416 to R427, R429, R434, R436, R706). -/
def Obligations.FramesApplied : Prop :=
  (∀ s p f q, Arrives s p f q → Fresh q f → f.ftype = 1 → (∀ m ∈ q.att, m.msn ≠ f.msn ∧ m.last = none) → (∀ x ∈ q.ordered, x.f.psn ≠ f.psn) →
    (attendCheck q f = 0 → ∃ t q' m, exec (.attend p f) s = .next t ∧ qp? t f.qpn = some q' ∧ q'.att = q.att ++ [m] ∧ m.msn = f.msn ∧ m.bad = false
      ∧ (∀ k, k < f.payload.length → look m.bytes (f.addr + k) = f.payload[k]?)
      ∧ q'.ordered = (if f.final then q.ordered ++ [⟨p, hostOf s f.src, f⟩] else q.ordered) ∧ t.att = s.att ∧ t.mem = s.mem ∧ t.seqs = s.seqs) ∧
    (attendCheck q f ≠ 0 → (f.final = true → 0 < psnSub f.psn q.epsn ∧ 0 ∉ q.rbits) → ∀ pn, usable s q.peer = [pn] → ∃ t q', exec (.attend p f) s = .next t ∧ qp? t f.qpn = some q'
      ∧ q'.att = q.att ++ [{ msn := f.msn, bytes := [], bad := true, last := if f.final then some f.psn else none }] ∧ Naked t pn q f.psn (attendCheck q f) 0 ∧ t.att = s.att ∧ t.mem = s.mem
      ∧ t.seqs = s.seqs)) ∧
  (∀ s n q x m, qp? s n = some q → q.ordered = [x] → x.f.ftype = 1 → frameReady s q x.f = true → m ∈ q.att → m.msn = x.f.msn →
    (∀ k ∈ q.att, k.msn = x.f.msn → k = m) →
    ∃ t q', exec (.orderedFrameApply n) s = .next t ∧ qp? t n = some q' ∧ q'.ordered = [] ∧ x.f.psn ∉ q'.unapplied ∧ (∀ k ∈ q'.att, k.msn ≠ x.f.msn)
      ∧ (m.bad = true → Settled s → t.att = s.att ∧ t.mem = s.mem ∧ t.seqs = s.seqs)) ∧
  (∀ s p f q d l, Arrives s p f q → Fresh q f → f.ftype = 2 → f.final = false → (accessCheck s q (hostOf s f.src) f).1 = 0 → writeMoving s f = false → 0 < f.plen →
    let a := Sva.ofNat f.addr
    let pix := pageIx a.layer a.head a.tpage
    let w := wrPage s.mem l.frame a.off f.payload
    seq? s a.td a.seqn = some d → walk s d pix = .page l l → l.tier = .dram → (edgeRead s.mem l.frame a.off f.plen).bad = [] →
    ∃ t d', exec (.write p f) s = .next t ∧ t.mem.dram = w.1.dram ∧ t.mem.chk = w.1.chk ∧ seq? t a.td a.seqn = some d' ∧ d'.leaves = d.leaves
      ∧ d'.tfront = max d.tfront (topPosition (dom s a.td).geom a.tpage a.off f.plen (w.2.map (fun c => (c - pageAddr l.frame) / 32))) ∧ d'.len = d.len ∧ pix ∈ d'.chgMig ∧ pix ∈ d'.chgExp
      ∧ OtherSeqs s t a.td a.seqn) ∧
  (∀ s i p f q pn, Arrives s p f q → Fresh q f → (i, f.ftype) ∈ [(.write p f, 2), (.readReq p f, 3)] → (accessCheck s q (hostOf s f.src) f).1 ∉ [0, 3] →
    usable s q.peer = [pn] →
    ∃ t, exec i s = .next t ∧ Naked t pn q f.psn (accessCheck s q (hostOf s f.src) f).1 (accessCheck s q (hostOf s f.src) f).2 ∧ t.mem = s.mem ∧ t.seqs = s.seqs ∧ t.att = s.att) ∧
  (∀ s p f q, Arrives s p f q → InTurn q f → f.ftype = 3 → (accessCheck s q (hostOf s f.src) f).1 = 0 → Settled s →
    ∃ t q' r, exec (.readReq p f) s = .next t ∧ qp? t f.qpn = some q' ∧ q'.reads = q.reads ++ [r] ∧ r.psn = f.psn ∧ r.addr = f.addr ∧ r.rkey = f.rkey
      ∧ r.alen = f.alen ∧ q'.epsn = psnAdd q.epsn 1 ∧ q'.apsn = q'.epsn ∧ t.mem = s.mem ∧ t.seqs = s.seqs) ∧
  (∀ s p f q r, Arrives s p f q → InTurn q f → f.ftype = 4 → f.final = false → headRead q = some r → Settled s →
    ∃ t q', exec (.readResp p f) s = .next t ∧ qp? t f.qpn = some q' ∧ q'.ownReads = q.ownReads.map (fun x => if x.psn = r.psn then
        { r with got := (f.payload.zipIdx).foldl (fun t b => put t (f.addr + b.2) b.1) r.got } else x)
      ∧ t.mem = s.mem ∧ t.seqs = s.seqs) ∧
  (∀ s p f q, Arrives s p f q → f.ftype = 5 → q.sendq = [] → bitsSet (fit (slice f.payload 32 128) 128) = [] →
    let cpsn := nbits (le f.payload 0 8) 63 40
    0 < psnSub cpsn q.suna → psnSub cpsn q.suna ≤ psnSub q.snxt q.suna →
    ∃ t q', exec (.ack p f) s = .next t ∧ qp? t f.qpn = some q' ∧ q'.suna = cpsn ∧ q'.retries = 0 ∧ q'.rto = max (rtomin s) (q.srtt + 4 * q.rttvar)
      ∧ q'.sent = (q.sent.filter (fun x => decide (psnSub cpsn q.suna ≤ psnSub x.psn q.suna))).map (fun x => { x with marked := false })
      ∧ t.mem = s.mem ∧ t.seqs = s.seqs ∧ t.att = s.att) ∧
  (∀ s p f q, Arrives s p f q → f.ftype = 6 → q.ownReads = [] →
    let psn := nbits (le f.payload 0 8) 63 40
    ∃ t, exec (.nak p f) s = .next t ∧ t.mem = s.mem ∧ t.seqs = s.seqs ∧ t.att = s.att ∧ qp? t f.qpn = some { q with
      tlast := s.now, sent := q.sent.map (fun x => if x.psn = psn then { x with naked := true } else x)
      sendq := q.sendq.map (fun m => if m.sentAs q psn = true ∧ m.nak = none then
        { m with nak := some (nbits (le f.payload 0 8) 39 32) } else m) })

/-- OWNER messages: offer, acceptance, copy, hand-off, take-over, abort and resolution (R488, R489, R492 to R496). -/
def Obligations.OwnerMessages : Prop :=
  (∀ s p f q m d, OwnerIn s p f q m → m.mtype = 1 → seq? s q.td (Sva.ofNat m.sva).seqn = some d → d.state ≠ .forwarded →
    ownerHost s (hostOf s f.src) q.td (Sva.ofNat m.sva).seqn = true → ∃ t d', exec (.offer p f) s = .next t ∧ OwnerSent s t f.qpn q.td (Sva.ofNat m.sva).seqn 2 0x45 (q.peer % 2 ^ 18)
      ∧ seq? t q.td (Sva.ofNat m.sva).seqn = some d' ∧ d'.state = d.state ∧ d'.leaves = d.leaves ∧ t.mem = s.mem) ∧
  (∀ s p f q m d i r, OwnerIn s p f q m → (i, m.mtype, r) ∈ [(.offer p f, 1, 2), (.handoff p f, 4, 6)] → seq? s q.td (Sva.ofNat m.sva).seqn = some d →
    ownerHost s (hostOf s f.src) q.td (Sva.ofNat m.sva).seqn = false →
    ∃ t, exec i s = .next t ∧ OwnerSent s t f.qpn q.td (Sva.ofNat m.sva).seqn r 3 (q.peer % 2 ^ 18) ∧ t.mem = s.mem ∧ t.seqs = s.seqs) ∧
  (∀ s p f q m e, OwnerIn s p f q m → m.mtype = 1 → seq? s q.td (Sva.ofNat m.sva).seqn = none → m.sva % 2 ^ 40 = 0 →
    m.geomw = (dom s q.td).geom.toNat → m.body = fmtBytes s q.td → m.body.length = 64 → m.ntp = 0 →
    s.cmp.exts.find? (fun e => e.2.td == q.td && e.2.host == m.host && e.2.state == .active) = some e →
    m.host = hostOf s f.src → descRoom s q.td (seqKey q.td (Sva.ofNat m.sva).seqn) = true →
    ∃ t d, exec (.offer p f) s = .next t ∧ OwnerSent s t f.qpn q.td (Sva.ofNat m.sva).seqn 2 0 (q.peer % 2 ^ 18)
      ∧ OwnerSent s t f.qpn q.td (Sva.ofNat m.sva).seqn 3 0 (q.peer % 2 ^ 18)
      ∧ seq? t q.td (Sva.ofNat m.sva).seqn = some d ∧ destOf d = true ∧ d.ext = e.1 ∧ d.leaves = [] ∧ d.len = m.len ∧ d.base = m.base
      ∧ d.hend = m.hend ∧ d.tfront = m.tfront ∧ OtherSeqs s t q.td (Sva.ofNat m.sva).seqn ∧ SameBytes s t) ∧
  (∀ s p f q m d g, OwnerIn s p f q m → seq? s q.td (Sva.ofNat m.sva).seqn = some d → d.td = q.td → d.seqn = (Sva.ofNat m.sva).seqn →
    d.mig = some g → g.qpn = f.qpn → g.peer = q.peer % 2 ^ 18 → NoneHeld s d.td d.seqn →
    ownerHost s (hostOf s f.src) d.td d.seqn = true →
    (m.mtype = 2 → sourceOf d = true → m.status = 0 →
      ∃ t, exec (.accept p f) s = .next t ∧ seq? t d.td d.seqn = some { d with mig := some { g with progress := s.now } } ∧ t.mem = s.mem) ∧
    (m.mtype = 2 → sourceOf d = true → m.status ≠ 0 →
      ∃ t, exec (.accept p f) s = .next t ∧ seq? t d.td d.seqn = some { d with state := .own, mig := none } ∧ t.mem = s.mem
        ∧ ∀ k c, g.cmd = some k → cmd? s k = some c → c.discard = false → HasAnswer t c m.status) ∧
    (m.mtype = 3 → sourceOf d = true →
      ∃ t, exec (.copied p f) s = .next t
        ∧ seq? t d.td d.seqn = some { d with state := .handoff, mig := some { g with progress := s.now, thandoff := s.now } } ∧ t.mem = s.mem) ∧
    (m.mtype = 5 → d.state = .handoff → d.exp = none →
      ∃ t d', exec (.taken p f) s = .next t ∧ seq? t d.td d.seqn = some d' ∧ d'.state = .forwarded ∧ d'.leaves = [] ∧ d'.l2 = []
        ∧ d'.mig = some { g with progress := s.now, tfwd := s.now, cmd := none } ∧ SameBytes s t ∧ OtherSeqs s t d.td d.seqn
        ∧ ∀ k c, g.cmd = some k → cmd? s k = some c → c.discard = false → HasAnswer t c 0) ∧
    (m.mtype = 6 → sourceOf d = true ∨ d.state = .handoff →
      ∃ t, exec (.abort p f) s = .next t ∧ seq? t d.td d.seqn = some { d with state := .own, mig := none } ∧ t.mem = s.mem
        ∧ ∀ k c, g.cmd = some k → cmd? s k = some c → c.discard = false → HasAnswer t c 0x0062) ∧
    (m.mtype = 6 → destOf d = true →
      ∃ t, exec (.abort p f) s = .next t ∧ seq? t d.td d.seqn = none ∧ SameBytes s t ∧ OtherSeqs s t d.td d.seqn) ∧
    (m.mtype = 4 → destOf d = true → m.ntp = 0 → mappedPages d = [] → g.toRead = [] → g.inFlight = [] →
      ∃ t d', exec (.handoff p f) s = .next t ∧ seq? t d.td d.seqn = some d' ∧ d'.state = .own ∧ d'.mig = none ∧ d'.base = m.base ∧ d'.hend = m.hend
        ∧ d'.len = m.len ∧ d'.tfront = m.tfront ∧ d'.mgen = m.mgen ∧ d'.kidx = m.key / 0x10000 ∧ d'.sgen = m.key % 0x10000 ∧ d'.ckep = 0
        ∧ OwnerSent s t f.qpn d.td d.seqn 5 0 g.peer ∧ SameBytes s t ∧ OtherSeqs s t d.td d.seqn)) ∧
  (∀ s p f q m, OwnerIn s p f q m → m.mtype = 4 → seq? s q.td (Sva.ofNat m.sva).seqn = none →
    ∃ t, exec (.handoff p f) s = .next t ∧ OwnerSent s t f.qpn q.td (Sva.ofNat m.sva).seqn 6 0 (q.peer % 2 ^ 18) ∧ t.mem = s.mem ∧ t.seqs = s.seqs) ∧
  (∀ s p f q m, OwnerIn s p f q m → m.mtype = 8 →
    ∃ t, exec (.resolve p f) s = .next t
      ∧ OwnerSent s t f.qpn q.td (Sva.ofNat m.sva).seqn 9 (if ownerHost s (hostOf s f.src) q.td (Sva.ofNat m.sva).seqn then 0 else 3) m.peer
      ∧ t.mem = s.mem ∧ ∀ k n, (seq? t k n).map (·.state) = (seq? s k n).map (·.state)) ∧
  (∀ s p f q m d c1 c2, OwnerIn s p f q m → m.mtype = 10 → seq? s q.td (Sva.ofNat m.sva).seqn = some d → d.td = q.td →
    d.seqn = (Sva.ofNat m.sva).seqn → NoneHeld s d.td d.seqn → ownerHost s (hostOf s f.src) d.td d.seqn = true →
    OwnerM.ofBytes (slice m.body 0 64) = c1 → OwnerM.ofBytes (slice m.body 64 64) = c2 → c1.node = nodeId s → c1.st = d.state.code → c1.mgen = d.mgen →
    (m.lostd = false → pick c1 c2 = some m.peer → m.peer ≠ nodeId s →
      ∃ t d' g, exec (.resolveSet p f) s = .next t ∧ seq? t d.td d.seqn = some d' ∧ d'.state = .forwarded ∧ d'.mig = some g ∧ g.peer = m.peer
        ∧ d'.leaves = [] ∧ SameBytes s t ∧ OtherSeqs s t d.td d.seqn) ∧
    (m.lostd = false → pick c1 c2 = some m.peer → m.peer = nodeId s →
      ∃ t, exec (.resolveSet p f) s = .next t ∧ SameBytes s t ∧ OtherSeqs s t d.td d.seqn
        ∧ (seq? t d.td d.seqn).map (fun x => (x.state, x.mgen, x.leaves)) = some (.own, (d.mgen + 1) % 2 ^ 16, d.leaves)) ∧
    (m.lostd = true → pick c1 c2 = none →
      ∃ t d', exec (.resolveSet p f) s = .next t ∧ seq? t d.td d.seqn = some d' ∧ d'.state = .lost ∧ d'.mig = none ∧ d'.leaves = [] ∧ SameBytes s t
        ∧ OtherSeqs s t d.td d.seqn) ∧
    (pick c1 c2 ≠ (if m.lostd then none else some m.peer) →
      ∃ t, exec (.resolveSet p f) s = .next t ∧ OwnerSent s t f.qpn d.td d.seqn 9 0x0047 c2.node ∧ t.mem = s.mem
        ∧ ∀ k n, (seq? t k n).map (·.state) = (seq? s k n).map (·.state)))

/-- The transport's own events: acknowledgement and retransmission timers, sending, contexts fetched, reads answered (R410, R412 to R415, R425, R435,
R436). -/
def Obligations.TransportEvents : Prop :=
  (∀ s n q u pn, qp? s n = some q → q.firstUnacked = some u → u + 1000 ≤ s.now → usable s q.peer = [pn] →
    ∃ t g, exec (.ackTimer n) s = .next t ∧ qp? t n = some { q with
          sinceAck := 0, firstUnacked := none, tlast := s.now, finals := q.finals.filter (fun x => !q.passed x) }
      ∧ (port t pn).ackq = (port s pn).ackq ++ [{ txTo q 0x5 .ackNak with payload := ackBody q, tstamp := s.now % 2 ^ 32, gust := g }]
      ∧ t.mem = s.mem ∧ t.seqs = s.seqs) ∧
  (∀ s n q x, qp? s n = some q → q.state = .ready → q.sent.find? (fun x => x.psn == q.suna) = some x → x.at_ + q.rto ≤ s.now →
    builderWaits s false q.peer q.pqpn = false →
    (q.retries = rtxRetry s → ∃ t q', exec (.retransmitTimer n) s = .next t ∧ qp? t n = some q' ∧ q'.state = .error ∧ q'.sent = [] ∧ q'.sendq = []
      ∧ t.mem = s.mem ∧ (s.err.fatal = false → ∃ r ∈ t.err.log, r.code = 0x0003)) ∧
    (q.retries ≠ rtxRetry s → ∃ t q', exec (.retransmitTimer n) s = .next t ∧ qp? t n = some q' ∧ q'.retries = q.retries + 1
      ∧ q'.rto = min (2 * q.rto) 10000000 ∧ q'.cwnd = minwin s * 256 ∧ q'.sent.map (·.psn) = q.sent.map (·.psn) ∧ q'.snxt = q.snxt
      ∧ t.mem = s.mem ∧ t.seqs = s.seqs)) ∧
  (∀ s n q m f, qp? s n = some q → q.state = .ready → q.onNode = true → q.sendq = [m] → m.frames = [f] → f.ftype ≠ 3 →
    psnSub q.snxt q.suna < min (q.cwnd / 256) (q.win + 1) → builderWaits s false q.peer q.pqpn = false →
    ∃ t, exec (.sendReady n) s = .next t ∧ t.mem = s.mem ∧ t.seqs = s.seqs ∧ qp? t n = some { q with
      snxt := psnAdd q.snxt 1, tlast := s.now, sendq := [{ m with frames := [], firstPsn := some (m.firstPsn.getD q.snxt), finalPsn := some q.snxt }]
      sent := q.sent ++ [{ psn := q.snxt, at_ := s.now, marked := false, naked := false, f := { f with psn := q.snxt, tstamp := s.now % 2 ^ 32 } }] }) ∧
  (∀ s n q m tab, qp? s n = some q → q.state = .ready → q.onNode = false → m ∈ q.sendq → m.frames ≠ [] → (∀ f ∈ s.net.fetches, f.qpn ≠ n) →
    (dom s q.td).qpTab = some tab → onNode s q.td < slotsOf s q.td → dmaStopped s q.td = false →
    ∃ t, exec (.sendReady n) s = .next t ∧ t.net.fetches = s.net.fetches ++ [{ qpn := n, start := s.now, frames := [], late := false }]
      ∧ t.out = .dmaRead s.mbx.nextDma q.td (ctxAddr tab n) 384 :: s.out ∧ t.net.qps = s.net.qps ∧ t.mem = s.mem ∧ t.seqs = s.seqs) ∧
  (∀ s n q x, s.net.fetches.find? (fun f => f.qpn == n) = some x → x.frames = [] → qp? s n = some q → q.state = .ready →
    (∃ t q', exec (.contextFetchComplete n .failed) s = .next t ∧ qp? t n = some q' ∧ q'.state = .error ∧ (∀ f ∈ t.net.fetches, f.qpn ≠ n)) ∧
    ∀ bs, bs.length = 384 → dmaStopped s q.td = false → onNode s q.td ≤ slotsOf s q.td → ∃ t q', exec (.contextFetchComplete n (.bytes bs)) s = .next t ∧ qp? t n = some q' ∧ (∀ f ∈ t.net.fetches, f.qpn ≠ n)
      ∧ (nbits (le bs 80 8) 63 32 = q.expSpcnt ∧ spillTag s.net.spillKey n q.expSpcnt bs = BitVec.ofNat 64 (le bs 72 8) → q' = ctxLoad bs q)
      ∧ (¬(nbits (le bs 80 8) 63 32 = q.expSpcnt ∧ spillTag s.net.spillKey n q.expSpcnt bs = BitVec.ofNat 64 (le bs 72 8)) → q'.state = .error)) ∧
  (∀ s n x, s.net.fetches.find? (fun f => f.qpn == n) = some x → x.late = false → x.frames ≠ [] → x.start + 3000 ≤ s.now →
    ∃ t, exec (.contextFetchBudget n) s = .next t
      ∧ t.net = { s.net with fetches := s.net.fetches.map (fun y => if y.qpn = n then { y with frames := [], late := true } else y) }
      ∧ t.mem = s.mem ∧ t.seqs = s.seqs ∧ t.mbx = s.mbx) ∧
  (∀ s n q r rest d l e, qp? s n = some q → q.reads = r :: rest → q.state = .ready → r.after = [] → r.image = false →
    let a := Sva.ofNat r.addr
    seq? s a.td a.seqn = some d → d.state = .own → rkeyOf d = r.rkey → walk s d (pageIx a.layer a.head a.tpage) = .page l l → l.tier = .dram →
    l.psn = false → codeChan s (frChan l.frame) = .good → (ch s (frChan l.frame)).retraining = false → (rdPage s.mem l.frame 0 69632).bad = [] →
    appendsPending s a.td a.seqn (pageIx a.layer a.head a.tpage) = false →
    (∀ x, ext? s d.ext = some x → x.state ≠ .draining) → Settled s →
    ∃ t q' m, exec (.readResponse ⟨n, e⟩) s = .next t ∧ qp? t n = some q' ∧ q'.reads = rest ∧ q'.sendq = q.sendq ++ [m]
      ∧ m.frames.flatMap (·.payload) = slice (rdPage s.mem l.frame 0 69632).bytes a.off r.alen ∧ (∀ f ∈ m.frames, f.ftype = 4 ∧ f.dst = q.peer ∧ f.qpn = q.pqpn)
      ∧ SameBytes s t ∧ OtherSeqs s t a.td a.seqn) ∧
  (∀ s n q r rest pn e, qp? s n = some q → q.reads = r :: rest → q.state = .ready → r.after = [] →
    seq? s (Sva.ofNat r.addr).td (Sva.ofNat r.addr).seqn = none → usable s q.peer = [pn] →
    ∃ t, exec (.readResponse ⟨n, e⟩) s = .next t ∧ qp? t n = some { q with reads := rest, tlast := s.now } ∧ Naked t pn q r.psn 1 0 ∧ t.mem = s.mem ∧ t.seqs = s.seqs)

/-- Egress: acknowledgements first, then the first frames of responses, then the service queues; a frame waiting for room (R396, R398, R448 to R455). -/
def Obligations.EgressOrder : Prop :=
  (∀ s pn f rest x, (port s pn).carries = true → s.err.fatal = false → (port s pn).ackq = f :: rest → f.mgmt = false → sess? s false f.td f.dst = some x →
    ∃ t, exec (.egressNextFrame pn) s = .next t ∧ SendsFrame s t pn f x ∧ (port t pn).ackq = rest ∧ (port t pn).expedite = (port s pn).expedite
      ∧ (port t pn).queues = (port s pn).queues ∧ t.mem = s.mem ∧ t.seqs = s.seqs) ∧
  (∀ s pn f rest x, (port s pn).carries = true → s.err.fatal = false → (port s pn).ackq = [] → (port s pn).expedite = f :: rest → f.mgmt = false →
    sess? s false f.td f.dst = some x →
    ∃ t, exec (.egressNextFrame pn) s = .next t ∧ SendsFrame s t pn f x ∧ (port t pn).expedite = rest ∧ (port t pn).queues = (port s pn).queues
      ∧ t.mem = s.mem ∧ t.seqs = s.seqs) ∧
  (∀ s pn f h c x, (port s pn).carries = true → s.err.fatal = false → (port s pn).ackq = [] → (port s pn).expedite = [] → flatMode s = false → c < 3 →
    (port s pn).queues = [(4 * h + c, [f])] →
    (idleOf s pn (c + 1) = 0 → f.mgmt = false → sess? s false f.td f.dst = some x →
      ∃ t, exec (.egressNextFrame pn) s = .next t ∧ SendsFrame s t pn f x ∧ lookD [] (port t pn).queues (4 * h + c) = [] ∧ t.mem = s.mem
        ∧ t.seqs = s.seqs) ∧
    (idleOf s pn (c + 1) ≠ 0 → lookD 0 (port (settleCredit pn s) pn).credit (c + 1) < 0 →
      ∃ t, exec (.egressNextFrame pn) s = .next t ∧ t.out = s.out ∧ (port t pn).queues = (port s pn).queues ∧ t.mem = s.mem ∧ t.seqs = s.seqs)) ∧
  (∀ s pn f c x, (port s pn).carries = true → s.err.fatal = false → (port s pn).ackq = [] → (port s pn).expedite = [] → flatMode s = true →
    c ∈ [1, 2, 3] ∧ idleOf s pn c = 0 ∨ 100 ≤ c → (port s pn).queues = [(c, [f])] → f.mgmt = false → sess? s false f.td f.dst = some x →
    ∃ t, exec (.egressNextFrame pn) s = .next t ∧ SendsFrame s t pn f x ∧ lookD [] (port t pn).queues c = [] ∧ t.mem = s.mem ∧ t.seqs = s.seqs) ∧
  (∀ s pn f rest, (port s pn).carries = true → s.err.fatal = false → (port s pn).ackq = f :: rest → sess? s f.mgmt f.td f.dst = none →
    ∃ t, exec (.egressNextFrame pn) s = .next t ∧ t.out = s.out ∧ (port t pn).ackq = rest ∧ t.net = s.net ∧ SameBytes s t ∧ t.seqs = s.seqs) ∧
  (∀ s pn, (port s pn).carries = false ∨ s.err.fatal = true → exec (.egressNextFrame pn) s = .next s) ∧
  (∀ s pn f rest, (port s pn).waiting = f :: rest → f.cls ≠ .ackNak → f.retx = false →
    (queued (port s pn) < qmaxOf s.fab.schCtl → ∃ t g, exec (.egressQueueRoom pn) s = .next t ∧ (port t pn).waiting = rest
      ∧ (f.expedite = true → (port t pn).expedite = (port s pn).expedite ++ [{ f with gust := g }] ∧ (port t pn).queues = (port s pn).queues)
      ∧ (f.expedite = false → lookD [] (port t pn).queues (queueKey s f) = lookD [] (port s pn).queues (queueKey s f) ++ [{ f with gust := g }]
          ∧ (port t pn).expedite = (port s pn).expedite)
      ∧ t.out = s.out ∧ t.net = s.net ∧ SameBytes s t ∧ t.seqs = s.seqs) ∧
    (qmaxOf s.fab.schCtl ≤ queued (port s pn) → ∃ t, exec (.egressQueueRoom pn) s = .next t ∧ (port t pn).waiting = f :: rest
      ∧ (port t pn).queues = (port s pn).queues ∧ t.out = s.out ∧ t.net = s.net ∧ SameBytes s t ∧ t.seqs = s.seqs))

/-- Ports: enabling, disabling, training, retry of a dead lane, identity (R375 to R378, R382 to R388). -/
def Obligations.PortStates : Prop :=
  (∀ s pn, s.up = true → pn < 4 → (port s pn).state = .disabled →
    ∃ t, exec (.portEnable pn) s = .next t ∧ (port t pn).pctl = (port s pn).pctl ||| 0x80000000#32 ∧ (∀ k, k ≠ pn → port t k = port s k) ∧ SameBytes s t ∧ t.seqs = s.seqs
      ∧ (wired s pn 0 = false → wired s pn 1 = false → (port t pn).state = .disabled ∧ (port t pn).fault = 4)
      ∧ (wired s pn 0 = true ∨ wired s pn 1 = true → nbrKind (port s pn) = 0 → (port t pn).state = .disabled ∧ (port t pn).fault = (port s pn).fault)
      ∧ (wired s pn 0 = true ∨ wired s pn 1 = true → nbrKind (port s pn) ≠ 0 → (port t pn).state = .training ∧ (port t pn).fault = 0
          ∧ (port t pn).ldead = 0 ∧ (port t pn).lfen = (port s pn).lfen)) ∧
  (∀ s pn, s.up = true → pn < 4 → (port s pn).state ≠ .disabled →
    ∃ t, exec (.portDisable pn) s = .next t ∧ (port t pn).state = .disabled ∧ (port t pn).lfen = 0 ∧ (port t pn).pctl = (port s pn).pctl &&& 0x7FFFFFFF#32
      ∧ (port t pn).queues = [] ∧ (port t pn).expedite = [] ∧ (port t pn).ackq = [] ∧ (port t pn).waiting = [] ∧ (∀ k, k ≠ pn → port t k = port s k)
      ∧ t.mem = s.mem ∧ t.seqs = s.seqs) ∧
  (∀ s pn a b i, (port s pn).state = .training → (port s pn).lfen = 0 → wired s pn 0 = true → wired s pn 1 = true → a.signal = true → a.locked = true →
    a.shorted = false → b.signal = true → b.locked = true → b.shorted = false → (a.llane, b.llane) ∈ [(0, 1), (1, 0)] →
    (identityFault s pn i = 0 → ∃ t, exec (.portTrainingComplete pn [a, b] (some i)) s = .next t ∧ (port t pn).state = .up ∧ (port t pn).fault = 0
      ∧ (port t pn).ldead = 0 ∧ (port t pn).lfen = 0 ∧ (port t pn).rev = (a.llane == 1)
      ∧ (port t pn).pol = (if a.llane = 0 then b2n a.inverted + 2 * b2n b.inverted else 2 * b2n a.inverted + b2n b.inverted) ∧ SameBytes s t ∧ t.seqs = s.seqs) ∧
    (identityFault s pn i ≠ 0 → unheard s pn i = false → ∃ t, exec (.portTrainingComplete pn [a, b] (some i)) s = .next t ∧ (port t pn).state = .fenced
      ∧ (port t pn).fault = identityFault s pn i ∧ (s.err.fatal = false → ∃ r ∈ t.err.log, r.code = 0x0004) ∧ SameBytes s t ∧ t.seqs = s.seqs) ∧
    ∀ o, o = none ∨ o = some i ∧ unheard s pn i = true → ∃ t, exec (.portTrainingComplete pn [a, b] o) s = .next t ∧ (port t pn).state = .checking
      ∧ (port t pn).fault = 0 ∧ (port t pn).ldead = 0 ∧ (port t pn).lfen = 0 ∧ SameBytes s t ∧ t.seqs = s.seqs) ∧
  (∀ s pn l i, (port s pn).state = .checking → unheard s pn i = false →
    (identityFault s pn i = 0 → ∃ t, exec (.portTrainingComplete pn l (some i)) s = .next t ∧ look (port t pn).heard i.lane = some (i.id, i.port)
      ∧ (port t pn).state = (if (port s pn).ldead = 0 ∧ (port s pn).lfen = 0 then .up else .degraded) ∧ SameBytes s t ∧ t.seqs = s.seqs) ∧
    (identityFault s pn i ≠ 0 → ∃ t, exec (.portTrainingComplete pn l (some i)) s = .next t ∧ (port t pn).state = .fenced)) ∧
  (∀ s pn l i, (port s pn).state = .training → (∀ a ∈ l, a.signal = false ∧ a.shorted = false) →
    ∃ t, exec (.portTrainingComplete pn l i) s = .next t ∧ (port t pn).state = .training ∧ (port t pn).fault = 3 ∧ (port t pn).ldead = 3
      ∧ (port t pn).lfen = (port s pn).lfen ∧ (s.err.fatal = false → ∃ r ∈ t.err.log, r.code = 0x0004) ∧ SameBytes s t ∧ t.seqs = s.seqs) ∧
  (∀ s pn l i, (port s pn).state ∉ [.training, .checking] → exec (.portTrainingComplete pn l i) s = .next s) ∧
  (∀ s pn k, (port s pn).state = .degraded → k < 2 → (port s pn).ldead = 2 ^ k → (port s pn).lfen = 0 →
    ∀ (a : LaneSeen),
    (a.shorted = false → a.signal = true → a.locked = true → a.llane = k → ∃ t, exec (.laneRetry pn k a) s = .next t ∧ (port t pn).state = .up
      ∧ (port t pn).ldead = 0 ∧ (port t pn).pol.testBit k = a.inverted ∧ (∀ j, j ≠ pn → port t j = port s j)
      ∧ t = { s with fab := { s.fab with ports := t.fab.ports } }) ∧
    (a.shorted = true → ∃ t, exec (.laneRetry pn k a) s = .next t ∧ (port t pn).state = .degraded ∧ (port t pn).lfen.testBit k = true
      ∧ (port t pn).ldead = 0 ∧ (∀ j, j ≠ pn → port t j = port s j) ∧ (s.err.fatal = false → ∃ r ∈ t.err.log, r.code = 0x0004))) ∧
  (∀ s pn k (a : LaneSeen), a.shorted = false → a.signal = false ∨ a.locked = false → exec (.laneRetry pn k a) s = .next s) ∧
  (∀ s pn, carrying (port s pn) = [0, 1] → exec (.identitySend pn) s
    = .next { s with out := .link pn 1 (linkBlock s pn 0x4B 1 0) :: .link pn 0 (linkBlock s pn 0x4B 0 0) :: s.out }) ∧
  (∀ s pn i, (port s pn).carries = true →
    (identityFault s pn i = 0 → ∃ t, exec (.lctlIdentity pn i) s = .next t ∧ port t pn = { port s pn with heard := put (port s pn).heard i.lane (i.id, i.port) }
      ∧ (∀ k, k ≠ pn → port t k = port s k) ∧ t = { s with fab := { s.fab with ports := t.fab.ports } }) ∧
    (identityFault s pn i ≠ 0 → ∃ t, exec (.lctlIdentity pn i) s = .next t ∧ (port t pn).state = .fenced ∧ (port t pn).fault = identityFault s pn i
      ∧ (s.err.fatal = false → ∃ r ∈ t.err.log, r.code = 0x0004) ∧ ∀ k, k ≠ pn → port t k = port s k)) ∧
  (∀ s pn i, (port s pn).state = .fenced → identityFault s pn i ≠ 0 → ∃ t, exec (.lctlIdentity pn i) s = .next t
    ∧ port t pn = { port s pn with refused := satAdd32 (port s pn).refused 1 } ∧ t = { s with fab := { s.fab with ports := t.fab.ports } }) ∧
  (∀ s pn k, (port s pn).state ∉ [.disabled, .fenced] → k ∉ [0x1E, 0x2D, 0x33, 0x4B] →
    exec (.unknownControlBlock pn k) s = .next (bump (ctrPort pn 4) s))

/-- Lane faults and live retraining (R385, R386, R389, R390). -/
def Obligations.LaneFaults : Prop :=
  (∀ s pn k, (port s pn).state = .up → k < 2 → carrying (port s pn) = [0, 1] →
    (∀ c, c ≠ .shorted → degrades (port s pn) c = true → ∃ t, exec (.laneDegrade pn k c) s = .next t ∧ (port t pn).state = .retraining ∧ (port t pn).outLane = some k
      ∧ (port t pn).retries = 0 ∧ (port t pn).lfen = (port s pn).lfen ∧ t.out = .link pn 1 (linkBlock s pn 0x4B 1 1) :: .link pn 0 (linkBlock s pn 0x4B 0 1) :: s.out
      ∧ (∀ j, j ≠ pn → port t j = port s j) ∧ SameBytes s t ∧ t.seqs = s.seqs) ∧
    ∃ t, exec (.laneDegrade pn k .shorted) s = .next t ∧ (port t pn).state = .degraded ∧ (port t pn).lfen.testBit k = true
      ∧ (port t pn).lfen.testBit (1 - k) = (port s pn).lfen.testBit (1 - k) ∧ (s.err.fatal = false → ∃ r ∈ t.err.log, r.code = 0x0004) ∧ SameBytes s t ∧ t.seqs = s.seqs) ∧
  (∀ s pn k, (port s pn).state = .degraded → carrying (port s pn) = [k] →
    (∀ n, ∃ t, exec (.laneDegrade pn k (.lockLost n)) s = .next t ∧ (port t pn).state = .training ∧ (port t pn).fault = 3 ∧ (port t pn).outLane = none
      ∧ (s.err.fatal = false → ∃ r ∈ t.err.log, r.code = 0x0004) ∧ SameBytes s t ∧ t.seqs = s.seqs) ∧
    ∃ t, exec (.laneDegrade pn k .shorted) s = .next t ∧ (port t pn).state = .training ∧ (port t pn).fault = 3 ∧ (port t pn).lfen.testBit k = true) ∧
  (∀ s pn k c, (port s pn).state = .disabled ∨ (port s pn).state = .fenced → exec (.laneDegrade pn k c) s = .next s) ∧
  (∀ s pn k n, (port s pn).state ≠ .disabled → (port s pn).state ≠ .fenced →
    (n < ucThr (port s pn) → exec (.laneDegrade pn k (.uncorrectable n)) s = .next (bumpBy (ctrPort pn 3) n s)) ∧
    (n ≤ csThr (port s pn) * 1000 → exec (.laneDegrade pn k (.corrected n)) s = .next (bumpBy (ctrPort pn 2) n s))) ∧
  (∀ s pn k, (port s pn).state = .retraining → (port s pn).outLane = some k →
    ((port s pn).retries < 2 → ∃ t, exec (.liveRetrainingComplete pn true) s = .next t ∧ port t pn = { port s pn with retries := 2 }
      ∧ t.out = .link pn k (linkBlock s pn 0x4B k 2) :: s.out ∧ (∀ j, j ≠ pn → port t j = port s j)) ∧
    ((port s pn).retries = 0 → ∃ t, exec (.liveRetrainingComplete pn false) s = .next t ∧ port t pn = { port s pn with retries := 1 }
      ∧ t.out = s.out) ∧
    ((port s pn).retries = 1 → k < 2 → ∃ t, exec (.liveRetrainingComplete pn false) s = .next t ∧ (port t pn).state = .degraded
      ∧ (port t pn).lfen.testBit k = true ∧ (port t pn).outLane = none ∧ (s.err.fatal = false → ∃ r ∈ t.err.log, r.code = 0x0004)) ∧
    ((port s pn).retries = 2 → ∃ t, exec (.lctlLaneInAck pn k) s = .next t ∧ (port t pn).state = .up ∧ (port t pn).outLane = none
      ∧ (∀ j, j ≠ pn → port t j = port s j) ∧ t = { s with fab := { s.fab with ports := t.fab.ports } })) ∧
  (∀ s pn k, (port s pn).carries = true → k < 2 →
    (∃ t, exec (.lctlLaneOut pn k) s = .next t ∧ port t pn = { port (settleCredit pn s) pn with peerOut := some k } ∧ (∀ j, j ≠ pn → port t j = port s j)
      ∧ t = { s with fab := { s.fab with ports := t.fab.ports } }) ∧
    ((port s pn).peerOut = some k → ∃ t, exec (.lctlLaneIn pn k) s = .next t ∧ port t pn = { port (settleCredit pn s) pn with peerOut := none }
      ∧ (∀ j, j ≠ pn → port t j = port s j) ∧ t = { s with fab := { s.fab with ports := t.fab.ports }, out := .link pn k (linkBlock s pn 0x4B k 3) :: s.out }))

/-- Writes of BAR0's registers of each size, and their reading (R11, R14, R605, R645, R646, R654, R669). -/
def Obligations.RegistersWritten : Prop :=
  (∀ s off mask v, s.up = true → PlainReg off mask →
    ∃ t, exec (.registerWrite .pf off 4 v true) s = .next t ∧ readReg t .pf off 4 = (v.truncate 32 &&& mask).toNat
      ∧ (∀ o m, PlainReg o m → o ≠ off → readReg t .pf o 4 = readReg s .pf o 4) ∧ SameBytes s t ∧ t.seqs = s.seqs ∧ t.mbx.cmds = s.mbx.cmds ∧ t.out = s.out) ∧
  (∀ s p v, s.up = true → p < 4 →
    ∃ t, exec (.registerWrite .pf (0x10300 + 8 * p) 8 v true) s = .next t ∧ (port t p).nbr = v &&& 0x03FF000000FFFFFF#64
      ∧ (∀ k, k ≠ p → port t k = port s k) ∧ readReg t .pf (0x10300 + 8 * p) 8 = (v &&& 0x03FF000000FFFFFF#64).toNat
      ∧ t = { s with fab := t.fab, regs := t.regs }) ∧
  (∀ s p v w, s.up = true → p < 4 →
    ∃ t u, exec (.registerWrite .pf (0x10300 + 8 * p) 4 v true) s = .next t ∧ t.fab = s.fab
      ∧ exec (.registerWrite .pf (0x10304 + 8 * p) 4 w true) t = .next u
      ∧ (port u p).nbr = (w.truncate 32 ++ v.truncate 32 : BitVec 64) &&& 0x03FF000000FFFFFF#64 ∧ u = { s with fab := u.fab, regs := u.regs }) ∧
  (∀ s off size v, s.up = true → size ∉ [4, 8] ∨ off % size ≠ 0 → exec (.registerWrite .pf off size v true) s = .next s) ∧
  (∀ s off v, s.up = true → off ∈ [0x3000, 0x3100, 0x5100, 0x13000, 0x60000] → exec (.registerWrite .pf off 4 v true) s = .next s) ∧
  (∀ s view off size v, s.up = true → view ≠ .sb →
    ∃ t, exec (.registerWrite view off size v false) s = .next t ∧ (s.err.fatal = false → ∃ r ∈ t.err.log, r.code = 0x0001) ∧ t.fab = s.fab ∧ t.mem = s.mem
      ∧ t.seqs = s.seqs ∧ t.mbx = s.mbx) ∧
  (∀ s view off size v inTime, s.up = false ∨ view = .sb → exec (.registerWrite view off size v inTime) s = .next s)

/-- Registers that have a row of their own, and the boundaries of shadowed fields (R377, R378, R452, R457, R459, R465, R504, R607, R608, R653). -/
def Obligations.ConfigurationRows : Prop :=
  (∀ s v, s.up = true →
    ∃ t, exec (.fabNodeidWrite v) s = .next t ∧ t.fab.nodeid = v &&& 0x3FFFF#32
      ∧ (∀ p, p < 4 → (port s p).pctl.getLsbD 31 = true → (port s p).state ∉ [.disabled, .fenced] →
          (port t p).state = .training ∧ (port t p).fault = 0 ∧ (port t p).lfen = (port s p).lfen)
      ∧ (∀ p, (port s p).pctl.getLsbD 31 = false ∨ (port s p).state ∈ [.disabled, .fenced] → port t p = port s p) ∧ t.mem = s.mem ∧ t.seqs = s.seqs) ∧
  (∀ s p v, s.up = true → p < 4 →
    ∃ t, exec (.fabNbrWrite p v) s = .next t ∧ port t p = { port s p with nbr := v &&& 0x03FF000000FFFFFF#64 } ∧ (∀ k, k ≠ p → port t k = port s k)
      ∧ t = { s with fab := { s.fab with ports := t.fab.ports } }) ∧
  (∀ s v, s.up = true →
    ∃ t, exec (.schModeWrite v) s = .next t ∧ t.fab.schCtl = v &&& 0x8FFF0F00#32
      ∧ (∀ p, p < 4 → (port t p).queues = [] ∧ (port t p).expedite = [] ∧ (port t p).credit = [] ∧ (port t p).ackq = (port s p).ackq
          ∧ (port t p).state = (port s p).state)
      ∧ t = { s with fab := { s.fab with ports := t.fab.ports, schCtl := t.fab.schCtl } }) ∧
  (∀ s h v, s.up = true → h < 1024 →
    (∃ t, exec (.schPolWrite h v) s = .next t ∧ polOf t h = v &&& 0xFFF8FFFFFFF8FFFF#64 ∧ bucketsNow t h = (cbsOf (polOf t h), pbsOf (polOf t h))
      ∧ (∀ k, k ≠ h → polOf t k = polOf s k ∧ look t.fab.meter k = look s.fab.meter k) ∧ t = { s with fab := { s.fab with pol := t.fab.pol, meter := t.fab.meter } }) ∧
    ∀ b : W32, ∃ t, exec (.schBudWrite h b) s = .next t ∧ budgetOf t h = b.toNat % 0x10000 ∧ look t.fab.budget h = none
      ∧ (∀ k, k ≠ h → budgetOf t k = budgetOf s k ∧ look t.fab.budget k = look s.fab.budget k)
      ∧ t = { s with fab := { s.fab with bud := t.fab.bud, budget := t.fab.budget } }) ∧
  (∀ s v, s.up = true → exec (.cmpEpochWrite v) s = .next { s with cmp := { s.cmp with epoch := v, tchange := [] } }) ∧
  (∀ s k v, s.up = true → k < 4 →
    ∃ t, exec (.flpSpareWrite true k v) s = .next t ∧ t = { s with floor := { s.floor with spareCl := t.floor.spareCl } }
      ∧ ∀ j, j < 64 → (lookD 0 t.floor.spareCl k).getLsbD j
        = (v.getLsbD j && decide (64 * k + j < 208) && codeClus s (64 * k + j) == .good && (extOfClus s (64 * k + j)).isNone)) ∧
  (∀ s k v, s.up = true → k < 12 →
    ∃ t, exec (.flpSpareWrite false k v) s = .next t ∧ t = { s with floor := { s.floor with spareCh := t.floor.spareCh } }
      ∧ ∀ j, j < 64 → (lookD 0 t.floor.spareCh k).getLsbD j = (v.getLsbD j && codeChan s (64 * k + j) == .good && (extOfChan s (64 * k + j)).isNone)) ∧
  (∀ s i, s.up = false → i ∈ [Instr.fabNodeidWrite 1, .fabNbrWrite 0 1, .schModeWrite 1, .schPolWrite 0 1, .schBudWrite 0 1, .cmpEpochWrite 1,
      .flpSpareWrite true 0 1, .flpSpareWrite false 0 1] → exec i s = .next s) ∧
  (∀ s, exec (.rwqShadowApply .lulShift) s = .next { s with att := { s.att with lulShift := fld s.att.lulCtl 20 16 } }
    ∧ exec (.rwqShadowApply .stkThresholds) s = .next (if s.mem.samplesInWindow = 0 then { s with mem := { s.mem with ictlNow := s.mem.ictl } } else s)) ∧
  (∀ s p, p < 4 → ∃ t, exec (.rwqShadowApply (.schQmax p)) s = .next t ∧ port t p = { port s p with qmax := qmaxOf s.fab.schCtl }
    ∧ (∀ k, k ≠ p → port t k = port s k) ∧ t = { s with fab := { s.fab with ports := t.fab.ports } }) ∧
  (∀ s h, h < 1024 → (∀ p, p < 4 → lookD 0 (port s p).subDef h = 0) →
    ∃ t, exec (.rwqShadowApply (.schSub h)) s = .next t ∧ subNow t h = subSet s h ∧ (∀ k, k ≠ h → subNow t k = subNow s k)
      ∧ t = { s with fab := { s.fab with subNow := t.fab.subNow } }) ∧
  (∀ s h p, h < 1024 → p < 4 → lookD 0 (port s p).subDef h ≠ 0 → exec (.rwqShadowApply (.schSub h)) s = .next s) ∧
  (∀ s n, n < 64 → (∀ p, p < 4 → lookD 0 (port s p).tdDef n = 0) →
    ∃ t, exec (.rwqShadowApply (.schTdw n)) s = .next t ∧ lookD 1#32 t.fab.tdwNow n = lookD 1#32 s.fab.tdw n
      ∧ (∀ k, k ≠ n → lookD 1#32 t.fab.tdwNow k = lookD 1#32 s.fab.tdwNow k) ∧ t = { s with fab := { s.fab with tdwNow := t.fab.tdwNow } })

/-- Status registers acknowledged with the SEQ read, each view for itself; the time and the counters' snapshots (R649 to R651, R656 to R661). -/
def Obligations.StatusAndTime : Prop :=
  (∀ s v, s.up = true →
    ∃ t, exec (.statusAck .pf 0 v) s = .next t ∧ SeqAfter s.boot.seq.pf (v.toNat / 2 ^ 16) t.boot.seq.pf ∧ t.boot.seq.alt = s.boot.seq.alt
      ∧ t = { s with boot := { s.boot with seq := t.boot.seq } }) ∧
  (∀ s v, s.up = true →
    ∃ t, exec (.statusAck .pf 0x4000 v) s = .next t ∧ SeqAfter s.err.seq.pf (v.toNat / 2 ^ 16) t.err.seq.pf ∧ t.err.seq.alt = s.err.seq.alt
      ∧ t = { s with err := { s.err with seq := t.err.seq } }) ∧
  (∀ s v td, s.up = true → td < 64 →
    (∃ t, exec (.statusAck .pf (0x5000 + 4 * td) v) s = .next t ∧ SeqAfter (dom s td).tdstSeq.pf (v.toNat / 2 ^ 16) (dom t td).tdstSeq.pf
      ∧ dom t td = { dom s td with tdstSeq := { (dom s td).tdstSeq with pf := (dom t td).tdstSeq.pf } } ∧ (∀ k, k ≠ td → dom t k = dom s k) ∧ t = { s with doms := t.doms }) ∧
    ∃ t, exec (.statusAck (.vf td) 0x20100 v) s = .next t ∧ SeqAfter (dom s td).tdstSeq.alt (v.toNat / 2 ^ 16) (dom t td).tdstSeq.alt
      ∧ dom t td = { dom s td with tdstSeq := { (dom s td).tdstSeq with alt := (dom t td).tdstSeq.alt } } ∧ (∀ k, k ≠ td → dom t k = dom s k) ∧ t = { s with doms := t.doms }) ∧
  (∀ s v p, s.up = true → p < 4 →
    ∃ t, exec (.statusAck .pf (0x10200 + 4 * p) v) s = .next t ∧ SeqAfter (port s p).seq.pf (v.toNat / 2 ^ 16) (port t p).seq.pf
      ∧ port t p = { port s p with seq := { (port s p).seq with pf := (port t p).seq.pf } } ∧ (∀ k, k ≠ p → port t k = port s k) ∧ t = { s with fab := t.fab }) ∧
  (∀ s v td, s.up = true → td < 64 →
    ∃ t, exec (.statusAck (.vf td) 0x200C v) s = .next t ∧ SeqAfter (chan s (8 + td)).evtSeq (v.toNat / 2 ^ 16) (chan t (8 + td)).evtSeq
      ∧ (v.toNat / 2 ^ 16 = (chan s (8 + td)).evtSeq → (chan s (8 + td)).evtSeq ≤ 0xFFFF →
          (chan t (8 + td)).evt = (chan s (8 + td)).evt &&& ~~~(v &&& 0xFFFF#32))
      ∧ (v.toNat / 2 ^ 16 ≠ min (chan s (8 + td)).evtSeq 0xFFFF → chan t (8 + td) = chan s (8 + td)) ∧ (∀ k, k ≠ 8 + td → chan t k = chan s k) ∧ t = { s with mbx := t.mbx }) ∧
  (∀ s view, s.up = true → view ≠ .sb →
    ∃ t, exec (.timNowRead ⟨view, true, timNowOff view, 4⟩) s = .next t ∧ t.out = .data (leBytes s.now 4) :: s.out ∧ look t.regs.latch (viewNum view) = some (s.now / 2 ^ 32)
      ∧ (∀ k, k ≠ viewNum view → look t.regs.latch k = look s.regs.latch k) ∧ t = { s with out := t.out, regs := { s.regs with latch := t.regs.latch } }) ∧
  (∀ s view off size, s.up = true → view ≠ .sb → ¬(off = timNowOff view ∧ size = 4) →
    exec (.timNowRead ⟨view, true, off, size⟩) s = .next { s with out := .data (leBytes (readReg s view off size) size) :: s.out }) ∧
  (∀ s view off size, s.up = true → view ≠ .sb →
    ∃ t, exec (.timNowRead ⟨view, false, off, size⟩) s = .next t ∧ t.out = .data (leBytes (2 ^ (8 * size) - 1) size) :: s.out ∧ t.regs.latch = s.regs.latch
      ∧ (s.err.fatal = false → ∃ r ∈ t.err.log, r.code = 0x0001) ∧ SameBytes s t ∧ t.seqs = s.seqs) ∧
  (∀ s view, s.up = true → view ≠ .sb → (snapOf s (viewNum view)).busy = false →
    ∃ t, exec (.timSnapGo view) s = .next t
      ∧ snapOf t (viewNum view) = { snapOf s (viewNum view) with busy := true, captured := snapScope s (viewNum view), capturedT := s.now }
      ∧ (∀ k, k ≠ viewNum view → snapOf t k = snapOf s k) ∧ t = { s with regs := { s.regs with snaps := t.regs.snaps } }) ∧
  (∀ s view, (snapOf s (viewNum view)).busy = true → exec (.timSnapGo view) s = .next s) ∧
  (∀ s view, (snapOf s (viewNum view)).busy = true →
    ∃ t p, exec (.snapshotComplete view) s = .next t ∧ snapOf t (viewNum view) = p ∧ p.seq = ((snapOf s (viewNum view)).seq + 1) % 2 ^ 16 ∧ p.busy = false
      ∧ p.holding = (snapOf s (viewNum view)).captured ∧ p.t = (snapOf s (viewNum view)).capturedT
      ∧ (∀ k, k ≠ viewNum view → snapOf t k = snapOf s k) ∧ t = { s with regs := { s.regs with snaps := t.regs.snaps } })

/-- The sideband's transfers (R669, R687 to R692). -/
def Obligations.SidebandTransfers : Prop :=
  (∀ s off len bs pec, sbServed s = false → exec (.sbRead off len pec) s = .next s ∧ exec (.sbWrite off bs pec) s = .next s) ∧
  (∀ s off len pec, sbServed s = true → sbForm s off len pec = false →
    exec (.sbRead off len pec) s = .next (if s.i3c then s else { s with out := .sbNack :: s.out })) ∧
  (∀ s off bs pec, sbServed s = true → sbForm s off bs.length pec = false →
    exec (.sbWrite off bs pec) s = .next (if s.i3c then s else { s with out := .sbNack :: s.out })) ∧
  (∀ s pec, sbServed s = true → s.i3c = true →
    exec (.sbRead 0x3000 8 pec) s = .next { s with out := .data (leBytes (bootStat s.boot false) 4 ++ leBytes (errStat s.err false) 4) :: s.out } ∧
    exec (.sbRead 0x3008 8 pec) s = .next { s with out := .data (leBytes (s.now % 2 ^ 32) 4 ++ leBytes (s.now / 2 ^ 32) 4) :: s.out }) ∧
  (∀ s bs pec, sbServed s = true → sbForm s 0 bs.length pec = true → bs.length ≤ 4096 → (chan s 72).db.getLsbD 0 = false →
    ∃ t, exec (.sbWrite 0 bs pec) s = .next t ∧ (∀ k, k < bs.length → lookD 0 (chan t 72).reqBuf k = bs.getD k 0)
      ∧ (∀ k, bs.length ≤ k → lookD 0 (chan t 72).reqBuf k = lookD 0 (chan s 72).reqBuf k) ∧ (∀ c, c ≠ 72 → chan t c = chan s c)
      ∧ t = { s with mbx := { s.mbx with chans := t.mbx.chans } }) ∧
  (∀ s bs pec, sbServed s = true → sbForm s 0 bs.length pec = true → bs.length ≤ 4096 → (chan s 72).db.getLsbD 0 = true →
    ∃ t, exec (.sbWrite 0 bs pec) s = .next t ∧ (chan t 72).reqBuf = (chan s 72).reqBuf ∧ (chan t 72).evt.getLsbD 2 = true
      ∧ (chan t 72).db = (chan s 72).db ∧ (∀ c, c ≠ 72 → chan t c = chan s c) ∧ SameBytes s t ∧ t.seqs = s.seqs) ∧
  (∀ s bs, sbServed s = true → s.i3c = true → bs.length = 4 →
    ∃ t, exec (.sbWrite 0x2018 bs true) s = .next t ∧ chan t 72 = { chan s 72 with atag := BitVec.ofNat 32 (le bs 0 4) }
      ∧ t = { s with mbx := { s.mbx with chans := t.mbx.chans } }) ∧
  (∀ s, exec .sbBusRelease s = .next { s with side := { s.side with heldSince := none, inTransfer := false } }) ∧
  (∀ s, sbServed s = true → s.i3c = false → s.side.alert = true →
    exec .alertResponseAddress s = .next { s with side := { s.side with alert := false }, out := .data [BitVec.ofNat 8 (2 * staticAddr s)] :: s.out }) ∧
  (∀ s, s.side.alert = false → exec .alertResponseAddress s = .next s) ∧
  (∀ s, s.side.alert = true → s.side.alertAt + 1000000 ≤ s.clk → exec .smbalertTimeout s = .next { s with side := { s.side with alert := false } }) ∧
  (∀ s, s.clk < s.side.alertAt + 1000000 → exec .smbalertTimeout s = .next s)

/-- Common command codes of the bus and the TAP's instructions (R676, R687, R693, R694). -/
def Obligations.BusAndTap : Prop :=
  (∀ s i, i ∈ [Instr.setdasa 0x58 8, .entdaa 8, .rstdaa, .enec 1, .disec 1, .getpid, .getbcr, .getdcr, .getstatus, .getmwl, .getmrl] →
    sbServed s = false ∨ s.i3c = false → exec i s = .next s) ∧
  (∀ s a b, sbServed s = true → s.i3c = true → s.side.dynAddr = none →
    exec (.setdasa a b) s = .next (if a = staticAddr s then { s with side := { s.side with dynAddr := some b } } else s) ∧
    exec (.entdaa b) s = .next { s with side := { s.side with dynAddr := some b } }) ∧
  (∀ s a b c, s.side.dynAddr = some c → exec (.setdasa a b) s = .next s ∧ exec (.entdaa b) s = .next s) ∧
  (∀ s v, sbServed s = true → s.i3c = true →
    exec .rstdaa s = .next { s with side := { s.side with dynAddr := none } } ∧
    (∃ t, exec (.enec v) s = .next t ∧ (∀ k, k < 8 → t.side.events.testBit k = (s.side.events.testBit k || v.testBit k))
      ∧ t = { s with side := { s.side with events := t.side.events } }) ∧
    ∃ t, exec (.disec v) s = .next t ∧ (∀ k, t.side.events.testBit k = (s.side.events.testBit k && !v.testBit k))
      ∧ t = { s with side := { s.side with events := t.side.events } }) ∧
  (∀ s i n, sbServed s = true → s.i3c = true → (i, n) ∈ [(Instr.getpid, 6), (.getbcr, 1), (.getdcr, 1), (.getstatus, 2)] →
    ∃ bs, exec i s = .next { s with out := .data bs :: s.out } ∧ bs.length = n) ∧
  (∀ s i, sbServed s = true → s.i3c = true → i ∈ [Instr.getmwl, .getmrl] → exec i s = .next { s with out := .data [0x10, 0x00] :: s.out }) ∧
  (∀ s, s.pwr.powered = true →
    exec .bypass s = .next { s with out := .tap s.side.capture 0 :: s.out, side := { s.side with tapInstr := 0, capture := 1 } } ∧
    (∃ w, exec .idcode s = .next { s with out := .tap s.side.capture w :: s.out, side := { s.side with tapInstr := 1, capture := 1 } }
      ∧ w % 2 = 1 ∧ w / 2 ^ 12 = 0x12448) ∧
    ∃ w, exec .samplePreload s
      = .next { s with free := s.free + 1, out := .tap s.side.capture w :: s.out, side := { s.side with tapInstr := 2, capture := 1 } }) ∧
  (∀ s i n, s.pwr.powered = true → (i, n) ∈ [(Instr.extest, 3), (.clamp, 4), (.highz, 5), (.extestPulse, 6), (.extestTrain, 7)] →
    (s.boot.phase = .released →
      exec i s = .next { s with out := .tap s.side.capture 0 :: s.out, side := { s.side with tapInstr := 0, capture := 5 } }) ∧
    (s.boot.phase ≠ .released →
      ∃ t w, exec i s = .next t ∧ t.side = { s.side with tapInstr := n, capture := 1, boundary := true } ∧ t.boot = { s.boot with running := false }
        ∧ t.out = .tap s.side.capture w :: s.out ∧ t.mem = s.mem ∧ t.seqs = s.seqs)) ∧
  (∀ s i, s.pwr.powered = false → i ∈ [Instr.bypass, .idcode, .samplePreload, .extest, .clamp, .highz, .extestPulse, .extestTrain] →
    ∃ t, exec i s = .next t ∧ t.side = s.side ∧ t.boot = s.boot ∧ t.out = s.out ∧ t.mem = s.mem ∧ t.seqs = s.seqs)
end

