-- ==== Sys2Proof/Laws/State.lean ====
section
/-! SUPPORT. One lemma per field per update of State, true by rfl: no proof need unfold a record update. -/

namespace Sys2Proof.Machine

@[simp] theorem emit_pending (o : Out) (s : State) : (emit o s).pending = s.pending := rfl
@[simp] theorem emit_free (o : Out) (s : State) : (emit o s).free = s.free := rfl
@[simp] theorem emit_draws (o : Out) (s : State) : (emit o s).draws = s.draws := rfl
@[simp] theorem emit_out (o : Out) (s : State) : (emit o s).out = o :: s.out := rfl
@[simp] theorem emit_clk (o : Out) (s : State) : (emit o s).clk = s.clk := rfl
@[simp] theorem emit_now (o : Out) (s : State) : (emit o s).now = s.now := rfl
@[simp] theorem emit_pwr (o : Out) (s : State) : (emit o s).pwr = s.pwr := rfl
@[simp] theorem emit_boot (o : Out) (s : State) : (emit o s).boot = s.boot := rfl
@[simp] theorem emit_floor (o : Out) (s : State) : (emit o s).floor = s.floor := rfl
@[simp] theorem emit_seqs (o : Out) (s : State) : (emit o s).seqs = s.seqs := rfl
@[simp] theorem emit_freeDesc (o : Out) (s : State) : (emit o s).freeDesc = s.freeDesc := rfl
@[simp] theorem emit_keyHist (o : Out) (s : State) : (emit o s).keyHist = s.keyHist := rfl
@[simp] theorem emit_unusable (o : Out) (s : State) : (emit o s).unusable = s.unusable := rfl
@[simp] theorem emit_doms (o : Out) (s : State) : (emit o s).doms = s.doms := rfl
@[simp] theorem emit_mbx (o : Out) (s : State) : (emit o s).mbx = s.mbx := rfl
@[simp] theorem emit_net (o : Out) (s : State) : (emit o s).net = s.net := rfl
@[simp] theorem emit_fab (o : Out) (s : State) : (emit o s).fab = s.fab := rfl
@[simp] theorem emit_att (o : Out) (s : State) : (emit o s).att = s.att := rfl
@[simp] theorem emit_mem (o : Out) (s : State) : (emit o s).mem = s.mem := rfl
@[simp] theorem emit_pfx (o : Out) (s : State) : (emit o s).pfx = s.pfx := rfl
@[simp] theorem emit_cmp (o : Out) (s : State) : (emit o s).cmp = s.cmp := rfl
@[simp] theorem emit_sec (o : Out) (s : State) : (emit o s).sec = s.sec := rfl
@[simp] theorem emit_err (o : Out) (s : State) : (emit o s).err = s.err := rfl
@[simp] theorem emit_regs (o : Out) (s : State) : (emit o s).regs = s.regs := rfl
@[simp] theorem emit_side (o : Out) (s : State) : (emit o s).side = s.side := rfl

@[simp] theorem bumpBy_pending (off n : Nat) (s : State) : (bumpBy off n s).pending = s.pending := rfl
@[simp] theorem bumpBy_free (off n : Nat) (s : State) : (bumpBy off n s).free = s.free := rfl
@[simp] theorem bumpBy_draws (off n : Nat) (s : State) : (bumpBy off n s).draws = s.draws := rfl
@[simp] theorem bumpBy_out (off n : Nat) (s : State) : (bumpBy off n s).out = s.out := rfl
@[simp] theorem bumpBy_clk (off n : Nat) (s : State) : (bumpBy off n s).clk = s.clk := rfl
@[simp] theorem bumpBy_now (off n : Nat) (s : State) : (bumpBy off n s).now = s.now := rfl
@[simp] theorem bumpBy_pwr (off n : Nat) (s : State) : (bumpBy off n s).pwr = s.pwr := rfl
@[simp] theorem bumpBy_boot (off n : Nat) (s : State) : (bumpBy off n s).boot = s.boot := rfl
@[simp] theorem bumpBy_floor (off n : Nat) (s : State) : (bumpBy off n s).floor = s.floor := rfl
@[simp] theorem bumpBy_seqs (off n : Nat) (s : State) : (bumpBy off n s).seqs = s.seqs := rfl
@[simp] theorem bumpBy_freeDesc (off n : Nat) (s : State) : (bumpBy off n s).freeDesc = s.freeDesc := rfl
@[simp] theorem bumpBy_keyHist (off n : Nat) (s : State) : (bumpBy off n s).keyHist = s.keyHist := rfl
@[simp] theorem bumpBy_unusable (off n : Nat) (s : State) : (bumpBy off n s).unusable = s.unusable := rfl
@[simp] theorem bumpBy_doms (off n : Nat) (s : State) : (bumpBy off n s).doms = s.doms := rfl
@[simp] theorem bumpBy_mbx (off n : Nat) (s : State) : (bumpBy off n s).mbx = s.mbx := rfl
@[simp] theorem bumpBy_net (off n : Nat) (s : State) : (bumpBy off n s).net = s.net := rfl
@[simp] theorem bumpBy_fab (off n : Nat) (s : State) : (bumpBy off n s).fab = s.fab := rfl
@[simp] theorem bumpBy_att (off n : Nat) (s : State) : (bumpBy off n s).att = s.att := rfl
@[simp] theorem bumpBy_mem (off n : Nat) (s : State) : (bumpBy off n s).mem = s.mem := rfl
@[simp] theorem bumpBy_pfx (off n : Nat) (s : State) : (bumpBy off n s).pfx = s.pfx := rfl
@[simp] theorem bumpBy_cmp (off n : Nat) (s : State) : (bumpBy off n s).cmp = s.cmp := rfl
@[simp] theorem bumpBy_sec (off n : Nat) (s : State) : (bumpBy off n s).sec = s.sec := rfl
@[simp] theorem bumpBy_err (off n : Nat) (s : State) : (bumpBy off n s).err = s.err := rfl
@[simp] theorem bumpBy_side (off n : Nat) (s : State) : (bumpBy off n s).side = s.side := rfl

@[simp] theorem bump_pending (off : Nat) (s : State) : (bump off s).pending = s.pending := rfl
@[simp] theorem bump_free (off : Nat) (s : State) : (bump off s).free = s.free := rfl
@[simp] theorem bump_draws (off : Nat) (s : State) : (bump off s).draws = s.draws := rfl
@[simp] theorem bump_out (off : Nat) (s : State) : (bump off s).out = s.out := rfl
@[simp] theorem bump_clk (off : Nat) (s : State) : (bump off s).clk = s.clk := rfl
@[simp] theorem bump_now (off : Nat) (s : State) : (bump off s).now = s.now := rfl
@[simp] theorem bump_pwr (off : Nat) (s : State) : (bump off s).pwr = s.pwr := rfl
@[simp] theorem bump_boot (off : Nat) (s : State) : (bump off s).boot = s.boot := rfl
@[simp] theorem bump_floor (off : Nat) (s : State) : (bump off s).floor = s.floor := rfl
@[simp] theorem bump_seqs (off : Nat) (s : State) : (bump off s).seqs = s.seqs := rfl
@[simp] theorem bump_freeDesc (off : Nat) (s : State) : (bump off s).freeDesc = s.freeDesc := rfl
@[simp] theorem bump_keyHist (off : Nat) (s : State) : (bump off s).keyHist = s.keyHist := rfl
@[simp] theorem bump_unusable (off : Nat) (s : State) : (bump off s).unusable = s.unusable := rfl
@[simp] theorem bump_doms (off : Nat) (s : State) : (bump off s).doms = s.doms := rfl
@[simp] theorem bump_mbx (off : Nat) (s : State) : (bump off s).mbx = s.mbx := rfl
@[simp] theorem bump_net (off : Nat) (s : State) : (bump off s).net = s.net := rfl
@[simp] theorem bump_fab (off : Nat) (s : State) : (bump off s).fab = s.fab := rfl
@[simp] theorem bump_att (off : Nat) (s : State) : (bump off s).att = s.att := rfl
@[simp] theorem bump_mem (off : Nat) (s : State) : (bump off s).mem = s.mem := rfl
@[simp] theorem bump_pfx (off : Nat) (s : State) : (bump off s).pfx = s.pfx := rfl
@[simp] theorem bump_cmp (off : Nat) (s : State) : (bump off s).cmp = s.cmp := rfl
@[simp] theorem bump_sec (off : Nat) (s : State) : (bump off s).sec = s.sec := rfl
@[simp] theorem bump_err (off : Nat) (s : State) : (bump off s).err = s.err := rfl
@[simp] theorem bump_side (off : Nat) (s : State) : (bump off s).side = s.side := rfl

@[simp] theorem setDom_pending (td : Nat) (d : Dom) (s : State) : (setDom td d s).pending = s.pending := rfl
@[simp] theorem setDom_free (td : Nat) (d : Dom) (s : State) : (setDom td d s).free = s.free := rfl
@[simp] theorem setDom_draws (td : Nat) (d : Dom) (s : State) : (setDom td d s).draws = s.draws := rfl
@[simp] theorem setDom_out (td : Nat) (d : Dom) (s : State) : (setDom td d s).out = s.out := rfl
@[simp] theorem setDom_clk (td : Nat) (d : Dom) (s : State) : (setDom td d s).clk = s.clk := rfl
@[simp] theorem setDom_now (td : Nat) (d : Dom) (s : State) : (setDom td d s).now = s.now := rfl
@[simp] theorem setDom_pwr (td : Nat) (d : Dom) (s : State) : (setDom td d s).pwr = s.pwr := rfl
@[simp] theorem setDom_boot (td : Nat) (d : Dom) (s : State) : (setDom td d s).boot = s.boot := rfl
@[simp] theorem setDom_floor (td : Nat) (d : Dom) (s : State) : (setDom td d s).floor = s.floor := rfl
@[simp] theorem setDom_seqs (td : Nat) (d : Dom) (s : State) : (setDom td d s).seqs = s.seqs := rfl
@[simp] theorem setDom_freeDesc (td : Nat) (d : Dom) (s : State) : (setDom td d s).freeDesc = s.freeDesc := rfl
@[simp] theorem setDom_keyHist (td : Nat) (d : Dom) (s : State) : (setDom td d s).keyHist = s.keyHist := rfl
@[simp] theorem setDom_unusable (td : Nat) (d : Dom) (s : State) : (setDom td d s).unusable = s.unusable := rfl
@[simp] theorem setDom_doms (td : Nat) (d : Dom) (s : State) : (setDom td d s).doms = putD Dom.reset s.doms td d := rfl
@[simp] theorem setDom_mbx (td : Nat) (d : Dom) (s : State) : (setDom td d s).mbx = s.mbx := rfl
@[simp] theorem setDom_net (td : Nat) (d : Dom) (s : State) : (setDom td d s).net = s.net := rfl
@[simp] theorem setDom_fab (td : Nat) (d : Dom) (s : State) : (setDom td d s).fab = s.fab := rfl
@[simp] theorem setDom_att (td : Nat) (d : Dom) (s : State) : (setDom td d s).att = s.att := rfl
@[simp] theorem setDom_mem (td : Nat) (d : Dom) (s : State) : (setDom td d s).mem = s.mem := rfl
@[simp] theorem setDom_pfx (td : Nat) (d : Dom) (s : State) : (setDom td d s).pfx = s.pfx := rfl
@[simp] theorem setDom_cmp (td : Nat) (d : Dom) (s : State) : (setDom td d s).cmp = s.cmp := rfl
@[simp] theorem setDom_sec (td : Nat) (d : Dom) (s : State) : (setDom td d s).sec = s.sec := rfl
@[simp] theorem setDom_err (td : Nat) (d : Dom) (s : State) : (setDom td d s).err = s.err := rfl
@[simp] theorem setDom_regs (td : Nat) (d : Dom) (s : State) : (setDom td d s).regs = s.regs := rfl
@[simp] theorem setDom_side (td : Nat) (d : Dom) (s : State) : (setDom td d s).side = s.side := rfl

@[simp] theorem updDom_pending (td : Nat) (f : Dom → Dom) (s : State) : (updDom td f s).pending = s.pending := rfl
@[simp] theorem updDom_free (td : Nat) (f : Dom → Dom) (s : State) : (updDom td f s).free = s.free := rfl
@[simp] theorem updDom_draws (td : Nat) (f : Dom → Dom) (s : State) : (updDom td f s).draws = s.draws := rfl
@[simp] theorem updDom_out (td : Nat) (f : Dom → Dom) (s : State) : (updDom td f s).out = s.out := rfl
@[simp] theorem updDom_clk (td : Nat) (f : Dom → Dom) (s : State) : (updDom td f s).clk = s.clk := rfl
@[simp] theorem updDom_now (td : Nat) (f : Dom → Dom) (s : State) : (updDom td f s).now = s.now := rfl
@[simp] theorem updDom_pwr (td : Nat) (f : Dom → Dom) (s : State) : (updDom td f s).pwr = s.pwr := rfl
@[simp] theorem updDom_boot (td : Nat) (f : Dom → Dom) (s : State) : (updDom td f s).boot = s.boot := rfl
@[simp] theorem updDom_floor (td : Nat) (f : Dom → Dom) (s : State) : (updDom td f s).floor = s.floor := rfl
@[simp] theorem updDom_seqs (td : Nat) (f : Dom → Dom) (s : State) : (updDom td f s).seqs = s.seqs := rfl
@[simp] theorem updDom_freeDesc (td : Nat) (f : Dom → Dom) (s : State) : (updDom td f s).freeDesc = s.freeDesc := rfl
@[simp] theorem updDom_keyHist (td : Nat) (f : Dom → Dom) (s : State) : (updDom td f s).keyHist = s.keyHist := rfl
@[simp] theorem updDom_unusable (td : Nat) (f : Dom → Dom) (s : State) : (updDom td f s).unusable = s.unusable := rfl
@[simp] theorem updDom_doms (td : Nat) (f : Dom → Dom) (s : State) : (updDom td f s).doms = putD Dom.reset s.doms td (f (dom s td)) := rfl
@[simp] theorem updDom_mbx (td : Nat) (f : Dom → Dom) (s : State) : (updDom td f s).mbx = s.mbx := rfl
@[simp] theorem updDom_net (td : Nat) (f : Dom → Dom) (s : State) : (updDom td f s).net = s.net := rfl
@[simp] theorem updDom_fab (td : Nat) (f : Dom → Dom) (s : State) : (updDom td f s).fab = s.fab := rfl
@[simp] theorem updDom_att (td : Nat) (f : Dom → Dom) (s : State) : (updDom td f s).att = s.att := rfl
@[simp] theorem updDom_mem (td : Nat) (f : Dom → Dom) (s : State) : (updDom td f s).mem = s.mem := rfl
@[simp] theorem updDom_pfx (td : Nat) (f : Dom → Dom) (s : State) : (updDom td f s).pfx = s.pfx := rfl
@[simp] theorem updDom_cmp (td : Nat) (f : Dom → Dom) (s : State) : (updDom td f s).cmp = s.cmp := rfl
@[simp] theorem updDom_sec (td : Nat) (f : Dom → Dom) (s : State) : (updDom td f s).sec = s.sec := rfl
@[simp] theorem updDom_err (td : Nat) (f : Dom → Dom) (s : State) : (updDom td f s).err = s.err := rfl
@[simp] theorem updDom_regs (td : Nat) (f : Dom → Dom) (s : State) : (updDom td f s).regs = s.regs := rfl
@[simp] theorem updDom_side (td : Nat) (f : Dom → Dom) (s : State) : (updDom td f s).side = s.side := rfl

@[simp] theorem setChan_pending (c : Nat) (x : Chan) (s : State) : (setChan c x s).pending = s.pending := rfl
@[simp] theorem setChan_free (c : Nat) (x : Chan) (s : State) : (setChan c x s).free = s.free := rfl
@[simp] theorem setChan_draws (c : Nat) (x : Chan) (s : State) : (setChan c x s).draws = s.draws := rfl
@[simp] theorem setChan_out (c : Nat) (x : Chan) (s : State) : (setChan c x s).out = s.out := rfl
@[simp] theorem setChan_clk (c : Nat) (x : Chan) (s : State) : (setChan c x s).clk = s.clk := rfl
@[simp] theorem setChan_now (c : Nat) (x : Chan) (s : State) : (setChan c x s).now = s.now := rfl
@[simp] theorem setChan_pwr (c : Nat) (x : Chan) (s : State) : (setChan c x s).pwr = s.pwr := rfl
@[simp] theorem setChan_boot (c : Nat) (x : Chan) (s : State) : (setChan c x s).boot = s.boot := rfl
@[simp] theorem setChan_floor (c : Nat) (x : Chan) (s : State) : (setChan c x s).floor = s.floor := rfl
@[simp] theorem setChan_seqs (c : Nat) (x : Chan) (s : State) : (setChan c x s).seqs = s.seqs := rfl
@[simp] theorem setChan_freeDesc (c : Nat) (x : Chan) (s : State) : (setChan c x s).freeDesc = s.freeDesc := rfl
@[simp] theorem setChan_keyHist (c : Nat) (x : Chan) (s : State) : (setChan c x s).keyHist = s.keyHist := rfl
@[simp] theorem setChan_unusable (c : Nat) (x : Chan) (s : State) : (setChan c x s).unusable = s.unusable := rfl
@[simp] theorem setChan_doms (c : Nat) (x : Chan) (s : State) : (setChan c x s).doms = s.doms := rfl
@[simp] theorem setChan_mbx (c : Nat) (x : Chan) (s : State) : (setChan c x s).mbx = { s.mbx with chans := putD Chan.reset s.mbx.chans c x } := rfl
@[simp] theorem setChan_net (c : Nat) (x : Chan) (s : State) : (setChan c x s).net = s.net := rfl
@[simp] theorem setChan_fab (c : Nat) (x : Chan) (s : State) : (setChan c x s).fab = s.fab := rfl
@[simp] theorem setChan_att (c : Nat) (x : Chan) (s : State) : (setChan c x s).att = s.att := rfl
@[simp] theorem setChan_mem (c : Nat) (x : Chan) (s : State) : (setChan c x s).mem = s.mem := rfl
@[simp] theorem setChan_pfx (c : Nat) (x : Chan) (s : State) : (setChan c x s).pfx = s.pfx := rfl
@[simp] theorem setChan_cmp (c : Nat) (x : Chan) (s : State) : (setChan c x s).cmp = s.cmp := rfl
@[simp] theorem setChan_sec (c : Nat) (x : Chan) (s : State) : (setChan c x s).sec = s.sec := rfl
@[simp] theorem setChan_err (c : Nat) (x : Chan) (s : State) : (setChan c x s).err = s.err := rfl
@[simp] theorem setChan_regs (c : Nat) (x : Chan) (s : State) : (setChan c x s).regs = s.regs := rfl
@[simp] theorem setChan_side (c : Nat) (x : Chan) (s : State) : (setChan c x s).side = s.side := rfl

@[simp] theorem updChan_pending (c : Nat) (f : Chan → Chan) (s : State) : (updChan c f s).pending = s.pending := rfl
@[simp] theorem updChan_free (c : Nat) (f : Chan → Chan) (s : State) : (updChan c f s).free = s.free := rfl
@[simp] theorem updChan_draws (c : Nat) (f : Chan → Chan) (s : State) : (updChan c f s).draws = s.draws := rfl
@[simp] theorem updChan_out (c : Nat) (f : Chan → Chan) (s : State) : (updChan c f s).out = s.out := rfl
@[simp] theorem updChan_clk (c : Nat) (f : Chan → Chan) (s : State) : (updChan c f s).clk = s.clk := rfl
@[simp] theorem updChan_now (c : Nat) (f : Chan → Chan) (s : State) : (updChan c f s).now = s.now := rfl
@[simp] theorem updChan_pwr (c : Nat) (f : Chan → Chan) (s : State) : (updChan c f s).pwr = s.pwr := rfl
@[simp] theorem updChan_boot (c : Nat) (f : Chan → Chan) (s : State) : (updChan c f s).boot = s.boot := rfl
@[simp] theorem updChan_floor (c : Nat) (f : Chan → Chan) (s : State) : (updChan c f s).floor = s.floor := rfl
@[simp] theorem updChan_seqs (c : Nat) (f : Chan → Chan) (s : State) : (updChan c f s).seqs = s.seqs := rfl
@[simp] theorem updChan_freeDesc (c : Nat) (f : Chan → Chan) (s : State) : (updChan c f s).freeDesc = s.freeDesc := rfl
@[simp] theorem updChan_keyHist (c : Nat) (f : Chan → Chan) (s : State) : (updChan c f s).keyHist = s.keyHist := rfl
@[simp] theorem updChan_unusable (c : Nat) (f : Chan → Chan) (s : State) : (updChan c f s).unusable = s.unusable := rfl
@[simp] theorem updChan_doms (c : Nat) (f : Chan → Chan) (s : State) : (updChan c f s).doms = s.doms := rfl
@[simp] theorem updChan_mbx (c : Nat) (f : Chan → Chan) (s : State) : (updChan c f s).mbx = { s.mbx with chans := putD Chan.reset s.mbx.chans c (f (chan s c)) } := rfl
@[simp] theorem updChan_net (c : Nat) (f : Chan → Chan) (s : State) : (updChan c f s).net = s.net := rfl
@[simp] theorem updChan_fab (c : Nat) (f : Chan → Chan) (s : State) : (updChan c f s).fab = s.fab := rfl
@[simp] theorem updChan_att (c : Nat) (f : Chan → Chan) (s : State) : (updChan c f s).att = s.att := rfl
@[simp] theorem updChan_mem (c : Nat) (f : Chan → Chan) (s : State) : (updChan c f s).mem = s.mem := rfl
@[simp] theorem updChan_pfx (c : Nat) (f : Chan → Chan) (s : State) : (updChan c f s).pfx = s.pfx := rfl
@[simp] theorem updChan_cmp (c : Nat) (f : Chan → Chan) (s : State) : (updChan c f s).cmp = s.cmp := rfl
@[simp] theorem updChan_sec (c : Nat) (f : Chan → Chan) (s : State) : (updChan c f s).sec = s.sec := rfl
@[simp] theorem updChan_err (c : Nat) (f : Chan → Chan) (s : State) : (updChan c f s).err = s.err := rfl
@[simp] theorem updChan_regs (c : Nat) (f : Chan → Chan) (s : State) : (updChan c f s).regs = s.regs := rfl
@[simp] theorem updChan_side (c : Nat) (f : Chan → Chan) (s : State) : (updChan c f s).side = s.side := rfl

@[simp] theorem setDb_pending (c bit : Nat) (on : Bool) (s : State) : (setDb c bit on s).pending = s.pending := rfl
@[simp] theorem setDb_free (c bit : Nat) (on : Bool) (s : State) : (setDb c bit on s).free = s.free := rfl
@[simp] theorem setDb_draws (c bit : Nat) (on : Bool) (s : State) : (setDb c bit on s).draws = s.draws := rfl
@[simp] theorem setDb_out (c bit : Nat) (on : Bool) (s : State) : (setDb c bit on s).out = s.out := rfl
@[simp] theorem setDb_clk (c bit : Nat) (on : Bool) (s : State) : (setDb c bit on s).clk = s.clk := rfl
@[simp] theorem setDb_now (c bit : Nat) (on : Bool) (s : State) : (setDb c bit on s).now = s.now := rfl
@[simp] theorem setDb_pwr (c bit : Nat) (on : Bool) (s : State) : (setDb c bit on s).pwr = s.pwr := rfl
@[simp] theorem setDb_boot (c bit : Nat) (on : Bool) (s : State) : (setDb c bit on s).boot = s.boot := rfl
@[simp] theorem setDb_floor (c bit : Nat) (on : Bool) (s : State) : (setDb c bit on s).floor = s.floor := rfl
@[simp] theorem setDb_seqs (c bit : Nat) (on : Bool) (s : State) : (setDb c bit on s).seqs = s.seqs := rfl
@[simp] theorem setDb_freeDesc (c bit : Nat) (on : Bool) (s : State) : (setDb c bit on s).freeDesc = s.freeDesc := rfl
@[simp] theorem setDb_keyHist (c bit : Nat) (on : Bool) (s : State) : (setDb c bit on s).keyHist = s.keyHist := rfl
@[simp] theorem setDb_unusable (c bit : Nat) (on : Bool) (s : State) : (setDb c bit on s).unusable = s.unusable := rfl
@[simp] theorem setDb_doms (c bit : Nat) (on : Bool) (s : State) : (setDb c bit on s).doms = s.doms := rfl
@[simp] theorem setDb_net (c bit : Nat) (on : Bool) (s : State) : (setDb c bit on s).net = s.net := rfl
@[simp] theorem setDb_fab (c bit : Nat) (on : Bool) (s : State) : (setDb c bit on s).fab = s.fab := rfl
@[simp] theorem setDb_att (c bit : Nat) (on : Bool) (s : State) : (setDb c bit on s).att = s.att := rfl
@[simp] theorem setDb_mem (c bit : Nat) (on : Bool) (s : State) : (setDb c bit on s).mem = s.mem := rfl
@[simp] theorem setDb_pfx (c bit : Nat) (on : Bool) (s : State) : (setDb c bit on s).pfx = s.pfx := rfl
@[simp] theorem setDb_cmp (c bit : Nat) (on : Bool) (s : State) : (setDb c bit on s).cmp = s.cmp := rfl
@[simp] theorem setDb_sec (c bit : Nat) (on : Bool) (s : State) : (setDb c bit on s).sec = s.sec := rfl
@[simp] theorem setDb_err (c bit : Nat) (on : Bool) (s : State) : (setDb c bit on s).err = s.err := rfl
@[simp] theorem setDb_regs (c bit : Nat) (on : Bool) (s : State) : (setDb c bit on s).regs = s.regs := rfl
@[simp] theorem setDb_side (c bit : Nat) (on : Bool) (s : State) : (setDb c bit on s).side = s.side := rfl

@[simp] theorem setCmds_pending (f : List Cmd → List Cmd) (s : State) : (setCmds f s).pending = s.pending := rfl
@[simp] theorem setCmds_free (f : List Cmd → List Cmd) (s : State) : (setCmds f s).free = s.free := rfl
@[simp] theorem setCmds_draws (f : List Cmd → List Cmd) (s : State) : (setCmds f s).draws = s.draws := rfl
@[simp] theorem setCmds_out (f : List Cmd → List Cmd) (s : State) : (setCmds f s).out = s.out := rfl
@[simp] theorem setCmds_clk (f : List Cmd → List Cmd) (s : State) : (setCmds f s).clk = s.clk := rfl
@[simp] theorem setCmds_now (f : List Cmd → List Cmd) (s : State) : (setCmds f s).now = s.now := rfl
@[simp] theorem setCmds_pwr (f : List Cmd → List Cmd) (s : State) : (setCmds f s).pwr = s.pwr := rfl
@[simp] theorem setCmds_boot (f : List Cmd → List Cmd) (s : State) : (setCmds f s).boot = s.boot := rfl
@[simp] theorem setCmds_floor (f : List Cmd → List Cmd) (s : State) : (setCmds f s).floor = s.floor := rfl
@[simp] theorem setCmds_seqs (f : List Cmd → List Cmd) (s : State) : (setCmds f s).seqs = s.seqs := rfl
@[simp] theorem setCmds_freeDesc (f : List Cmd → List Cmd) (s : State) : (setCmds f s).freeDesc = s.freeDesc := rfl
@[simp] theorem setCmds_keyHist (f : List Cmd → List Cmd) (s : State) : (setCmds f s).keyHist = s.keyHist := rfl
@[simp] theorem setCmds_unusable (f : List Cmd → List Cmd) (s : State) : (setCmds f s).unusable = s.unusable := rfl
@[simp] theorem setCmds_doms (f : List Cmd → List Cmd) (s : State) : (setCmds f s).doms = s.doms := rfl
@[simp] theorem setCmds_mbx (f : List Cmd → List Cmd) (s : State) : (setCmds f s).mbx = { s.mbx with cmds := f s.mbx.cmds } := rfl
@[simp] theorem setCmds_net (f : List Cmd → List Cmd) (s : State) : (setCmds f s).net = s.net := rfl
@[simp] theorem setCmds_fab (f : List Cmd → List Cmd) (s : State) : (setCmds f s).fab = s.fab := rfl
@[simp] theorem setCmds_att (f : List Cmd → List Cmd) (s : State) : (setCmds f s).att = s.att := rfl
@[simp] theorem setCmds_mem (f : List Cmd → List Cmd) (s : State) : (setCmds f s).mem = s.mem := rfl
@[simp] theorem setCmds_pfx (f : List Cmd → List Cmd) (s : State) : (setCmds f s).pfx = s.pfx := rfl
@[simp] theorem setCmds_cmp (f : List Cmd → List Cmd) (s : State) : (setCmds f s).cmp = s.cmp := rfl
@[simp] theorem setCmds_sec (f : List Cmd → List Cmd) (s : State) : (setCmds f s).sec = s.sec := rfl
@[simp] theorem setCmds_err (f : List Cmd → List Cmd) (s : State) : (setCmds f s).err = s.err := rfl
@[simp] theorem setCmds_regs (f : List Cmd → List Cmd) (s : State) : (setCmds f s).regs = s.regs := rfl
@[simp] theorem setCmds_side (f : List Cmd → List Cmd) (s : State) : (setCmds f s).side = s.side := rfl

@[simp] theorem updCmd_pending (id : Nat) (f : Cmd → Cmd) (s : State) : (updCmd id f s).pending = s.pending := rfl
@[simp] theorem updCmd_free (id : Nat) (f : Cmd → Cmd) (s : State) : (updCmd id f s).free = s.free := rfl
@[simp] theorem updCmd_draws (id : Nat) (f : Cmd → Cmd) (s : State) : (updCmd id f s).draws = s.draws := rfl
@[simp] theorem updCmd_out (id : Nat) (f : Cmd → Cmd) (s : State) : (updCmd id f s).out = s.out := rfl
@[simp] theorem updCmd_clk (id : Nat) (f : Cmd → Cmd) (s : State) : (updCmd id f s).clk = s.clk := rfl
@[simp] theorem updCmd_now (id : Nat) (f : Cmd → Cmd) (s : State) : (updCmd id f s).now = s.now := rfl
@[simp] theorem updCmd_pwr (id : Nat) (f : Cmd → Cmd) (s : State) : (updCmd id f s).pwr = s.pwr := rfl
@[simp] theorem updCmd_boot (id : Nat) (f : Cmd → Cmd) (s : State) : (updCmd id f s).boot = s.boot := rfl
@[simp] theorem updCmd_floor (id : Nat) (f : Cmd → Cmd) (s : State) : (updCmd id f s).floor = s.floor := rfl
@[simp] theorem updCmd_seqs (id : Nat) (f : Cmd → Cmd) (s : State) : (updCmd id f s).seqs = s.seqs := rfl
@[simp] theorem updCmd_freeDesc (id : Nat) (f : Cmd → Cmd) (s : State) : (updCmd id f s).freeDesc = s.freeDesc := rfl
@[simp] theorem updCmd_keyHist (id : Nat) (f : Cmd → Cmd) (s : State) : (updCmd id f s).keyHist = s.keyHist := rfl
@[simp] theorem updCmd_unusable (id : Nat) (f : Cmd → Cmd) (s : State) : (updCmd id f s).unusable = s.unusable := rfl
@[simp] theorem updCmd_doms (id : Nat) (f : Cmd → Cmd) (s : State) : (updCmd id f s).doms = s.doms := rfl
@[simp] theorem updCmd_mbx (id : Nat) (f : Cmd → Cmd) (s : State) : (updCmd id f s).mbx = { s.mbx with cmds := s.mbx.cmds.map (fun c => if c.id = id then f c else c) } := rfl
@[simp] theorem updCmd_net (id : Nat) (f : Cmd → Cmd) (s : State) : (updCmd id f s).net = s.net := rfl
@[simp] theorem updCmd_fab (id : Nat) (f : Cmd → Cmd) (s : State) : (updCmd id f s).fab = s.fab := rfl
@[simp] theorem updCmd_att (id : Nat) (f : Cmd → Cmd) (s : State) : (updCmd id f s).att = s.att := rfl
@[simp] theorem updCmd_mem (id : Nat) (f : Cmd → Cmd) (s : State) : (updCmd id f s).mem = s.mem := rfl
@[simp] theorem updCmd_pfx (id : Nat) (f : Cmd → Cmd) (s : State) : (updCmd id f s).pfx = s.pfx := rfl
@[simp] theorem updCmd_cmp (id : Nat) (f : Cmd → Cmd) (s : State) : (updCmd id f s).cmp = s.cmp := rfl
@[simp] theorem updCmd_sec (id : Nat) (f : Cmd → Cmd) (s : State) : (updCmd id f s).sec = s.sec := rfl
@[simp] theorem updCmd_err (id : Nat) (f : Cmd → Cmd) (s : State) : (updCmd id f s).err = s.err := rfl
@[simp] theorem updCmd_regs (id : Nat) (f : Cmd → Cmd) (s : State) : (updCmd id f s).regs = s.regs := rfl
@[simp] theorem updCmd_side (id : Nat) (f : Cmd → Cmd) (s : State) : (updCmd id f s).side = s.side := rfl

@[simp] theorem setPort_pending (p : Nat) (x : Port) (s : State) : (setPort p x s).pending = s.pending := rfl
@[simp] theorem setPort_free (p : Nat) (x : Port) (s : State) : (setPort p x s).free = s.free := rfl
@[simp] theorem setPort_draws (p : Nat) (x : Port) (s : State) : (setPort p x s).draws = s.draws := rfl
@[simp] theorem setPort_out (p : Nat) (x : Port) (s : State) : (setPort p x s).out = s.out := rfl
@[simp] theorem setPort_clk (p : Nat) (x : Port) (s : State) : (setPort p x s).clk = s.clk := rfl
@[simp] theorem setPort_now (p : Nat) (x : Port) (s : State) : (setPort p x s).now = s.now := rfl
@[simp] theorem setPort_pwr (p : Nat) (x : Port) (s : State) : (setPort p x s).pwr = s.pwr := rfl
@[simp] theorem setPort_boot (p : Nat) (x : Port) (s : State) : (setPort p x s).boot = s.boot := rfl
@[simp] theorem setPort_floor (p : Nat) (x : Port) (s : State) : (setPort p x s).floor = s.floor := rfl
@[simp] theorem setPort_seqs (p : Nat) (x : Port) (s : State) : (setPort p x s).seqs = s.seqs := rfl
@[simp] theorem setPort_freeDesc (p : Nat) (x : Port) (s : State) : (setPort p x s).freeDesc = s.freeDesc := rfl
@[simp] theorem setPort_keyHist (p : Nat) (x : Port) (s : State) : (setPort p x s).keyHist = s.keyHist := rfl
@[simp] theorem setPort_unusable (p : Nat) (x : Port) (s : State) : (setPort p x s).unusable = s.unusable := rfl
@[simp] theorem setPort_doms (p : Nat) (x : Port) (s : State) : (setPort p x s).doms = s.doms := rfl
@[simp] theorem setPort_mbx (p : Nat) (x : Port) (s : State) : (setPort p x s).mbx = s.mbx := rfl
@[simp] theorem setPort_net (p : Nat) (x : Port) (s : State) : (setPort p x s).net = s.net := rfl
@[simp] theorem setPort_fab (p : Nat) (x : Port) (s : State) : (setPort p x s).fab = { s.fab with ports := putD Port.reset s.fab.ports p x } := rfl
@[simp] theorem setPort_att (p : Nat) (x : Port) (s : State) : (setPort p x s).att = s.att := rfl
@[simp] theorem setPort_mem (p : Nat) (x : Port) (s : State) : (setPort p x s).mem = s.mem := rfl
@[simp] theorem setPort_pfx (p : Nat) (x : Port) (s : State) : (setPort p x s).pfx = s.pfx := rfl
@[simp] theorem setPort_cmp (p : Nat) (x : Port) (s : State) : (setPort p x s).cmp = s.cmp := rfl
@[simp] theorem setPort_sec (p : Nat) (x : Port) (s : State) : (setPort p x s).sec = s.sec := rfl
@[simp] theorem setPort_err (p : Nat) (x : Port) (s : State) : (setPort p x s).err = s.err := rfl
@[simp] theorem setPort_regs (p : Nat) (x : Port) (s : State) : (setPort p x s).regs = s.regs := rfl
@[simp] theorem setPort_side (p : Nat) (x : Port) (s : State) : (setPort p x s).side = s.side := rfl

@[simp] theorem updPort_pending (p : Nat) (f : Port → Port) (s : State) : (updPort p f s).pending = s.pending := rfl
@[simp] theorem updPort_free (p : Nat) (f : Port → Port) (s : State) : (updPort p f s).free = s.free := rfl
@[simp] theorem updPort_draws (p : Nat) (f : Port → Port) (s : State) : (updPort p f s).draws = s.draws := rfl
@[simp] theorem updPort_out (p : Nat) (f : Port → Port) (s : State) : (updPort p f s).out = s.out := rfl
@[simp] theorem updPort_clk (p : Nat) (f : Port → Port) (s : State) : (updPort p f s).clk = s.clk := rfl
@[simp] theorem updPort_now (p : Nat) (f : Port → Port) (s : State) : (updPort p f s).now = s.now := rfl
@[simp] theorem updPort_pwr (p : Nat) (f : Port → Port) (s : State) : (updPort p f s).pwr = s.pwr := rfl
@[simp] theorem updPort_boot (p : Nat) (f : Port → Port) (s : State) : (updPort p f s).boot = s.boot := rfl
@[simp] theorem updPort_floor (p : Nat) (f : Port → Port) (s : State) : (updPort p f s).floor = s.floor := rfl
@[simp] theorem updPort_seqs (p : Nat) (f : Port → Port) (s : State) : (updPort p f s).seqs = s.seqs := rfl
@[simp] theorem updPort_freeDesc (p : Nat) (f : Port → Port) (s : State) : (updPort p f s).freeDesc = s.freeDesc := rfl
@[simp] theorem updPort_keyHist (p : Nat) (f : Port → Port) (s : State) : (updPort p f s).keyHist = s.keyHist := rfl
@[simp] theorem updPort_unusable (p : Nat) (f : Port → Port) (s : State) : (updPort p f s).unusable = s.unusable := rfl
@[simp] theorem updPort_doms (p : Nat) (f : Port → Port) (s : State) : (updPort p f s).doms = s.doms := rfl
@[simp] theorem updPort_mbx (p : Nat) (f : Port → Port) (s : State) : (updPort p f s).mbx = s.mbx := rfl
@[simp] theorem updPort_net (p : Nat) (f : Port → Port) (s : State) : (updPort p f s).net = s.net := rfl
@[simp] theorem updPort_fab (p : Nat) (f : Port → Port) (s : State) : (updPort p f s).fab = { s.fab with ports := putD Port.reset s.fab.ports p (f (port s p)) } := rfl
@[simp] theorem updPort_att (p : Nat) (f : Port → Port) (s : State) : (updPort p f s).att = s.att := rfl
@[simp] theorem updPort_mem (p : Nat) (f : Port → Port) (s : State) : (updPort p f s).mem = s.mem := rfl
@[simp] theorem updPort_pfx (p : Nat) (f : Port → Port) (s : State) : (updPort p f s).pfx = s.pfx := rfl
@[simp] theorem updPort_cmp (p : Nat) (f : Port → Port) (s : State) : (updPort p f s).cmp = s.cmp := rfl
@[simp] theorem updPort_sec (p : Nat) (f : Port → Port) (s : State) : (updPort p f s).sec = s.sec := rfl
@[simp] theorem updPort_err (p : Nat) (f : Port → Port) (s : State) : (updPort p f s).err = s.err := rfl
@[simp] theorem updPort_regs (p : Nat) (f : Port → Port) (s : State) : (updPort p f s).regs = s.regs := rfl
@[simp] theorem updPort_side (p : Nat) (f : Port → Port) (s : State) : (updPort p f s).side = s.side := rfl

@[simp] theorem setSeq_pending (d : SeqD) (s : State) : (setSeq d s).pending = s.pending := rfl
@[simp] theorem setSeq_free (d : SeqD) (s : State) : (setSeq d s).free = s.free := rfl
@[simp] theorem setSeq_draws (d : SeqD) (s : State) : (setSeq d s).draws = s.draws := rfl
@[simp] theorem setSeq_out (d : SeqD) (s : State) : (setSeq d s).out = s.out := rfl
@[simp] theorem setSeq_clk (d : SeqD) (s : State) : (setSeq d s).clk = s.clk := rfl
@[simp] theorem setSeq_now (d : SeqD) (s : State) : (setSeq d s).now = s.now := rfl
@[simp] theorem setSeq_pwr (d : SeqD) (s : State) : (setSeq d s).pwr = s.pwr := rfl
@[simp] theorem setSeq_boot (d : SeqD) (s : State) : (setSeq d s).boot = s.boot := rfl
@[simp] theorem setSeq_floor (d : SeqD) (s : State) : (setSeq d s).floor = s.floor := rfl
@[simp] theorem setSeq_seqs (d : SeqD) (s : State) : (setSeq d s).seqs = put s.seqs (seqKey d.td d.seqn) d := rfl
@[simp] theorem setSeq_freeDesc (d : SeqD) (s : State) : (setSeq d s).freeDesc = s.freeDesc := rfl
@[simp] theorem setSeq_keyHist (d : SeqD) (s : State) : (setSeq d s).keyHist = s.keyHist := rfl
@[simp] theorem setSeq_unusable (d : SeqD) (s : State) : (setSeq d s).unusable = s.unusable := rfl
@[simp] theorem setSeq_doms (d : SeqD) (s : State) : (setSeq d s).doms = s.doms := rfl
@[simp] theorem setSeq_mbx (d : SeqD) (s : State) : (setSeq d s).mbx = s.mbx := rfl
@[simp] theorem setSeq_net (d : SeqD) (s : State) : (setSeq d s).net = s.net := rfl
@[simp] theorem setSeq_fab (d : SeqD) (s : State) : (setSeq d s).fab = s.fab := rfl
@[simp] theorem setSeq_att (d : SeqD) (s : State) : (setSeq d s).att = s.att := rfl
@[simp] theorem setSeq_mem (d : SeqD) (s : State) : (setSeq d s).mem = s.mem := rfl
@[simp] theorem setSeq_pfx (d : SeqD) (s : State) : (setSeq d s).pfx = s.pfx := rfl
@[simp] theorem setSeq_cmp (d : SeqD) (s : State) : (setSeq d s).cmp = s.cmp := rfl
@[simp] theorem setSeq_sec (d : SeqD) (s : State) : (setSeq d s).sec = s.sec := rfl
@[simp] theorem setSeq_err (d : SeqD) (s : State) : (setSeq d s).err = s.err := rfl
@[simp] theorem setSeq_regs (d : SeqD) (s : State) : (setSeq d s).regs = s.regs := rfl
@[simp] theorem setSeq_side (d : SeqD) (s : State) : (setSeq d s).side = s.side := rfl

@[simp] theorem updSeq_pending (td seqn : Nat) (f : SeqD → SeqD) (s : State) : (updSeq td seqn f s).pending = s.pending := rfl
@[simp] theorem updSeq_free (td seqn : Nat) (f : SeqD → SeqD) (s : State) : (updSeq td seqn f s).free = s.free := rfl
@[simp] theorem updSeq_draws (td seqn : Nat) (f : SeqD → SeqD) (s : State) : (updSeq td seqn f s).draws = s.draws := rfl
@[simp] theorem updSeq_out (td seqn : Nat) (f : SeqD → SeqD) (s : State) : (updSeq td seqn f s).out = s.out := rfl
@[simp] theorem updSeq_clk (td seqn : Nat) (f : SeqD → SeqD) (s : State) : (updSeq td seqn f s).clk = s.clk := rfl
@[simp] theorem updSeq_now (td seqn : Nat) (f : SeqD → SeqD) (s : State) : (updSeq td seqn f s).now = s.now := rfl
@[simp] theorem updSeq_pwr (td seqn : Nat) (f : SeqD → SeqD) (s : State) : (updSeq td seqn f s).pwr = s.pwr := rfl
@[simp] theorem updSeq_boot (td seqn : Nat) (f : SeqD → SeqD) (s : State) : (updSeq td seqn f s).boot = s.boot := rfl
@[simp] theorem updSeq_floor (td seqn : Nat) (f : SeqD → SeqD) (s : State) : (updSeq td seqn f s).floor = s.floor := rfl
@[simp] theorem updSeq_seqs (td seqn : Nat) (f : SeqD → SeqD) (s : State) : (updSeq td seqn f s).seqs = modify s.seqs (seqKey td seqn) f := rfl
@[simp] theorem updSeq_freeDesc (td seqn : Nat) (f : SeqD → SeqD) (s : State) : (updSeq td seqn f s).freeDesc = s.freeDesc := rfl
@[simp] theorem updSeq_keyHist (td seqn : Nat) (f : SeqD → SeqD) (s : State) : (updSeq td seqn f s).keyHist = s.keyHist := rfl
@[simp] theorem updSeq_unusable (td seqn : Nat) (f : SeqD → SeqD) (s : State) : (updSeq td seqn f s).unusable = s.unusable := rfl
@[simp] theorem updSeq_doms (td seqn : Nat) (f : SeqD → SeqD) (s : State) : (updSeq td seqn f s).doms = s.doms := rfl
@[simp] theorem updSeq_mbx (td seqn : Nat) (f : SeqD → SeqD) (s : State) : (updSeq td seqn f s).mbx = s.mbx := rfl
@[simp] theorem updSeq_net (td seqn : Nat) (f : SeqD → SeqD) (s : State) : (updSeq td seqn f s).net = s.net := rfl
@[simp] theorem updSeq_fab (td seqn : Nat) (f : SeqD → SeqD) (s : State) : (updSeq td seqn f s).fab = s.fab := rfl
@[simp] theorem updSeq_att (td seqn : Nat) (f : SeqD → SeqD) (s : State) : (updSeq td seqn f s).att = s.att := rfl
@[simp] theorem updSeq_mem (td seqn : Nat) (f : SeqD → SeqD) (s : State) : (updSeq td seqn f s).mem = s.mem := rfl
@[simp] theorem updSeq_pfx (td seqn : Nat) (f : SeqD → SeqD) (s : State) : (updSeq td seqn f s).pfx = s.pfx := rfl
@[simp] theorem updSeq_cmp (td seqn : Nat) (f : SeqD → SeqD) (s : State) : (updSeq td seqn f s).cmp = s.cmp := rfl
@[simp] theorem updSeq_sec (td seqn : Nat) (f : SeqD → SeqD) (s : State) : (updSeq td seqn f s).sec = s.sec := rfl
@[simp] theorem updSeq_err (td seqn : Nat) (f : SeqD → SeqD) (s : State) : (updSeq td seqn f s).err = s.err := rfl
@[simp] theorem updSeq_regs (td seqn : Nat) (f : SeqD → SeqD) (s : State) : (updSeq td seqn f s).regs = s.regs := rfl
@[simp] theorem updSeq_side (td seqn : Nat) (f : SeqD → SeqD) (s : State) : (updSeq td seqn f s).side = s.side := rfl

@[simp] theorem dropSeq_pending (td seqn : Nat) (s : State) : (dropSeq td seqn s).pending = s.pending := rfl
@[simp] theorem dropSeq_free (td seqn : Nat) (s : State) : (dropSeq td seqn s).free = s.free := rfl
@[simp] theorem dropSeq_draws (td seqn : Nat) (s : State) : (dropSeq td seqn s).draws = s.draws := rfl
@[simp] theorem dropSeq_out (td seqn : Nat) (s : State) : (dropSeq td seqn s).out = s.out := rfl
@[simp] theorem dropSeq_clk (td seqn : Nat) (s : State) : (dropSeq td seqn s).clk = s.clk := rfl
@[simp] theorem dropSeq_now (td seqn : Nat) (s : State) : (dropSeq td seqn s).now = s.now := rfl
@[simp] theorem dropSeq_pwr (td seqn : Nat) (s : State) : (dropSeq td seqn s).pwr = s.pwr := rfl
@[simp] theorem dropSeq_boot (td seqn : Nat) (s : State) : (dropSeq td seqn s).boot = s.boot := rfl
@[simp] theorem dropSeq_floor (td seqn : Nat) (s : State) : (dropSeq td seqn s).floor = s.floor := rfl
@[simp] theorem dropSeq_seqs (td seqn : Nat) (s : State) : (dropSeq td seqn s).seqs = rem s.seqs (seqKey td seqn) := rfl
@[simp] theorem dropSeq_freeDesc (td seqn : Nat) (s : State) : (dropSeq td seqn s).freeDesc = s.freeDesc := rfl
@[simp] theorem dropSeq_keyHist (td seqn : Nat) (s : State) : (dropSeq td seqn s).keyHist = s.keyHist := rfl
@[simp] theorem dropSeq_unusable (td seqn : Nat) (s : State) : (dropSeq td seqn s).unusable = s.unusable := rfl
@[simp] theorem dropSeq_doms (td seqn : Nat) (s : State) : (dropSeq td seqn s).doms = s.doms := rfl
@[simp] theorem dropSeq_mbx (td seqn : Nat) (s : State) : (dropSeq td seqn s).mbx = s.mbx := rfl
@[simp] theorem dropSeq_net (td seqn : Nat) (s : State) : (dropSeq td seqn s).net = s.net := rfl
@[simp] theorem dropSeq_fab (td seqn : Nat) (s : State) : (dropSeq td seqn s).fab = s.fab := rfl
@[simp] theorem dropSeq_att (td seqn : Nat) (s : State) : (dropSeq td seqn s).att = s.att := rfl
@[simp] theorem dropSeq_mem (td seqn : Nat) (s : State) : (dropSeq td seqn s).mem = s.mem := rfl
@[simp] theorem dropSeq_pfx (td seqn : Nat) (s : State) : (dropSeq td seqn s).pfx = s.pfx := rfl
@[simp] theorem dropSeq_cmp (td seqn : Nat) (s : State) : (dropSeq td seqn s).cmp = s.cmp := rfl
@[simp] theorem dropSeq_sec (td seqn : Nat) (s : State) : (dropSeq td seqn s).sec = s.sec := rfl
@[simp] theorem dropSeq_err (td seqn : Nat) (s : State) : (dropSeq td seqn s).err = s.err := rfl
@[simp] theorem dropSeq_regs (td seqn : Nat) (s : State) : (dropSeq td seqn s).regs = s.regs := rfl
@[simp] theorem dropSeq_side (td seqn : Nat) (s : State) : (dropSeq td seqn s).side = s.side := rfl

@[simp] theorem setQps_pending (f : List Qp → List Qp) (s : State) : (setQps f s).pending = s.pending := rfl
@[simp] theorem setQps_free (f : List Qp → List Qp) (s : State) : (setQps f s).free = s.free := rfl
@[simp] theorem setQps_draws (f : List Qp → List Qp) (s : State) : (setQps f s).draws = s.draws := rfl
@[simp] theorem setQps_out (f : List Qp → List Qp) (s : State) : (setQps f s).out = s.out := rfl
@[simp] theorem setQps_clk (f : List Qp → List Qp) (s : State) : (setQps f s).clk = s.clk := rfl
@[simp] theorem setQps_now (f : List Qp → List Qp) (s : State) : (setQps f s).now = s.now := rfl
@[simp] theorem setQps_pwr (f : List Qp → List Qp) (s : State) : (setQps f s).pwr = s.pwr := rfl
@[simp] theorem setQps_boot (f : List Qp → List Qp) (s : State) : (setQps f s).boot = s.boot := rfl
@[simp] theorem setQps_floor (f : List Qp → List Qp) (s : State) : (setQps f s).floor = s.floor := rfl
@[simp] theorem setQps_seqs (f : List Qp → List Qp) (s : State) : (setQps f s).seqs = s.seqs := rfl
@[simp] theorem setQps_freeDesc (f : List Qp → List Qp) (s : State) : (setQps f s).freeDesc = s.freeDesc := rfl
@[simp] theorem setQps_keyHist (f : List Qp → List Qp) (s : State) : (setQps f s).keyHist = s.keyHist := rfl
@[simp] theorem setQps_unusable (f : List Qp → List Qp) (s : State) : (setQps f s).unusable = s.unusable := rfl
@[simp] theorem setQps_doms (f : List Qp → List Qp) (s : State) : (setQps f s).doms = s.doms := rfl
@[simp] theorem setQps_mbx (f : List Qp → List Qp) (s : State) : (setQps f s).mbx = s.mbx := rfl
@[simp] theorem setQps_net (f : List Qp → List Qp) (s : State) : (setQps f s).net = { s.net with qps := f s.net.qps } := rfl
@[simp] theorem setQps_fab (f : List Qp → List Qp) (s : State) : (setQps f s).fab = s.fab := rfl
@[simp] theorem setQps_att (f : List Qp → List Qp) (s : State) : (setQps f s).att = s.att := rfl
@[simp] theorem setQps_mem (f : List Qp → List Qp) (s : State) : (setQps f s).mem = s.mem := rfl
@[simp] theorem setQps_pfx (f : List Qp → List Qp) (s : State) : (setQps f s).pfx = s.pfx := rfl
@[simp] theorem setQps_cmp (f : List Qp → List Qp) (s : State) : (setQps f s).cmp = s.cmp := rfl
@[simp] theorem setQps_sec (f : List Qp → List Qp) (s : State) : (setQps f s).sec = s.sec := rfl
@[simp] theorem setQps_err (f : List Qp → List Qp) (s : State) : (setQps f s).err = s.err := rfl
@[simp] theorem setQps_regs (f : List Qp → List Qp) (s : State) : (setQps f s).regs = s.regs := rfl
@[simp] theorem setQps_side (f : List Qp → List Qp) (s : State) : (setQps f s).side = s.side := rfl

@[simp] theorem updQp_pending (q : Nat) (f : Qp → Qp) (s : State) : (updQp q f s).pending = s.pending := rfl
@[simp] theorem updQp_free (q : Nat) (f : Qp → Qp) (s : State) : (updQp q f s).free = s.free := rfl
@[simp] theorem updQp_draws (q : Nat) (f : Qp → Qp) (s : State) : (updQp q f s).draws = s.draws := rfl
@[simp] theorem updQp_out (q : Nat) (f : Qp → Qp) (s : State) : (updQp q f s).out = s.out := rfl
@[simp] theorem updQp_clk (q : Nat) (f : Qp → Qp) (s : State) : (updQp q f s).clk = s.clk := rfl
@[simp] theorem updQp_now (q : Nat) (f : Qp → Qp) (s : State) : (updQp q f s).now = s.now := rfl
@[simp] theorem updQp_pwr (q : Nat) (f : Qp → Qp) (s : State) : (updQp q f s).pwr = s.pwr := rfl
@[simp] theorem updQp_boot (q : Nat) (f : Qp → Qp) (s : State) : (updQp q f s).boot = s.boot := rfl
@[simp] theorem updQp_floor (q : Nat) (f : Qp → Qp) (s : State) : (updQp q f s).floor = s.floor := rfl
@[simp] theorem updQp_seqs (q : Nat) (f : Qp → Qp) (s : State) : (updQp q f s).seqs = s.seqs := rfl
@[simp] theorem updQp_freeDesc (q : Nat) (f : Qp → Qp) (s : State) : (updQp q f s).freeDesc = s.freeDesc := rfl
@[simp] theorem updQp_keyHist (q : Nat) (f : Qp → Qp) (s : State) : (updQp q f s).keyHist = s.keyHist := rfl
@[simp] theorem updQp_unusable (q : Nat) (f : Qp → Qp) (s : State) : (updQp q f s).unusable = s.unusable := rfl
@[simp] theorem updQp_doms (q : Nat) (f : Qp → Qp) (s : State) : (updQp q f s).doms = s.doms := rfl
@[simp] theorem updQp_mbx (q : Nat) (f : Qp → Qp) (s : State) : (updQp q f s).mbx = s.mbx := rfl
@[simp] theorem updQp_net (q : Nat) (f : Qp → Qp) (s : State) : (updQp q f s).net = { s.net with qps := s.net.qps.map (fun x => if x.qpn = q then f x else x) } := rfl
@[simp] theorem updQp_fab (q : Nat) (f : Qp → Qp) (s : State) : (updQp q f s).fab = s.fab := rfl
@[simp] theorem updQp_att (q : Nat) (f : Qp → Qp) (s : State) : (updQp q f s).att = s.att := rfl
@[simp] theorem updQp_mem (q : Nat) (f : Qp → Qp) (s : State) : (updQp q f s).mem = s.mem := rfl
@[simp] theorem updQp_pfx (q : Nat) (f : Qp → Qp) (s : State) : (updQp q f s).pfx = s.pfx := rfl
@[simp] theorem updQp_cmp (q : Nat) (f : Qp → Qp) (s : State) : (updQp q f s).cmp = s.cmp := rfl
@[simp] theorem updQp_sec (q : Nat) (f : Qp → Qp) (s : State) : (updQp q f s).sec = s.sec := rfl
@[simp] theorem updQp_err (q : Nat) (f : Qp → Qp) (s : State) : (updQp q f s).err = s.err := rfl
@[simp] theorem updQp_regs (q : Nat) (f : Qp → Qp) (s : State) : (updQp q f s).regs = s.regs := rfl
@[simp] theorem updQp_side (q : Nat) (f : Qp → Qp) (s : State) : (updQp q f s).side = s.side := rfl

@[simp] theorem setExt_pending (e : Nat) (x : Ext) (s : State) : (setExt e x s).pending = s.pending := rfl
@[simp] theorem setExt_free (e : Nat) (x : Ext) (s : State) : (setExt e x s).free = s.free := rfl
@[simp] theorem setExt_draws (e : Nat) (x : Ext) (s : State) : (setExt e x s).draws = s.draws := rfl
@[simp] theorem setExt_out (e : Nat) (x : Ext) (s : State) : (setExt e x s).out = s.out := rfl
@[simp] theorem setExt_clk (e : Nat) (x : Ext) (s : State) : (setExt e x s).clk = s.clk := rfl
@[simp] theorem setExt_now (e : Nat) (x : Ext) (s : State) : (setExt e x s).now = s.now := rfl
@[simp] theorem setExt_pwr (e : Nat) (x : Ext) (s : State) : (setExt e x s).pwr = s.pwr := rfl
@[simp] theorem setExt_boot (e : Nat) (x : Ext) (s : State) : (setExt e x s).boot = s.boot := rfl
@[simp] theorem setExt_floor (e : Nat) (x : Ext) (s : State) : (setExt e x s).floor = s.floor := rfl
@[simp] theorem setExt_seqs (e : Nat) (x : Ext) (s : State) : (setExt e x s).seqs = s.seqs := rfl
@[simp] theorem setExt_freeDesc (e : Nat) (x : Ext) (s : State) : (setExt e x s).freeDesc = s.freeDesc := rfl
@[simp] theorem setExt_keyHist (e : Nat) (x : Ext) (s : State) : (setExt e x s).keyHist = s.keyHist := rfl
@[simp] theorem setExt_unusable (e : Nat) (x : Ext) (s : State) : (setExt e x s).unusable = s.unusable := rfl
@[simp] theorem setExt_doms (e : Nat) (x : Ext) (s : State) : (setExt e x s).doms = s.doms := rfl
@[simp] theorem setExt_mbx (e : Nat) (x : Ext) (s : State) : (setExt e x s).mbx = s.mbx := rfl
@[simp] theorem setExt_net (e : Nat) (x : Ext) (s : State) : (setExt e x s).net = s.net := rfl
@[simp] theorem setExt_fab (e : Nat) (x : Ext) (s : State) : (setExt e x s).fab = s.fab := rfl
@[simp] theorem setExt_att (e : Nat) (x : Ext) (s : State) : (setExt e x s).att = s.att := rfl
@[simp] theorem setExt_mem (e : Nat) (x : Ext) (s : State) : (setExt e x s).mem = s.mem := rfl
@[simp] theorem setExt_pfx (e : Nat) (x : Ext) (s : State) : (setExt e x s).pfx = s.pfx := rfl
@[simp] theorem setExt_cmp (e : Nat) (x : Ext) (s : State) : (setExt e x s).cmp = { s.cmp with exts := put s.cmp.exts e x } := rfl
@[simp] theorem setExt_sec (e : Nat) (x : Ext) (s : State) : (setExt e x s).sec = s.sec := rfl
@[simp] theorem setExt_err (e : Nat) (x : Ext) (s : State) : (setExt e x s).err = s.err := rfl
@[simp] theorem setExt_regs (e : Nat) (x : Ext) (s : State) : (setExt e x s).regs = s.regs := rfl
@[simp] theorem setExt_side (e : Nat) (x : Ext) (s : State) : (setExt e x s).side = s.side := rfl

@[simp] theorem updExt_pending (e : Nat) (f : Ext → Ext) (s : State) : (updExt e f s).pending = s.pending := rfl
@[simp] theorem updExt_free (e : Nat) (f : Ext → Ext) (s : State) : (updExt e f s).free = s.free := rfl
@[simp] theorem updExt_draws (e : Nat) (f : Ext → Ext) (s : State) : (updExt e f s).draws = s.draws := rfl
@[simp] theorem updExt_out (e : Nat) (f : Ext → Ext) (s : State) : (updExt e f s).out = s.out := rfl
@[simp] theorem updExt_clk (e : Nat) (f : Ext → Ext) (s : State) : (updExt e f s).clk = s.clk := rfl
@[simp] theorem updExt_now (e : Nat) (f : Ext → Ext) (s : State) : (updExt e f s).now = s.now := rfl
@[simp] theorem updExt_pwr (e : Nat) (f : Ext → Ext) (s : State) : (updExt e f s).pwr = s.pwr := rfl
@[simp] theorem updExt_boot (e : Nat) (f : Ext → Ext) (s : State) : (updExt e f s).boot = s.boot := rfl
@[simp] theorem updExt_floor (e : Nat) (f : Ext → Ext) (s : State) : (updExt e f s).floor = s.floor := rfl
@[simp] theorem updExt_seqs (e : Nat) (f : Ext → Ext) (s : State) : (updExt e f s).seqs = s.seqs := rfl
@[simp] theorem updExt_freeDesc (e : Nat) (f : Ext → Ext) (s : State) : (updExt e f s).freeDesc = s.freeDesc := rfl
@[simp] theorem updExt_keyHist (e : Nat) (f : Ext → Ext) (s : State) : (updExt e f s).keyHist = s.keyHist := rfl
@[simp] theorem updExt_unusable (e : Nat) (f : Ext → Ext) (s : State) : (updExt e f s).unusable = s.unusable := rfl
@[simp] theorem updExt_doms (e : Nat) (f : Ext → Ext) (s : State) : (updExt e f s).doms = s.doms := rfl
@[simp] theorem updExt_mbx (e : Nat) (f : Ext → Ext) (s : State) : (updExt e f s).mbx = s.mbx := rfl
@[simp] theorem updExt_net (e : Nat) (f : Ext → Ext) (s : State) : (updExt e f s).net = s.net := rfl
@[simp] theorem updExt_fab (e : Nat) (f : Ext → Ext) (s : State) : (updExt e f s).fab = s.fab := rfl
@[simp] theorem updExt_att (e : Nat) (f : Ext → Ext) (s : State) : (updExt e f s).att = s.att := rfl
@[simp] theorem updExt_mem (e : Nat) (f : Ext → Ext) (s : State) : (updExt e f s).mem = s.mem := rfl
@[simp] theorem updExt_pfx (e : Nat) (f : Ext → Ext) (s : State) : (updExt e f s).pfx = s.pfx := rfl
@[simp] theorem updExt_cmp (e : Nat) (f : Ext → Ext) (s : State) : (updExt e f s).cmp = { s.cmp with exts := modify s.cmp.exts e f } := rfl
@[simp] theorem updExt_sec (e : Nat) (f : Ext → Ext) (s : State) : (updExt e f s).sec = s.sec := rfl
@[simp] theorem updExt_err (e : Nat) (f : Ext → Ext) (s : State) : (updExt e f s).err = s.err := rfl
@[simp] theorem updExt_regs (e : Nat) (f : Ext → Ext) (s : State) : (updExt e f s).regs = s.regs := rfl
@[simp] theorem updExt_side (e : Nat) (f : Ext → Ext) (s : State) : (updExt e f s).side = s.side := rfl

@[simp] theorem updCh_pending (c : Nat) (f : Ch → Ch) (s : State) : (updCh c f s).pending = s.pending := rfl
@[simp] theorem updCh_free (c : Nat) (f : Ch → Ch) (s : State) : (updCh c f s).free = s.free := rfl
@[simp] theorem updCh_draws (c : Nat) (f : Ch → Ch) (s : State) : (updCh c f s).draws = s.draws := rfl
@[simp] theorem updCh_out (c : Nat) (f : Ch → Ch) (s : State) : (updCh c f s).out = s.out := rfl
@[simp] theorem updCh_clk (c : Nat) (f : Ch → Ch) (s : State) : (updCh c f s).clk = s.clk := rfl
@[simp] theorem updCh_now (c : Nat) (f : Ch → Ch) (s : State) : (updCh c f s).now = s.now := rfl
@[simp] theorem updCh_pwr (c : Nat) (f : Ch → Ch) (s : State) : (updCh c f s).pwr = s.pwr := rfl
@[simp] theorem updCh_boot (c : Nat) (f : Ch → Ch) (s : State) : (updCh c f s).boot = s.boot := rfl
@[simp] theorem updCh_floor (c : Nat) (f : Ch → Ch) (s : State) : (updCh c f s).floor = s.floor := rfl
@[simp] theorem updCh_seqs (c : Nat) (f : Ch → Ch) (s : State) : (updCh c f s).seqs = s.seqs := rfl
@[simp] theorem updCh_freeDesc (c : Nat) (f : Ch → Ch) (s : State) : (updCh c f s).freeDesc = s.freeDesc := rfl
@[simp] theorem updCh_keyHist (c : Nat) (f : Ch → Ch) (s : State) : (updCh c f s).keyHist = s.keyHist := rfl
@[simp] theorem updCh_unusable (c : Nat) (f : Ch → Ch) (s : State) : (updCh c f s).unusable = s.unusable := rfl
@[simp] theorem updCh_doms (c : Nat) (f : Ch → Ch) (s : State) : (updCh c f s).doms = s.doms := rfl
@[simp] theorem updCh_mbx (c : Nat) (f : Ch → Ch) (s : State) : (updCh c f s).mbx = s.mbx := rfl
@[simp] theorem updCh_net (c : Nat) (f : Ch → Ch) (s : State) : (updCh c f s).net = s.net := rfl
@[simp] theorem updCh_fab (c : Nat) (f : Ch → Ch) (s : State) : (updCh c f s).fab = s.fab := rfl
@[simp] theorem updCh_att (c : Nat) (f : Ch → Ch) (s : State) : (updCh c f s).att = s.att := rfl
@[simp] theorem updCh_mem (c : Nat) (f : Ch → Ch) (s : State) : (updCh c f s).mem = { s.mem with chans := putD Ch.idle s.mem.chans c (f (ch s c)) } := rfl
@[simp] theorem updCh_pfx (c : Nat) (f : Ch → Ch) (s : State) : (updCh c f s).pfx = s.pfx := rfl
@[simp] theorem updCh_cmp (c : Nat) (f : Ch → Ch) (s : State) : (updCh c f s).cmp = s.cmp := rfl
@[simp] theorem updCh_sec (c : Nat) (f : Ch → Ch) (s : State) : (updCh c f s).sec = s.sec := rfl
@[simp] theorem updCh_err (c : Nat) (f : Ch → Ch) (s : State) : (updCh c f s).err = s.err := rfl
@[simp] theorem updCh_regs (c : Nat) (f : Ch → Ch) (s : State) : (updCh c f s).regs = s.regs := rfl
@[simp] theorem updCh_side (c : Nat) (f : Ch → Ch) (s : State) : (updCh c f s).side = s.side := rfl

@[simp] theorem updTarget_pending (c t : Nat) (f : FTarget → FTarget) (s : State) : (updTarget c t f s).pending = s.pending := rfl
@[simp] theorem updTarget_free (c t : Nat) (f : FTarget → FTarget) (s : State) : (updTarget c t f s).free = s.free := rfl
@[simp] theorem updTarget_draws (c t : Nat) (f : FTarget → FTarget) (s : State) : (updTarget c t f s).draws = s.draws := rfl
@[simp] theorem updTarget_out (c t : Nat) (f : FTarget → FTarget) (s : State) : (updTarget c t f s).out = s.out := rfl
@[simp] theorem updTarget_clk (c t : Nat) (f : FTarget → FTarget) (s : State) : (updTarget c t f s).clk = s.clk := rfl
@[simp] theorem updTarget_now (c t : Nat) (f : FTarget → FTarget) (s : State) : (updTarget c t f s).now = s.now := rfl
@[simp] theorem updTarget_pwr (c t : Nat) (f : FTarget → FTarget) (s : State) : (updTarget c t f s).pwr = s.pwr := rfl
@[simp] theorem updTarget_boot (c t : Nat) (f : FTarget → FTarget) (s : State) : (updTarget c t f s).boot = s.boot := rfl
@[simp] theorem updTarget_floor (c t : Nat) (f : FTarget → FTarget) (s : State) : (updTarget c t f s).floor = s.floor := rfl
@[simp] theorem updTarget_seqs (c t : Nat) (f : FTarget → FTarget) (s : State) : (updTarget c t f s).seqs = s.seqs := rfl
@[simp] theorem updTarget_freeDesc (c t : Nat) (f : FTarget → FTarget) (s : State) : (updTarget c t f s).freeDesc = s.freeDesc := rfl
@[simp] theorem updTarget_keyHist (c t : Nat) (f : FTarget → FTarget) (s : State) : (updTarget c t f s).keyHist = s.keyHist := rfl
@[simp] theorem updTarget_unusable (c t : Nat) (f : FTarget → FTarget) (s : State) : (updTarget c t f s).unusable = s.unusable := rfl
@[simp] theorem updTarget_doms (c t : Nat) (f : FTarget → FTarget) (s : State) : (updTarget c t f s).doms = s.doms := rfl
@[simp] theorem updTarget_mbx (c t : Nat) (f : FTarget → FTarget) (s : State) : (updTarget c t f s).mbx = s.mbx := rfl
@[simp] theorem updTarget_net (c t : Nat) (f : FTarget → FTarget) (s : State) : (updTarget c t f s).net = s.net := rfl
@[simp] theorem updTarget_fab (c t : Nat) (f : FTarget → FTarget) (s : State) : (updTarget c t f s).fab = s.fab := rfl
@[simp] theorem updTarget_att (c t : Nat) (f : FTarget → FTarget) (s : State) : (updTarget c t f s).att = s.att := rfl
@[simp] theorem updTarget_mem (c t : Nat) (f : FTarget → FTarget) (s : State) : (updTarget c t f s).mem = { s.mem with targets := modify s.mem.targets (8 * c + t) f } := rfl
@[simp] theorem updTarget_pfx (c t : Nat) (f : FTarget → FTarget) (s : State) : (updTarget c t f s).pfx = s.pfx := rfl
@[simp] theorem updTarget_cmp (c t : Nat) (f : FTarget → FTarget) (s : State) : (updTarget c t f s).cmp = s.cmp := rfl
@[simp] theorem updTarget_sec (c t : Nat) (f : FTarget → FTarget) (s : State) : (updTarget c t f s).sec = s.sec := rfl
@[simp] theorem updTarget_err (c t : Nat) (f : FTarget → FTarget) (s : State) : (updTarget c t f s).err = s.err := rfl
@[simp] theorem updTarget_regs (c t : Nat) (f : FTarget → FTarget) (s : State) : (updTarget c t f s).regs = s.regs := rfl
@[simp] theorem updTarget_side (c t : Nat) (f : FTarget → FTarget) (s : State) : (updTarget c t f s).side = s.side := rfl

@[simp] theorem addChg_pending (c : Chg) (s : State) : (addChg c s).pending = s.pending := rfl
@[simp] theorem addChg_free (c : Chg) (s : State) : (addChg c s).free = s.free := rfl
@[simp] theorem addChg_draws (c : Chg) (s : State) : (addChg c s).draws = s.draws := rfl
@[simp] theorem addChg_out (c : Chg) (s : State) : (addChg c s).out = s.out := rfl
@[simp] theorem addChg_clk (c : Chg) (s : State) : (addChg c s).clk = s.clk := rfl
@[simp] theorem addChg_now (c : Chg) (s : State) : (addChg c s).now = s.now := rfl
@[simp] theorem addChg_pwr (c : Chg) (s : State) : (addChg c s).pwr = s.pwr := rfl
@[simp] theorem addChg_boot (c : Chg) (s : State) : (addChg c s).boot = s.boot := rfl
@[simp] theorem addChg_floor (c : Chg) (s : State) : (addChg c s).floor = s.floor := rfl
@[simp] theorem addChg_seqs (c : Chg) (s : State) : (addChg c s).seqs = s.seqs := rfl
@[simp] theorem addChg_freeDesc (c : Chg) (s : State) : (addChg c s).freeDesc = s.freeDesc := rfl
@[simp] theorem addChg_keyHist (c : Chg) (s : State) : (addChg c s).keyHist = s.keyHist := rfl
@[simp] theorem addChg_unusable (c : Chg) (s : State) : (addChg c s).unusable = s.unusable := rfl
@[simp] theorem addChg_doms (c : Chg) (s : State) : (addChg c s).doms = s.doms := rfl
@[simp] theorem addChg_mbx (c : Chg) (s : State) : (addChg c s).mbx = s.mbx := rfl
@[simp] theorem addChg_net (c : Chg) (s : State) : (addChg c s).net = s.net := rfl
@[simp] theorem addChg_fab (c : Chg) (s : State) : (addChg c s).fab = s.fab := rfl
@[simp] theorem addChg_att (c : Chg) (s : State) : (addChg c s).att = s.att := rfl
@[simp] theorem addChg_pfx (c : Chg) (s : State) : (addChg c s).pfx = s.pfx := rfl
@[simp] theorem addChg_cmp (c : Chg) (s : State) : (addChg c s).cmp = s.cmp := rfl
@[simp] theorem addChg_sec (c : Chg) (s : State) : (addChg c s).sec = s.sec := rfl
@[simp] theorem addChg_err (c : Chg) (s : State) : (addChg c s).err = s.err := rfl
@[simp] theorem addChg_regs (c : Chg) (s : State) : (addChg c s).regs = s.regs := rfl
@[simp] theorem addChg_side (c : Chg) (s : State) : (addChg c s).side = s.side := rfl

@[simp] theorem updChg_pending (cid : Nat) (f : Chg → Chg) (s : State) : (updChg cid f s).pending = s.pending := rfl
@[simp] theorem updChg_free (cid : Nat) (f : Chg → Chg) (s : State) : (updChg cid f s).free = s.free := rfl
@[simp] theorem updChg_draws (cid : Nat) (f : Chg → Chg) (s : State) : (updChg cid f s).draws = s.draws := rfl
@[simp] theorem updChg_out (cid : Nat) (f : Chg → Chg) (s : State) : (updChg cid f s).out = s.out := rfl
@[simp] theorem updChg_clk (cid : Nat) (f : Chg → Chg) (s : State) : (updChg cid f s).clk = s.clk := rfl
@[simp] theorem updChg_now (cid : Nat) (f : Chg → Chg) (s : State) : (updChg cid f s).now = s.now := rfl
@[simp] theorem updChg_pwr (cid : Nat) (f : Chg → Chg) (s : State) : (updChg cid f s).pwr = s.pwr := rfl
@[simp] theorem updChg_boot (cid : Nat) (f : Chg → Chg) (s : State) : (updChg cid f s).boot = s.boot := rfl
@[simp] theorem updChg_floor (cid : Nat) (f : Chg → Chg) (s : State) : (updChg cid f s).floor = s.floor := rfl
@[simp] theorem updChg_seqs (cid : Nat) (f : Chg → Chg) (s : State) : (updChg cid f s).seqs = s.seqs := rfl
@[simp] theorem updChg_freeDesc (cid : Nat) (f : Chg → Chg) (s : State) : (updChg cid f s).freeDesc = s.freeDesc := rfl
@[simp] theorem updChg_keyHist (cid : Nat) (f : Chg → Chg) (s : State) : (updChg cid f s).keyHist = s.keyHist := rfl
@[simp] theorem updChg_unusable (cid : Nat) (f : Chg → Chg) (s : State) : (updChg cid f s).unusable = s.unusable := rfl
@[simp] theorem updChg_doms (cid : Nat) (f : Chg → Chg) (s : State) : (updChg cid f s).doms = s.doms := rfl
@[simp] theorem updChg_mbx (cid : Nat) (f : Chg → Chg) (s : State) : (updChg cid f s).mbx = s.mbx := rfl
@[simp] theorem updChg_net (cid : Nat) (f : Chg → Chg) (s : State) : (updChg cid f s).net = s.net := rfl
@[simp] theorem updChg_fab (cid : Nat) (f : Chg → Chg) (s : State) : (updChg cid f s).fab = s.fab := rfl
@[simp] theorem updChg_att (cid : Nat) (f : Chg → Chg) (s : State) : (updChg cid f s).att = s.att := rfl
@[simp] theorem updChg_pfx (cid : Nat) (f : Chg → Chg) (s : State) : (updChg cid f s).pfx = s.pfx := rfl
@[simp] theorem updChg_cmp (cid : Nat) (f : Chg → Chg) (s : State) : (updChg cid f s).cmp = s.cmp := rfl
@[simp] theorem updChg_sec (cid : Nat) (f : Chg → Chg) (s : State) : (updChg cid f s).sec = s.sec := rfl
@[simp] theorem updChg_err (cid : Nat) (f : Chg → Chg) (s : State) : (updChg cid f s).err = s.err := rfl
@[simp] theorem updChg_regs (cid : Nat) (f : Chg → Chg) (s : State) : (updChg cid f s).regs = s.regs := rfl
@[simp] theorem updChg_side (cid : Nat) (f : Chg → Chg) (s : State) : (updChg cid f s).side = s.side := rfl

@[simp] theorem dropChg_pending (cid : Nat) (s : State) : (dropChg cid s).pending = s.pending := rfl
@[simp] theorem dropChg_free (cid : Nat) (s : State) : (dropChg cid s).free = s.free := rfl
@[simp] theorem dropChg_draws (cid : Nat) (s : State) : (dropChg cid s).draws = s.draws := rfl
@[simp] theorem dropChg_out (cid : Nat) (s : State) : (dropChg cid s).out = s.out := rfl
@[simp] theorem dropChg_clk (cid : Nat) (s : State) : (dropChg cid s).clk = s.clk := rfl
@[simp] theorem dropChg_now (cid : Nat) (s : State) : (dropChg cid s).now = s.now := rfl
@[simp] theorem dropChg_pwr (cid : Nat) (s : State) : (dropChg cid s).pwr = s.pwr := rfl
@[simp] theorem dropChg_boot (cid : Nat) (s : State) : (dropChg cid s).boot = s.boot := rfl
@[simp] theorem dropChg_floor (cid : Nat) (s : State) : (dropChg cid s).floor = s.floor := rfl
@[simp] theorem dropChg_seqs (cid : Nat) (s : State) : (dropChg cid s).seqs = s.seqs := rfl
@[simp] theorem dropChg_freeDesc (cid : Nat) (s : State) : (dropChg cid s).freeDesc = s.freeDesc := rfl
@[simp] theorem dropChg_keyHist (cid : Nat) (s : State) : (dropChg cid s).keyHist = s.keyHist := rfl
@[simp] theorem dropChg_unusable (cid : Nat) (s : State) : (dropChg cid s).unusable = s.unusable := rfl
@[simp] theorem dropChg_doms (cid : Nat) (s : State) : (dropChg cid s).doms = s.doms := rfl
@[simp] theorem dropChg_mbx (cid : Nat) (s : State) : (dropChg cid s).mbx = s.mbx := rfl
@[simp] theorem dropChg_net (cid : Nat) (s : State) : (dropChg cid s).net = s.net := rfl
@[simp] theorem dropChg_fab (cid : Nat) (s : State) : (dropChg cid s).fab = s.fab := rfl
@[simp] theorem dropChg_pfx (cid : Nat) (s : State) : (dropChg cid s).pfx = s.pfx := rfl
@[simp] theorem dropChg_cmp (cid : Nat) (s : State) : (dropChg cid s).cmp = s.cmp := rfl
@[simp] theorem dropChg_sec (cid : Nat) (s : State) : (dropChg cid s).sec = s.sec := rfl
@[simp] theorem dropChg_err (cid : Nat) (s : State) : (dropChg cid s).err = s.err := rfl
@[simp] theorem dropChg_regs (cid : Nat) (s : State) : (dropChg cid s).regs = s.regs := rfl
@[simp] theorem dropChg_side (cid : Nat) (s : State) : (dropChg cid s).side = s.side := rfl

@[simp] theorem updClus_pending (c : Nat) (f : Clus → Clus) (s : State) : (updClus c f s).pending = s.pending := rfl
@[simp] theorem updClus_free (c : Nat) (f : Clus → Clus) (s : State) : (updClus c f s).free = s.free := rfl
@[simp] theorem updClus_draws (c : Nat) (f : Clus → Clus) (s : State) : (updClus c f s).draws = s.draws := rfl
@[simp] theorem updClus_out (c : Nat) (f : Clus → Clus) (s : State) : (updClus c f s).out = s.out := rfl
@[simp] theorem updClus_clk (c : Nat) (f : Clus → Clus) (s : State) : (updClus c f s).clk = s.clk := rfl
@[simp] theorem updClus_now (c : Nat) (f : Clus → Clus) (s : State) : (updClus c f s).now = s.now := rfl
@[simp] theorem updClus_pwr (c : Nat) (f : Clus → Clus) (s : State) : (updClus c f s).pwr = s.pwr := rfl
@[simp] theorem updClus_boot (c : Nat) (f : Clus → Clus) (s : State) : (updClus c f s).boot = s.boot := rfl
@[simp] theorem updClus_floor (c : Nat) (f : Clus → Clus) (s : State) : (updClus c f s).floor = s.floor := rfl
@[simp] theorem updClus_seqs (c : Nat) (f : Clus → Clus) (s : State) : (updClus c f s).seqs = s.seqs := rfl
@[simp] theorem updClus_freeDesc (c : Nat) (f : Clus → Clus) (s : State) : (updClus c f s).freeDesc = s.freeDesc := rfl
@[simp] theorem updClus_keyHist (c : Nat) (f : Clus → Clus) (s : State) : (updClus c f s).keyHist = s.keyHist := rfl
@[simp] theorem updClus_unusable (c : Nat) (f : Clus → Clus) (s : State) : (updClus c f s).unusable = s.unusable := rfl
@[simp] theorem updClus_doms (c : Nat) (f : Clus → Clus) (s : State) : (updClus c f s).doms = s.doms := rfl
@[simp] theorem updClus_mbx (c : Nat) (f : Clus → Clus) (s : State) : (updClus c f s).mbx = s.mbx := rfl
@[simp] theorem updClus_net (c : Nat) (f : Clus → Clus) (s : State) : (updClus c f s).net = s.net := rfl
@[simp] theorem updClus_fab (c : Nat) (f : Clus → Clus) (s : State) : (updClus c f s).fab = s.fab := rfl
@[simp] theorem updClus_att (c : Nat) (f : Clus → Clus) (s : State) : (updClus c f s).att = { s.att with clus := putD Clus.idle s.att.clus c (f (clus s c)) } := rfl
@[simp] theorem updClus_mem (c : Nat) (f : Clus → Clus) (s : State) : (updClus c f s).mem = s.mem := rfl
@[simp] theorem updClus_pfx (c : Nat) (f : Clus → Clus) (s : State) : (updClus c f s).pfx = s.pfx := rfl
@[simp] theorem updClus_cmp (c : Nat) (f : Clus → Clus) (s : State) : (updClus c f s).cmp = s.cmp := rfl
@[simp] theorem updClus_sec (c : Nat) (f : Clus → Clus) (s : State) : (updClus c f s).sec = s.sec := rfl
@[simp] theorem updClus_err (c : Nat) (f : Clus → Clus) (s : State) : (updClus c f s).err = s.err := rfl
@[simp] theorem updClus_regs (c : Nat) (f : Clus → Clus) (s : State) : (updClus c f s).regs = s.regs := rfl
@[simp] theorem updClus_side (c : Nat) (f : Clus → Clus) (s : State) : (updClus c f s).side = s.side := rfl

@[simp] theorem setPhase_pending (p : Phase) (s : State) : (setPhase p s).pending = s.pending := rfl
@[simp] theorem setPhase_free (p : Phase) (s : State) : (setPhase p s).free = s.free := rfl
@[simp] theorem setPhase_draws (p : Phase) (s : State) : (setPhase p s).draws = s.draws := rfl
@[simp] theorem setPhase_out (p : Phase) (s : State) : (setPhase p s).out = s.out := rfl
@[simp] theorem setPhase_clk (p : Phase) (s : State) : (setPhase p s).clk = s.clk := rfl
@[simp] theorem setPhase_now (p : Phase) (s : State) : (setPhase p s).now = s.now := rfl
@[simp] theorem setPhase_pwr (p : Phase) (s : State) : (setPhase p s).pwr = s.pwr := rfl
@[simp] theorem setPhase_boot (p : Phase) (s : State) : (setPhase p s).boot = s.boot.upd (fun b => { b with phase := p }) := rfl
@[simp] theorem setPhase_floor (p : Phase) (s : State) : (setPhase p s).floor = s.floor := rfl
@[simp] theorem setPhase_seqs (p : Phase) (s : State) : (setPhase p s).seqs = s.seqs := rfl
@[simp] theorem setPhase_freeDesc (p : Phase) (s : State) : (setPhase p s).freeDesc = s.freeDesc := rfl
@[simp] theorem setPhase_keyHist (p : Phase) (s : State) : (setPhase p s).keyHist = s.keyHist := rfl
@[simp] theorem setPhase_unusable (p : Phase) (s : State) : (setPhase p s).unusable = s.unusable := rfl
@[simp] theorem setPhase_doms (p : Phase) (s : State) : (setPhase p s).doms = s.doms := rfl
@[simp] theorem setPhase_mbx (p : Phase) (s : State) : (setPhase p s).mbx = s.mbx := rfl
@[simp] theorem setPhase_net (p : Phase) (s : State) : (setPhase p s).net = s.net := rfl
@[simp] theorem setPhase_fab (p : Phase) (s : State) : (setPhase p s).fab = s.fab := rfl
@[simp] theorem setPhase_att (p : Phase) (s : State) : (setPhase p s).att = s.att := rfl
@[simp] theorem setPhase_mem (p : Phase) (s : State) : (setPhase p s).mem = s.mem := rfl
@[simp] theorem setPhase_pfx (p : Phase) (s : State) : (setPhase p s).pfx = s.pfx := rfl
@[simp] theorem setPhase_cmp (p : Phase) (s : State) : (setPhase p s).cmp = s.cmp := rfl
@[simp] theorem setPhase_sec (p : Phase) (s : State) : (setPhase p s).sec = s.sec := rfl
@[simp] theorem setPhase_err (p : Phase) (s : State) : (setPhase p s).err = s.err := rfl
@[simp] theorem setPhase_regs (p : Phase) (s : State) : (setPhase p s).regs = s.regs := rfl
@[simp] theorem setPhase_side (p : Phase) (s : State) : (setPhase p s).side = s.side := rfl

/-! ### Status words: a change steps SEQ and nothing else -/

theorem Boot_upd_cases (x : Boot) (f : Boot → Boot) : x.upd f = f x ∨ x.upd f = { f x with seq := (f x).seq.bump } := by
  unfold Boot.upd
  dsimp only
  split
  · exact .inl rfl
  · exact .inr rfl

@[simp] theorem Boot_upd_phase (x : Boot) (f : Boot → Boot) : (x.upd f).phase = (f x).phase :=
  (Boot_upd_cases x f).elim (congrArg Boot.phase) (congrArg Boot.phase)
@[simp] theorem Boot_upd_running (x : Boot) (f : Boot → Boot) : (x.upd f).running = (f x).running :=
  (Boot_upd_cases x f).elim (congrArg Boot.running) (congrArg Boot.running)
@[simp] theorem Boot_upd_t (x : Boot) (f : Boot → Boot) : (x.upd f).t = (f x).t :=
  (Boot_upd_cases x f).elim (congrArg Boot.t) (congrArg Boot.t)
@[simp] theorem Boot_upd_cause (x : Boot) (f : Boot → Boot) : (x.upd f).cause = (f x).cause :=
  (Boot_upd_cases x f).elim (congrArg Boot.cause) (congrArg Boot.cause)
@[simp] theorem Boot_upd_afail (x : Boot) (f : Boot → Boot) : (x.upd f).afail = (f x).afail :=
  (Boot_upd_cases x f).elim (congrArg Boot.afail) (congrArg Boot.afail)
@[simp] theorem Boot_upd_slotb (x : Boot) (f : Boot → Boot) : (x.upd f).slotb = (f x).slotb :=
  (Boot_upd_cases x f).elim (congrArg Boot.slotb) (congrArg Boot.slotb)
@[simp] theorem Boot_upd_bdinv (x : Boot) (f : Boot → Boot) : (x.upd f).bdinv = (f x).bdinv :=
  (Boot_upd_cases x f).elim (congrArg Boot.bdinv) (congrArg Boot.bdinv)
@[simp] theorem Boot_upd_belowmin (x : Boot) (f : Boot → Boot) : (x.upd f).belowmin = (f x).belowmin :=
  (Boot_upd_cases x f).elim (congrArg Boot.belowmin) (congrArg Boot.belowmin)
@[simp] theorem Boot_upd_fuses (x : Boot) (f : Boot → Boot) : (x.upd f).fuses = (f x).fuses :=
  (Boot_upd_cases x f).elim (congrArg Boot.fuses) (congrArg Boot.fuses)
@[simp] theorem Boot_upd_udsLocked (x : Boot) (f : Boot → Boot) : (x.upd f).udsLocked = (f x).udsLocked :=
  (Boot_upd_cases x f).elim (congrArg Boot.udsLocked) (congrArg Boot.udsLocked)
@[simp] theorem Boot_upd_imageOk (x : Boot) (f : Boot → Boot) : (x.upd f).imageOk = (f x).imageOk :=
  (Boot_upd_cases x f).elim (congrArg Boot.imageOk) (congrArg Boot.imageOk)
@[simp] theorem Boot_upd_svn (x : Boot) (f : Boot → Boot) : (x.upd f).svn = (f x).svn :=
  (Boot_upd_cases x f).elim (congrArg Boot.svn) (congrArg Boot.svn)
@[simp] theorem Boot_upd_fwdig (x : Boot) (f : Boot → Boot) : (x.upd f).fwdig = (f x).fwdig :=
  (Boot_upd_cases x f).elim (congrArg Boot.fwdig) (congrArg Boot.fwdig)
@[simp] theorem Boot_upd_board (x : Boot) (f : Boot → Boot) : (x.upd f).board = (f x).board :=
  (Boot_upd_cases x f).elim (congrArg Boot.board) (congrArg Boot.board)
@[simp] theorem Boot_upd_certs (x : Boot) (f : Boot → Boot) : (x.upd f).certs = (f x).certs :=
  (Boot_upd_cases x f).elim (congrArg Boot.certs) (congrArg Boot.certs)
@[simp] theorem Boot_upd_aliasSigned (x : Boot) (f : Boot → Boot) : (x.upd f).aliasSigned = (f x).aliasSigned :=
  (Boot_upd_cases x f).elim (congrArg Boot.aliasSigned) (congrArg Boot.aliasSigned)
@[simp] theorem Boot_upd_flashDone (x : Boot) (f : Boot → Boot) : (x.upd f).flashDone = (f x).flashDone :=
  (Boot_upd_cases x f).elim (congrArg Boot.flashDone) (congrArg Boot.flashDone)
@[simp] theorem Boot_upd_stackWaves (x : Boot) (f : Boot → Boot) : (x.upd f).stackWaves = (f x).stackWaves :=
  (Boot_upd_cases x f).elim (congrArg Boot.stackWaves) (congrArg Boot.stackWaves)
@[simp] theorem Boot_upd_clusWaves (x : Boot) (f : Boot → Boot) : (x.upd f).clusWaves = (f x).clusWaves :=
  (Boot_upd_cases x f).elim (congrArg Boot.clusWaves) (congrArg Boot.clusWaves)
@[simp] theorem Boot_upd_stackSparesUsed (x : Boot) (f : Boot → Boot) : (x.upd f).stackSparesUsed = (f x).stackSparesUsed :=
  (Boot_upd_cases x f).elim (congrArg Boot.stackSparesUsed) (congrArg Boot.stackSparesUsed)
@[simp] theorem Boot_upd_d2dSparesUsed (x : Boot) (f : Boot → Boot) : (x.upd f).d2dSparesUsed = (f x).d2dSparesUsed :=
  (Boot_upd_cases x f).elim (congrArg Boot.d2dSparesUsed) (congrArg Boot.d2dSparesUsed)
@[simp] theorem Boot_upd_portsTrained (x : Boot) (f : Boot → Boot) : (x.upd f).portsTrained = (f x).portsTrained :=
  (Boot_upd_cases x f).elim (congrArg Boot.portsTrained) (congrArg Boot.portsTrained)
@[simp] theorem Boot_upd_chansTrained (x : Boot) (f : Boot → Boot) : (x.upd f).chansTrained = (f x).chansTrained :=
  (Boot_upd_cases x f).elim (congrArg Boot.chansTrained) (congrArg Boot.chansTrained)
@[simp] theorem Boot_upd_xspiHighZ (x : Boot) (f : Boot → Boot) : (x.upd f).xspiHighZ = (f x).xspiHighZ :=
  (Boot_upd_cases x f).elim (congrArg Boot.xspiHighZ) (congrArg Boot.xspiHighZ)
@[simp] theorem Boot_upd_loaded (x : Boot) (f : Boot → Boot) : (x.upd f).loaded = (f x).loaded :=
  (Boot_upd_cases x f).elim (congrArg Boot.loaded) (congrArg Boot.loaded)
@[simp] theorem Boot_upd_pcieUp (x : Boot) (f : Boot → Boot) : (x.upd f).pcieUp = (f x).pcieUp :=
  (Boot_upd_cases x f).elim (congrArg Boot.pcieUp) (congrArg Boot.pcieUp)
@[simp] theorem Boot_upd_pcieWidth (x : Boot) (f : Boot → Boot) : (x.upd f).pcieWidth = (f x).pcieWidth :=
  (Boot_upd_cases x f).elim (congrArg Boot.pcieWidth) (congrArg Boot.pcieWidth)
@[simp] theorem Boot_upd_cfgDefault (x : Boot) (f : Boot → Boot) : (x.upd f).cfgDefault = (f x).cfgDefault :=
  (Boot_upd_cases x f).elim (congrArg Boot.cfgDefault) (congrArg Boot.cfgDefault)

theorem Dom_upd_cases (x : Dom) (f : Dom → Dom) : x.upd f = f x ∨ x.upd f = { f x with tdstSeq := (f x).tdstSeq.bump } := by
  unfold Dom.upd
  dsimp only
  split
  · exact .inl rfl
  · exact .inr rfl

@[simp] theorem Dom_upd_geom (x : Dom) (f : Dom → Dom) : (x.upd f).geom = (f x).geom :=
  (Dom_upd_cases x f).elim (congrArg Dom.geom) (congrArg Dom.geom)
@[simp] theorem Dom_upd_fmt (x : Dom) (f : Dom → Dom) : (x.upd f).fmt = (f x).fmt :=
  (Dom_upd_cases x f).elim (congrArg Dom.fmt) (congrArg Dom.fmt)
@[simp] theorem Dom_upd_tier (x : Dom) (f : Dom → Dom) : (x.upd f).tier = (f x).tier :=
  (Dom_upd_cases x f).elim (congrArg Dom.tier) (congrArg Dom.tier)
@[simp] theorem Dom_upd_halfNow (x : Dom) (f : Dom → Dom) : (x.upd f).halfNow = (f x).halfNow :=
  (Dom_upd_cases x f).elim (congrArg Dom.halfNow) (congrArg Dom.halfNow)
@[simp] theorem Dom_upd_policy (x : Dom) (f : Dom → Dom) : (x.upd f).policy = (f x).policy :=
  (Dom_upd_cases x f).elim (congrArg Dom.policy) (congrArg Dom.policy)
@[simp] theorem Dom_upd_rotary (x : Dom) (f : Dom → Dom) : (x.upd f).rotary = (f x).rotary :=
  (Dom_upd_cases x f).elim (congrArg Dom.rotary) (congrArg Dom.rotary)
@[simp] theorem Dom_upd_rotDig (x : Dom) (f : Dom → Dom) : (x.upd f).rotDig = (f x).rotDig :=
  (Dom_upd_cases x f).elim (congrArg Dom.rotDig) (congrArg Dom.rotDig)
@[simp] theorem Dom_upd_admKey (x : Dom) (f : Dom → Dom) : (x.upd f).admKey = (f x).admKey :=
  (Dom_upd_cases x f).elim (congrArg Dom.admKey) (congrArg Dom.admKey)
@[simp] theorem Dom_upd_sealed (x : Dom) (f : Dom → Dom) : (x.upd f).sealed = (f x).sealed :=
  (Dom_upd_cases x f).elim (congrArg Dom.sealed) (congrArg Dom.sealed)
@[simp] theorem Dom_upd_cfgdig (x : Dom) (f : Dom → Dom) : (x.upd f).cfgdig = (f x).cfgdig :=
  (Dom_upd_cases x f).elim (congrArg Dom.cfgdig) (congrArg Dom.cfgdig)
@[simp] theorem Dom_upd_tdi (x : Dom) (f : Dom → Dom) : (x.upd f).tdi = (f x).tdi :=
  (Dom_upd_cases x f).elim (congrArg Dom.tdi) (congrArg Dom.tdi)
@[simp] theorem Dom_upd_place (x : Dom) (f : Dom → Dom) : (x.upd f).place = (f x).place :=
  (Dom_upd_cases x f).elim (congrArg Dom.place) (congrArg Dom.place)
@[simp] theorem Dom_upd_nextDecay (x : Dom) (f : Dom → Dom) : (x.upd f).nextDecay = (f x).nextDecay :=
  (Dom_upd_cases x f).elim (congrArg Dom.nextDecay) (congrArg Dom.nextDecay)
@[simp] theorem Dom_upd_qpTab (x : Dom) (f : Dom → Dom) : (x.upd f).qpTab = (f x).qpTab :=
  (Dom_upd_cases x f).elim (congrArg Dom.qpTab) (congrArg Dom.qpTab)
@[simp] theorem Dom_upd_staged (x : Dom) (f : Dom → Dom) : (x.upd f).staged = (f x).staged :=
  (Dom_upd_cases x f).elim (congrArg Dom.staged) (congrArg Dom.staged)

theorem Port_upd_cases (x : Port) (f : Port → Port) : x.upd f = f x ∨ x.upd f = { f x with seq := (f x).seq.bump } := by
  unfold Port.upd
  dsimp only
  split
  · exact .inl rfl
  · exact .inr rfl

@[simp] theorem Port_upd_pctl (x : Port) (f : Port → Port) : (x.upd f).pctl = (f x).pctl :=
  (Port_upd_cases x f).elim (congrArg Port.pctl) (congrArg Port.pctl)
@[simp] theorem Port_upd_nbr (x : Port) (f : Port → Port) : (x.upd f).nbr = (f x).nbr :=
  (Port_upd_cases x f).elim (congrArg Port.nbr) (congrArg Port.nbr)
@[simp] theorem Port_upd_state (x : Port) (f : Port → Port) : (x.upd f).state = (f x).state :=
  (Port_upd_cases x f).elim (congrArg Port.state) (congrArg Port.state)
@[simp] theorem Port_upd_pol (x : Port) (f : Port → Port) : (x.upd f).pol = (f x).pol :=
  (Port_upd_cases x f).elim (congrArg Port.pol) (congrArg Port.pol)
@[simp] theorem Port_upd_rev (x : Port) (f : Port → Port) : (x.upd f).rev = (f x).rev :=
  (Port_upd_cases x f).elim (congrArg Port.rev) (congrArg Port.rev)
@[simp] theorem Port_upd_lfen (x : Port) (f : Port → Port) : (x.upd f).lfen = (f x).lfen :=
  (Port_upd_cases x f).elim (congrArg Port.lfen) (congrArg Port.lfen)
@[simp] theorem Port_upd_ldead (x : Port) (f : Port → Port) : (x.upd f).ldead = (f x).ldead :=
  (Port_upd_cases x f).elim (congrArg Port.ldead) (congrArg Port.ldead)
@[simp] theorem Port_upd_fault (x : Port) (f : Port → Port) : (x.upd f).fault = (f x).fault :=
  (Port_upd_cases x f).elim (congrArg Port.fault) (congrArg Port.fault)
@[simp] theorem Port_upd_outLane (x : Port) (f : Port → Port) : (x.upd f).outLane = (f x).outLane :=
  (Port_upd_cases x f).elim (congrArg Port.outLane) (congrArg Port.outLane)
@[simp] theorem Port_upd_retries (x : Port) (f : Port → Port) : (x.upd f).retries = (f x).retries :=
  (Port_upd_cases x f).elim (congrArg Port.retries) (congrArg Port.retries)
@[simp] theorem Port_upd_peerOut (x : Port) (f : Port → Port) : (x.upd f).peerOut = (f x).peerOut :=
  (Port_upd_cases x f).elim (congrArg Port.peerOut) (congrArg Port.peerOut)
@[simp] theorem Port_upd_heard (x : Port) (f : Port → Port) : (x.upd f).heard = (f x).heard :=
  (Port_upd_cases x f).elim (congrArg Port.heard) (congrArg Port.heard)
@[simp] theorem Port_upd_ackq (x : Port) (f : Port → Port) : (x.upd f).ackq = (f x).ackq :=
  (Port_upd_cases x f).elim (congrArg Port.ackq) (congrArg Port.ackq)
@[simp] theorem Port_upd_expedite (x : Port) (f : Port → Port) : (x.upd f).expedite = (f x).expedite :=
  (Port_upd_cases x f).elim (congrArg Port.expedite) (congrArg Port.expedite)
@[simp] theorem Port_upd_queues (x : Port) (f : Port → Port) : (x.upd f).queues = (f x).queues :=
  (Port_upd_cases x f).elim (congrArg Port.queues) (congrArg Port.queues)
@[simp] theorem Port_upd_cursor (x : Port) (f : Port → Port) : (x.upd f).cursor = (f x).cursor :=
  (Port_upd_cases x f).elim (congrArg Port.cursor) (congrArg Port.cursor)
@[simp] theorem Port_upd_ccur (x : Port) (f : Port → Port) : (x.upd f).ccur = (f x).ccur :=
  (Port_upd_cases x f).elim (congrArg Port.ccur) (congrArg Port.ccur)
@[simp] theorem Port_upd_subDef (x : Port) (f : Port → Port) : (x.upd f).subDef = (f x).subDef :=
  (Port_upd_cases x f).elim (congrArg Port.subDef) (congrArg Port.subDef)
@[simp] theorem Port_upd_svcDef (x : Port) (f : Port → Port) : (x.upd f).svcDef = (f x).svcDef :=
  (Port_upd_cases x f).elim (congrArg Port.svcDef) (congrArg Port.svcDef)
@[simp] theorem Port_upd_tdDef (x : Port) (f : Port → Port) : (x.upd f).tdDef = (f x).tdDef :=
  (Port_upd_cases x f).elim (congrArg Port.tdDef) (congrArg Port.tdDef)
@[simp] theorem Port_upd_credit (x : Port) (f : Port → Port) : (x.upd f).credit = (f x).credit :=
  (Port_upd_cases x f).elim (congrArg Port.credit) (congrArg Port.credit)
@[simp] theorem Port_upd_creditAt (x : Port) (f : Port → Port) : (x.upd f).creditAt = (f x).creditAt :=
  (Port_upd_cases x f).elim (congrArg Port.creditAt) (congrArg Port.creditAt)
@[simp] theorem Port_upd_qmax (x : Port) (f : Port → Port) : (x.upd f).qmax = (f x).qmax :=
  (Port_upd_cases x f).elim (congrArg Port.qmax) (congrArg Port.qmax)
@[simp] theorem Port_upd_waiting (x : Port) (f : Port → Port) : (x.upd f).waiting = (f x).waiting :=
  (Port_upd_cases x f).elim (congrArg Port.waiting) (congrArg Port.waiting)

theorem Zph_upd_cases (x : Zph) (f : Zph → Zph) : x.upd f = f x ∨ x.upd f = { f x with seq := (f x).seq.bump } := by
  unfold Zph.upd
  dsimp only
  split
  · exact .inl rfl
  · exact .inr rfl

@[simp] theorem Zph_upd_good (x : Zph) (f : Zph → Zph) : (x.upd f).good = (f x).good :=
  (Zph_upd_cases x f).elim (congrArg Zph.good) (congrArg Zph.good)
@[simp] theorem Zph_upd_fenced (x : Zph) (f : Zph → Zph) : (x.upd f).fenced = (f x).fenced :=
  (Zph_upd_cases x f).elim (congrArg Zph.fenced) (congrArg Zph.fenced)
@[simp] theorem Zph_upd_td (x : Zph) (f : Zph → Zph) : (x.upd f).td = (f x).td :=
  (Zph_upd_cases x f).elim (congrArg Zph.td) (congrArg Zph.td)
@[simp] theorem Zph_upd_last (x : Zph) (f : Zph → Zph) : (x.upd f).last = (f x).last :=
  (Zph_upd_cases x f).elim (congrArg Zph.last) (congrArg Zph.last)
@[simp] theorem Zph_upd_recov (x : Zph) (f : Zph → Zph) : (x.upd f).recov = (f x).recov :=
  (Zph_upd_cases x f).elim (congrArg Zph.recov) (congrArg Zph.recov)
@[simp] theorem Zph_upd_samples (x : Zph) (f : Zph → Zph) : (x.upd f).samples = (f x).samples :=
  (Zph_upd_cases x f).elim (congrArg Zph.samples) (congrArg Zph.samples)
@[simp] theorem Zph_upd_active (x : Zph) (f : Zph → Zph) : (x.upd f).active = (f x).active :=
  (Zph_upd_cases x f).elim (congrArg Zph.active) (congrArg Zph.active)
@[simp] theorem Zph_upd_rowStore (x : Zph) (f : Zph → Zph) : (x.upd f).rowStore = (f x).rowStore :=
  (Zph_upd_cases x f).elim (congrArg Zph.rowStore) (congrArg Zph.rowStore)
@[simp] theorem Zph_upd_acc (x : Zph) (f : Zph → Zph) : (x.upd f).acc = (f x).acc :=
  (Zph_upd_cases x f).elim (congrArg Zph.acc) (congrArg Zph.acc)
@[simp] theorem Zph_upd_buf (x : Zph) (f : Zph → Zph) : (x.upd f).buf = (f x).buf :=
  (Zph_upd_cases x f).elim (congrArg Zph.buf) (congrArg Zph.buf)

end Sys2Proof.Machine
end

