-- ==== Sys2Proof/Laws/Tables.lean ====
section
/-! SUPPORT. Reads after writes of the keyed tables, and of the records of the state that stand in them. -/

namespace Sys2Proof.Machine

theorem look_put_same {α : Type} (t : List (Nat × α)) (k : Nat) (v : α) : look (put t k v) k = some v := by
  induction t with
  | nil => simp [put, look]
  | cons c t ih =>
    obtain ⟨a, b⟩ := c
    simp only [put]
    split
    · simp [look]
    · split
      · simp [look]
      · next h => simp [look, Ne.symm h, ih]

theorem look_put_ne {α : Type} (t : List (Nat × α)) (k j : Nat) (v : α) (h : j ≠ k) : look (put t k v) j = look t j := by
  induction t with
  | nil => simp [put, look, Ne.symm h]
  | cons c t ih =>
    obtain ⟨a, b⟩ := c
    simp only [put]
    split
    · simp [look, Ne.symm h]
    · split
      · next hk => subst hk; simp [look, Ne.symm h]
      · simp only [look, ih]

theorem look_rem_same {α : Type} (t : List (Nat × α)) (k : Nat) : look (rem t k) k = none := by
  induction t with
  | nil => rfl
  | cons c t ih =>
    obtain ⟨a, b⟩ := c
    by_cases h : a = k
    · subst h; simpa [rem] using ih
    · simpa [rem, h, look] using ih

theorem look_rem_ne {α : Type} (t : List (Nat × α)) (k j : Nat) (h : j ≠ k) : look (rem t k) j = look t j := by
  induction t with
  | nil => rfl
  | cons c t ih =>
    obtain ⟨a, b⟩ := c
    by_cases hk : a = k
    · subst hk; simpa [rem, look, Ne.symm h] using ih
    · simp only [rem] at ih
      simp [rem, hk, look, ih]

@[simp] theorem lookD_putD_same {α : Type} [DecidableEq α] (d : α) (t : List (Nat × α)) (k : Nat) (v : α) :
    lookD d (putD d t k v) k = v := by
  unfold lookD putD
  split
  · next h => simp [look_rem_same, h]
  · simp [look_put_same]

theorem lookD_putD_ne {α : Type} [DecidableEq α] (d : α) (t : List (Nat × α)) (k j : Nat) (v : α) (h : j ≠ k) :
    lookD d (putD d t k v) j = lookD d t j := by
  unfold lookD putD
  split
  · simp [look_rem_ne _ _ _ h]
  · simp [look_put_ne _ _ _ _ h]

theorem look_modify_same {α : Type} (t : List (Nat × α)) (k : Nat) (f : α → α) : look (modify t k f) k = (look t k).map f := by
  induction t with
  | nil => rfl
  | cons c t ih =>
    obtain ⟨a, b⟩ := c
    simp only [modify] at ih
    by_cases h : a = k
    · simp [modify, look, h]
    · simp [modify, look, h, ih]

theorem look_modify_ne {α : Type} (t : List (Nat × α)) (k j : Nat) (f : α → α) (h : j ≠ k) : look (modify t k f) j = look t j := by
  induction t with
  | nil => rfl
  | cons c t ih =>
    obtain ⟨a, b⟩ := c
    simp only [modify] at ih
    by_cases hk : a = k
    · subst hk; simp [modify, look, Ne.symm h, ih]
    · simp [modify, look, hk, ih]

/-! ### Records of the state -/

@[simp] theorem dom_setDom_same (td : Nat) (d : Dom) (s : State) : dom (setDom td d s) td = d := lookD_putD_same _ _ _ _

theorem dom_setDom_ne (td td' : Nat) (d : Dom) (s : State) (h : td' ≠ td) : dom (setDom td d s) td' = dom s td' := lookD_putD_ne _ _ _ _ _ h

@[simp] theorem dom_updDom_same (td : Nat) (f : Dom → Dom) (s : State) : dom (updDom td f s) td = f (dom s td) := lookD_putD_same _ _ _ _

theorem dom_updDom_ne (td td' : Nat) (f : Dom → Dom) (s : State) (h : td' ≠ td) : dom (updDom td f s) td' = dom s td' := lookD_putD_ne _ _ _ _ _ h

@[simp] theorem chan_setChan_same (c : Nat) (x : Chan) (s : State) : chan (setChan c x s) c = x := lookD_putD_same _ _ _ _

theorem chan_setChan_ne (c c' : Nat) (x : Chan) (s : State) (h : c' ≠ c) : chan (setChan c x s) c' = chan s c' := lookD_putD_ne _ _ _ _ _ h

@[simp] theorem chan_updChan_same (c : Nat) (f : Chan → Chan) (s : State) : chan (updChan c f s) c = f (chan s c) := lookD_putD_same _ _ _ _

theorem chan_updChan_ne (c c' : Nat) (f : Chan → Chan) (s : State) (h : c' ≠ c) : chan (updChan c f s) c' = chan s c' := lookD_putD_ne _ _ _ _ _ h

@[simp] theorem port_setPort_same (p : Nat) (x : Port) (s : State) : port (setPort p x s) p = x := lookD_putD_same _ _ _ _

theorem port_setPort_ne (p p' : Nat) (x : Port) (s : State) (h : p' ≠ p) : port (setPort p x s) p' = port s p' := lookD_putD_ne _ _ _ _ _ h

@[simp] theorem port_updPort_same (p : Nat) (f : Port → Port) (s : State) : port (updPort p f s) p = f (port s p) := lookD_putD_same _ _ _ _

theorem port_updPort_ne (p p' : Nat) (f : Port → Port) (s : State) (h : p' ≠ p) : port (updPort p f s) p' = port s p' := lookD_putD_ne _ _ _ _ _ h

@[simp] theorem ch_updCh_same (c : Nat) (f : Ch → Ch) (s : State) : ch (updCh c f s) c = f (ch s c) := lookD_putD_same _ _ _ _

theorem ch_updCh_ne (c c' : Nat) (f : Ch → Ch) (s : State) (h : c' ≠ c) : ch (updCh c f s) c' = ch s c' := lookD_putD_ne _ _ _ _ _ h

@[simp] theorem clus_updClus_same (c : Nat) (f : Clus → Clus) (s : State) : clus (updClus c f s) c = f (clus s c) := lookD_putD_same _ _ _ _

theorem clus_updClus_ne (c c' : Nat) (f : Clus → Clus) (s : State) (h : c' ≠ c) : clus (updClus c f s) c' = clus s c' := lookD_putD_ne _ _ _ _ _ h

@[simp] theorem seqQ_setSeq_same (d : SeqD) (s : State) : seq? (setSeq d s) d.td d.seqn = some d := look_put_same _ _ _

theorem seqQ_setSeq_ne (d : SeqD) (td seqn : Nat) (s : State) (h : seqKey td seqn ≠ seqKey d.td d.seqn) :
    seq? (setSeq d s) td seqn = seq? s td seqn := look_put_ne _ _ _ _ h

@[simp] theorem seqQ_updSeq_same (td seqn : Nat) (f : SeqD → SeqD) (s : State) : seq? (updSeq td seqn f s) td seqn = (seq? s td seqn).map f :=
  look_modify_same _ _ _

theorem seqQ_updSeq_ne (td seqn td' seqn' : Nat) (f : SeqD → SeqD) (s : State) (h : seqKey td' seqn' ≠ seqKey td seqn) :
    seq? (updSeq td seqn f s) td' seqn' = seq? s td' seqn' := look_modify_ne _ _ _ _ h

@[simp] theorem seqQ_dropSeq_same (td seqn : Nat) (s : State) : seq? (dropSeq td seqn s) td seqn = none := look_rem_same _ _

@[simp] theorem extQ_setExt_same (e : Nat) (x : Ext) (s : State) : ext? (setExt e x s) e = some x := look_put_same _ _ _

@[simp] theorem extQ_updExt_same (e : Nat) (f : Ext → Ext) (s : State) : ext? (updExt e f s) e = (ext? s e).map f := look_modify_same _ _ _

/-- A counter's new value (R661). -/
theorem ctr_bumpBy_same (off n : Nat) (s : State) :
    lookD 0 (bumpBy off n s).regs.ctr off
      = min (lookD 0 s.regs.ctr off + n) (if 0x170000 ≤ off then 0xFFFFFFFFFFFFFFFF else 0xFFFFFFFF) := lookD_putD_same _ _ _ _

theorem ctr_bumpBy_ne (off off' n : Nat) (s : State) (h : off' ≠ off) :
    lookD 0 (bumpBy off n s).regs.ctr off' = lookD 0 s.regs.ctr off' := lookD_putD_ne _ _ _ _ _ h

/-! ### Commands -/

/-- A command row runs its effect on the command that starts. -/
theorem runCmd_some {s : State} {c code : Nat} {x : Cmd} (h : nextCmd s c code = some x) (f : Cmd → State → State) :
    runCmd c code f s = f x s := by simp only [runCmd, h]

theorem runCmd_none {s : State} {c code : Nat} (h : nextCmd s c code = none) (f : Cmd → State → State) : runCmd c code f s = s := by
  simp only [runCmd, h]

end Sys2Proof.Machine
end

