-- ==== Sys2Proof/Laws/Ops.lean ====
section
/-! SUPPORT. What the shared operations of the mailboxes, interrupts and error records leave as it was. -/

namespace Sys2Proof.Machine

set_option linter.unusedTactic false
set_option linter.unreachableTactic false
set_option linter.unusedVariables false

/-- What every step of a fold leaves, the fold leaves. -/
theorem foldl_same {α β : Type} (p : State → β) (g : State → α → State) (hg : ∀ s a, p (g s a) = p s) (l : List α) :
    ∀ s, p (l.foldl g s) = p s := by
  induction l with
  | nil => intro s; rfl
  | cons a t ih => intro s; exact (ih _).trans (hg s a)

@[simp] theorem dmaOut_pending (fn : Nat) (o : Out) (s : State) : (dmaOut fn o s).pending = s.pending := by
  unfold dmaOut
  (try dsimp only)
  (repeat' split) <;> simp

@[simp] theorem dmaOut_free (fn : Nat) (o : Out) (s : State) : (dmaOut fn o s).free = s.free := by
  unfold dmaOut
  (try dsimp only)
  (repeat' split) <;> simp

@[simp] theorem dmaOut_draws (fn : Nat) (o : Out) (s : State) : (dmaOut fn o s).draws = s.draws := by
  unfold dmaOut
  (try dsimp only)
  (repeat' split) <;> simp

@[simp] theorem dmaOut_clk (fn : Nat) (o : Out) (s : State) : (dmaOut fn o s).clk = s.clk := by
  unfold dmaOut
  (try dsimp only)
  (repeat' split) <;> simp

@[simp] theorem dmaOut_now (fn : Nat) (o : Out) (s : State) : (dmaOut fn o s).now = s.now := by
  unfold dmaOut
  (try dsimp only)
  (repeat' split) <;> simp

@[simp] theorem dmaOut_pwr (fn : Nat) (o : Out) (s : State) : (dmaOut fn o s).pwr = s.pwr := by
  unfold dmaOut
  (try dsimp only)
  (repeat' split) <;> simp

@[simp] theorem dmaOut_boot (fn : Nat) (o : Out) (s : State) : (dmaOut fn o s).boot = s.boot := by
  unfold dmaOut
  (try dsimp only)
  (repeat' split) <;> simp

@[simp] theorem dmaOut_floor (fn : Nat) (o : Out) (s : State) : (dmaOut fn o s).floor = s.floor := by
  unfold dmaOut
  (try dsimp only)
  (repeat' split) <;> simp

@[simp] theorem dmaOut_seqs (fn : Nat) (o : Out) (s : State) : (dmaOut fn o s).seqs = s.seqs := by
  unfold dmaOut
  (try dsimp only)
  (repeat' split) <;> simp

@[simp] theorem dmaOut_freeDesc (fn : Nat) (o : Out) (s : State) : (dmaOut fn o s).freeDesc = s.freeDesc := by
  unfold dmaOut
  (try dsimp only)
  (repeat' split) <;> simp

@[simp] theorem dmaOut_keyHist (fn : Nat) (o : Out) (s : State) : (dmaOut fn o s).keyHist = s.keyHist := by
  unfold dmaOut
  (try dsimp only)
  (repeat' split) <;> simp

@[simp] theorem dmaOut_unusable (fn : Nat) (o : Out) (s : State) : (dmaOut fn o s).unusable = s.unusable := by
  unfold dmaOut
  (try dsimp only)
  (repeat' split) <;> simp

@[simp] theorem dmaOut_doms (fn : Nat) (o : Out) (s : State) : (dmaOut fn o s).doms = s.doms := by
  unfold dmaOut
  (try dsimp only)
  (repeat' split) <;> simp

@[simp] theorem dmaOut_mbx (fn : Nat) (o : Out) (s : State) : (dmaOut fn o s).mbx = s.mbx := by
  unfold dmaOut
  (try dsimp only)
  (repeat' split) <;> simp

@[simp] theorem dmaOut_net (fn : Nat) (o : Out) (s : State) : (dmaOut fn o s).net = s.net := by
  unfold dmaOut
  (try dsimp only)
  (repeat' split) <;> simp

@[simp] theorem dmaOut_fab (fn : Nat) (o : Out) (s : State) : (dmaOut fn o s).fab = s.fab := by
  unfold dmaOut
  (try dsimp only)
  (repeat' split) <;> simp

@[simp] theorem dmaOut_att (fn : Nat) (o : Out) (s : State) : (dmaOut fn o s).att = s.att := by
  unfold dmaOut
  (try dsimp only)
  (repeat' split) <;> simp

@[simp] theorem dmaOut_mem (fn : Nat) (o : Out) (s : State) : (dmaOut fn o s).mem = s.mem := by
  unfold dmaOut
  (try dsimp only)
  (repeat' split) <;> simp

@[simp] theorem dmaOut_pfx (fn : Nat) (o : Out) (s : State) : (dmaOut fn o s).pfx = s.pfx := by
  unfold dmaOut
  (try dsimp only)
  (repeat' split) <;> simp

@[simp] theorem dmaOut_cmp (fn : Nat) (o : Out) (s : State) : (dmaOut fn o s).cmp = s.cmp := by
  unfold dmaOut
  (try dsimp only)
  (repeat' split) <;> simp

@[simp] theorem dmaOut_sec (fn : Nat) (o : Out) (s : State) : (dmaOut fn o s).sec = s.sec := by
  unfold dmaOut
  (try dsimp only)
  (repeat' split) <;> simp

@[simp] theorem dmaOut_err (fn : Nat) (o : Out) (s : State) : (dmaOut fn o s).err = s.err := by
  unfold dmaOut
  (try dsimp only)
  (repeat' split) <;> simp

@[simp] theorem dmaOut_regs (fn : Nat) (o : Out) (s : State) : (dmaOut fn o s).regs = s.regs := by
  unfold dmaOut
  (try dsimp only)
  (repeat' split) <;> simp

@[simp] theorem dmaOut_side (fn : Nat) (o : Out) (s : State) : (dmaOut fn o s).side = s.side := by
  unfold dmaOut
  (try dsimp only)
  (repeat' split) <;> simp

@[simp] theorem msix_pending (fn v : Nat) (s : State) : (msix fn v s).pending = s.pending := by
  unfold msix
  (try dsimp only)
  (repeat' split) <;> simp

@[simp] theorem msix_free (fn v : Nat) (s : State) : (msix fn v s).free = s.free := by
  unfold msix
  (try dsimp only)
  (repeat' split) <;> simp

@[simp] theorem msix_draws (fn v : Nat) (s : State) : (msix fn v s).draws = s.draws := by
  unfold msix
  (try dsimp only)
  (repeat' split) <;> simp

@[simp] theorem msix_clk (fn v : Nat) (s : State) : (msix fn v s).clk = s.clk := by
  unfold msix
  (try dsimp only)
  (repeat' split) <;> simp

@[simp] theorem msix_now (fn v : Nat) (s : State) : (msix fn v s).now = s.now := by
  unfold msix
  (try dsimp only)
  (repeat' split) <;> simp

@[simp] theorem msix_pwr (fn v : Nat) (s : State) : (msix fn v s).pwr = s.pwr := by
  unfold msix
  (try dsimp only)
  (repeat' split) <;> simp

@[simp] theorem msix_boot (fn v : Nat) (s : State) : (msix fn v s).boot = s.boot := by
  unfold msix
  (try dsimp only)
  (repeat' split) <;> simp

@[simp] theorem msix_floor (fn v : Nat) (s : State) : (msix fn v s).floor = s.floor := by
  unfold msix
  (try dsimp only)
  (repeat' split) <;> simp

@[simp] theorem msix_seqs (fn v : Nat) (s : State) : (msix fn v s).seqs = s.seqs := by
  unfold msix
  (try dsimp only)
  (repeat' split) <;> simp

@[simp] theorem msix_freeDesc (fn v : Nat) (s : State) : (msix fn v s).freeDesc = s.freeDesc := by
  unfold msix
  (try dsimp only)
  (repeat' split) <;> simp

@[simp] theorem msix_keyHist (fn v : Nat) (s : State) : (msix fn v s).keyHist = s.keyHist := by
  unfold msix
  (try dsimp only)
  (repeat' split) <;> simp

@[simp] theorem msix_unusable (fn v : Nat) (s : State) : (msix fn v s).unusable = s.unusable := by
  unfold msix
  (try dsimp only)
  (repeat' split) <;> simp

@[simp] theorem msix_doms (fn v : Nat) (s : State) : (msix fn v s).doms = s.doms := by
  unfold msix
  (try dsimp only)
  (repeat' split) <;> simp

@[simp] theorem msix_mbx (fn v : Nat) (s : State) : (msix fn v s).mbx = s.mbx := by
  unfold msix
  (try dsimp only)
  (repeat' split) <;> simp

@[simp] theorem msix_net (fn v : Nat) (s : State) : (msix fn v s).net = s.net := by
  unfold msix
  (try dsimp only)
  (repeat' split) <;> simp

@[simp] theorem msix_fab (fn v : Nat) (s : State) : (msix fn v s).fab = s.fab := by
  unfold msix
  (try dsimp only)
  (repeat' split) <;> simp

@[simp] theorem msix_att (fn v : Nat) (s : State) : (msix fn v s).att = s.att := by
  unfold msix
  (try dsimp only)
  (repeat' split) <;> simp

@[simp] theorem msix_mem (fn v : Nat) (s : State) : (msix fn v s).mem = s.mem := by
  unfold msix
  (try dsimp only)
  (repeat' split) <;> simp

@[simp] theorem msix_pfx (fn v : Nat) (s : State) : (msix fn v s).pfx = s.pfx := by
  unfold msix
  (try dsimp only)
  (repeat' split) <;> simp

@[simp] theorem msix_cmp (fn v : Nat) (s : State) : (msix fn v s).cmp = s.cmp := by
  unfold msix
  (try dsimp only)
  (repeat' split) <;> simp

@[simp] theorem msix_sec (fn v : Nat) (s : State) : (msix fn v s).sec = s.sec := by
  unfold msix
  (try dsimp only)
  (repeat' split) <;> simp

@[simp] theorem msix_err (fn v : Nat) (s : State) : (msix fn v s).err = s.err := by
  unfold msix
  (try dsimp only)
  (repeat' split) <;> simp

@[simp] theorem msix_regs (fn v : Nat) (s : State) : (msix fn v s).regs = s.regs := by
  unfold msix
  (try dsimp only)
  (repeat' split) <;> simp

@[simp] theorem msix_side (fn v : Nat) (s : State) : (msix fn v s).side = s.side := by
  unfold msix
  (try dsimp only)
  (repeat' split) <;> simp

@[simp] theorem signalPf_pending (s : State) : (signalPf s).pending = s.pending := by
  unfold signalPf
  (try dsimp only)
  (repeat' split) <;> simp

@[simp] theorem signalPf_free (s : State) : (signalPf s).free = s.free := by
  unfold signalPf
  (try dsimp only)
  (repeat' split) <;> simp

@[simp] theorem signalPf_draws (s : State) : (signalPf s).draws = s.draws := by
  unfold signalPf
  (try dsimp only)
  (repeat' split) <;> simp

@[simp] theorem signalPf_clk (s : State) : (signalPf s).clk = s.clk := by
  unfold signalPf
  (try dsimp only)
  (repeat' split) <;> simp

@[simp] theorem signalPf_now (s : State) : (signalPf s).now = s.now := by
  unfold signalPf
  (try dsimp only)
  (repeat' split) <;> simp

@[simp] theorem signalPf_pwr (s : State) : (signalPf s).pwr = s.pwr := by
  unfold signalPf
  (try dsimp only)
  (repeat' split) <;> simp

@[simp] theorem signalPf_boot (s : State) : (signalPf s).boot = s.boot := by
  unfold signalPf
  (try dsimp only)
  (repeat' split) <;> simp

@[simp] theorem signalPf_floor (s : State) : (signalPf s).floor = s.floor := by
  unfold signalPf
  (try dsimp only)
  (repeat' split) <;> simp

@[simp] theorem signalPf_seqs (s : State) : (signalPf s).seqs = s.seqs := by
  unfold signalPf
  (try dsimp only)
  (repeat' split) <;> simp

@[simp] theorem signalPf_freeDesc (s : State) : (signalPf s).freeDesc = s.freeDesc := by
  unfold signalPf
  (try dsimp only)
  (repeat' split) <;> simp

@[simp] theorem signalPf_keyHist (s : State) : (signalPf s).keyHist = s.keyHist := by
  unfold signalPf
  (try dsimp only)
  (repeat' split) <;> simp

@[simp] theorem signalPf_unusable (s : State) : (signalPf s).unusable = s.unusable := by
  unfold signalPf
  (try dsimp only)
  (repeat' split) <;> simp

@[simp] theorem signalPf_doms (s : State) : (signalPf s).doms = s.doms := by
  unfold signalPf
  (try dsimp only)
  (repeat' split) <;> simp

@[simp] theorem signalPf_mbx (s : State) : (signalPf s).mbx = s.mbx := by
  unfold signalPf
  (try dsimp only)
  (repeat' split) <;> simp

@[simp] theorem signalPf_net (s : State) : (signalPf s).net = s.net := by
  unfold signalPf
  (try dsimp only)
  (repeat' split) <;> simp

@[simp] theorem signalPf_fab (s : State) : (signalPf s).fab = s.fab := by
  unfold signalPf
  (try dsimp only)
  (repeat' split) <;> simp

@[simp] theorem signalPf_att (s : State) : (signalPf s).att = s.att := by
  unfold signalPf
  (try dsimp only)
  (repeat' split) <;> simp

@[simp] theorem signalPf_mem (s : State) : (signalPf s).mem = s.mem := by
  unfold signalPf
  (try dsimp only)
  (repeat' split) <;> simp

@[simp] theorem signalPf_pfx (s : State) : (signalPf s).pfx = s.pfx := by
  unfold signalPf
  (try dsimp only)
  (repeat' split) <;> simp

@[simp] theorem signalPf_cmp (s : State) : (signalPf s).cmp = s.cmp := by
  unfold signalPf
  (try dsimp only)
  (repeat' split) <;> simp

@[simp] theorem signalPf_sec (s : State) : (signalPf s).sec = s.sec := by
  unfold signalPf
  (try dsimp only)
  (repeat' split) <;> simp

@[simp] theorem signalPf_regs (s : State) : (signalPf s).regs = s.regs := by
  unfold signalPf
  (try dsimp only)
  (repeat' split) <;> simp

@[simp] theorem signalPf_side (s : State) : (signalPf s).side = s.side := by
  unfold signalPf
  (try dsimp only)
  (repeat' split) <;> simp

@[simp] theorem sidebandSend_pending (b : Nat) (s : State) : (sidebandSend b s).pending = s.pending := by
  unfold sidebandSend
  (try dsimp only)
  (repeat' split) <;> simp

@[simp] theorem sidebandSend_free (b : Nat) (s : State) : (sidebandSend b s).free = s.free := by
  unfold sidebandSend
  (try dsimp only)
  (repeat' split) <;> simp

@[simp] theorem sidebandSend_draws (b : Nat) (s : State) : (sidebandSend b s).draws = s.draws := by
  unfold sidebandSend
  (try dsimp only)
  (repeat' split) <;> simp

@[simp] theorem sidebandSend_clk (b : Nat) (s : State) : (sidebandSend b s).clk = s.clk := by
  unfold sidebandSend
  (try dsimp only)
  (repeat' split) <;> simp

@[simp] theorem sidebandSend_now (b : Nat) (s : State) : (sidebandSend b s).now = s.now := by
  unfold sidebandSend
  (try dsimp only)
  (repeat' split) <;> simp

@[simp] theorem sidebandSend_pwr (b : Nat) (s : State) : (sidebandSend b s).pwr = s.pwr := by
  unfold sidebandSend
  (try dsimp only)
  (repeat' split) <;> simp

@[simp] theorem sidebandSend_boot (b : Nat) (s : State) : (sidebandSend b s).boot = s.boot := by
  unfold sidebandSend
  (try dsimp only)
  (repeat' split) <;> simp

@[simp] theorem sidebandSend_floor (b : Nat) (s : State) : (sidebandSend b s).floor = s.floor := by
  unfold sidebandSend
  (try dsimp only)
  (repeat' split) <;> simp

@[simp] theorem sidebandSend_seqs (b : Nat) (s : State) : (sidebandSend b s).seqs = s.seqs := by
  unfold sidebandSend
  (try dsimp only)
  (repeat' split) <;> simp

@[simp] theorem sidebandSend_freeDesc (b : Nat) (s : State) : (sidebandSend b s).freeDesc = s.freeDesc := by
  unfold sidebandSend
  (try dsimp only)
  (repeat' split) <;> simp

@[simp] theorem sidebandSend_keyHist (b : Nat) (s : State) : (sidebandSend b s).keyHist = s.keyHist := by
  unfold sidebandSend
  (try dsimp only)
  (repeat' split) <;> simp

@[simp] theorem sidebandSend_unusable (b : Nat) (s : State) : (sidebandSend b s).unusable = s.unusable := by
  unfold sidebandSend
  (try dsimp only)
  (repeat' split) <;> simp

@[simp] theorem sidebandSend_doms (b : Nat) (s : State) : (sidebandSend b s).doms = s.doms := by
  unfold sidebandSend
  (try dsimp only)
  (repeat' split) <;> simp

@[simp] theorem sidebandSend_mbx (b : Nat) (s : State) : (sidebandSend b s).mbx = s.mbx := by
  unfold sidebandSend
  (try dsimp only)
  (repeat' split) <;> simp

@[simp] theorem sidebandSend_net (b : Nat) (s : State) : (sidebandSend b s).net = s.net := by
  unfold sidebandSend
  (try dsimp only)
  (repeat' split) <;> simp

@[simp] theorem sidebandSend_fab (b : Nat) (s : State) : (sidebandSend b s).fab = s.fab := by
  unfold sidebandSend
  (try dsimp only)
  (repeat' split) <;> simp

@[simp] theorem sidebandSend_att (b : Nat) (s : State) : (sidebandSend b s).att = s.att := by
  unfold sidebandSend
  (try dsimp only)
  (repeat' split) <;> simp

@[simp] theorem sidebandSend_mem (b : Nat) (s : State) : (sidebandSend b s).mem = s.mem := by
  unfold sidebandSend
  (try dsimp only)
  (repeat' split) <;> simp

@[simp] theorem sidebandSend_pfx (b : Nat) (s : State) : (sidebandSend b s).pfx = s.pfx := by
  unfold sidebandSend
  (try dsimp only)
  (repeat' split) <;> simp

@[simp] theorem sidebandSend_cmp (b : Nat) (s : State) : (sidebandSend b s).cmp = s.cmp := by
  unfold sidebandSend
  (try dsimp only)
  (repeat' split) <;> simp

@[simp] theorem sidebandSend_sec (b : Nat) (s : State) : (sidebandSend b s).sec = s.sec := by
  unfold sidebandSend
  (try dsimp only)
  (repeat' split) <;> simp

@[simp] theorem sidebandSend_regs (b : Nat) (s : State) : (sidebandSend b s).regs = s.regs := by
  unfold sidebandSend
  (try dsimp only)
  (repeat' split) <;> simp

@[simp] theorem signalSb_pending (b : Nat) (s : State) : (signalSb b s).pending = s.pending := by
  unfold signalSb
  (try dsimp only)
  (repeat' split) <;> simp

@[simp] theorem signalSb_free (b : Nat) (s : State) : (signalSb b s).free = s.free := by
  unfold signalSb
  (try dsimp only)
  (repeat' split) <;> simp

@[simp] theorem signalSb_draws (b : Nat) (s : State) : (signalSb b s).draws = s.draws := by
  unfold signalSb
  (try dsimp only)
  (repeat' split) <;> simp

@[simp] theorem signalSb_clk (b : Nat) (s : State) : (signalSb b s).clk = s.clk := by
  unfold signalSb
  (try dsimp only)
  (repeat' split) <;> simp

@[simp] theorem signalSb_now (b : Nat) (s : State) : (signalSb b s).now = s.now := by
  unfold signalSb
  (try dsimp only)
  (repeat' split) <;> simp

@[simp] theorem signalSb_pwr (b : Nat) (s : State) : (signalSb b s).pwr = s.pwr := by
  unfold signalSb
  (try dsimp only)
  (repeat' split) <;> simp

@[simp] theorem signalSb_boot (b : Nat) (s : State) : (signalSb b s).boot = s.boot := by
  unfold signalSb
  (try dsimp only)
  (repeat' split) <;> simp

@[simp] theorem signalSb_floor (b : Nat) (s : State) : (signalSb b s).floor = s.floor := by
  unfold signalSb
  (try dsimp only)
  (repeat' split) <;> simp

@[simp] theorem signalSb_seqs (b : Nat) (s : State) : (signalSb b s).seqs = s.seqs := by
  unfold signalSb
  (try dsimp only)
  (repeat' split) <;> simp

@[simp] theorem signalSb_freeDesc (b : Nat) (s : State) : (signalSb b s).freeDesc = s.freeDesc := by
  unfold signalSb
  (try dsimp only)
  (repeat' split) <;> simp

@[simp] theorem signalSb_keyHist (b : Nat) (s : State) : (signalSb b s).keyHist = s.keyHist := by
  unfold signalSb
  (try dsimp only)
  (repeat' split) <;> simp

@[simp] theorem signalSb_unusable (b : Nat) (s : State) : (signalSb b s).unusable = s.unusable := by
  unfold signalSb
  (try dsimp only)
  (repeat' split) <;> simp

@[simp] theorem signalSb_doms (b : Nat) (s : State) : (signalSb b s).doms = s.doms := by
  unfold signalSb
  (try dsimp only)
  (repeat' split) <;> simp

@[simp] theorem signalSb_mbx (b : Nat) (s : State) : (signalSb b s).mbx = s.mbx := by
  unfold signalSb
  (try dsimp only)
  (repeat' split) <;> simp

@[simp] theorem signalSb_net (b : Nat) (s : State) : (signalSb b s).net = s.net := by
  unfold signalSb
  (try dsimp only)
  (repeat' split) <;> simp

@[simp] theorem signalSb_fab (b : Nat) (s : State) : (signalSb b s).fab = s.fab := by
  unfold signalSb
  (try dsimp only)
  (repeat' split) <;> simp

@[simp] theorem signalSb_att (b : Nat) (s : State) : (signalSb b s).att = s.att := by
  unfold signalSb
  (try dsimp only)
  (repeat' split) <;> simp

@[simp] theorem signalSb_mem (b : Nat) (s : State) : (signalSb b s).mem = s.mem := by
  unfold signalSb
  (try dsimp only)
  (repeat' split) <;> simp

@[simp] theorem signalSb_pfx (b : Nat) (s : State) : (signalSb b s).pfx = s.pfx := by
  unfold signalSb
  (try dsimp only)
  (repeat' split) <;> simp

@[simp] theorem signalSb_cmp (b : Nat) (s : State) : (signalSb b s).cmp = s.cmp := by
  unfold signalSb
  (try dsimp only)
  (repeat' split) <;> simp

@[simp] theorem signalSb_sec (b : Nat) (s : State) : (signalSb b s).sec = s.sec := by
  unfold signalSb
  (try dsimp only)
  (repeat' split) <;> simp

@[simp] theorem signalSb_regs (b : Nat) (s : State) : (signalSb b s).regs = s.regs := by
  unfold signalSb
  (try dsimp only)
  (repeat' split) <;> simp

@[simp] theorem mbxEvent_pending (c bit : Nat) (s : State) : (mbxEvent c bit s).pending = s.pending := by
  unfold mbxEvent
  (try dsimp only)
  (repeat' split) <;> simp

@[simp] theorem mbxEvent_free (c bit : Nat) (s : State) : (mbxEvent c bit s).free = s.free := by
  unfold mbxEvent
  (try dsimp only)
  (repeat' split) <;> simp

@[simp] theorem mbxEvent_draws (c bit : Nat) (s : State) : (mbxEvent c bit s).draws = s.draws := by
  unfold mbxEvent
  (try dsimp only)
  (repeat' split) <;> simp

@[simp] theorem mbxEvent_clk (c bit : Nat) (s : State) : (mbxEvent c bit s).clk = s.clk := by
  unfold mbxEvent
  (try dsimp only)
  (repeat' split) <;> simp

@[simp] theorem mbxEvent_now (c bit : Nat) (s : State) : (mbxEvent c bit s).now = s.now := by
  unfold mbxEvent
  (try dsimp only)
  (repeat' split) <;> simp

@[simp] theorem mbxEvent_pwr (c bit : Nat) (s : State) : (mbxEvent c bit s).pwr = s.pwr := by
  unfold mbxEvent
  (try dsimp only)
  (repeat' split) <;> simp

@[simp] theorem mbxEvent_boot (c bit : Nat) (s : State) : (mbxEvent c bit s).boot = s.boot := by
  unfold mbxEvent
  (try dsimp only)
  (repeat' split) <;> simp

@[simp] theorem mbxEvent_floor (c bit : Nat) (s : State) : (mbxEvent c bit s).floor = s.floor := by
  unfold mbxEvent
  (try dsimp only)
  (repeat' split) <;> simp

@[simp] theorem mbxEvent_seqs (c bit : Nat) (s : State) : (mbxEvent c bit s).seqs = s.seqs := by
  unfold mbxEvent
  (try dsimp only)
  (repeat' split) <;> simp

@[simp] theorem mbxEvent_freeDesc (c bit : Nat) (s : State) : (mbxEvent c bit s).freeDesc = s.freeDesc := by
  unfold mbxEvent
  (try dsimp only)
  (repeat' split) <;> simp

@[simp] theorem mbxEvent_keyHist (c bit : Nat) (s : State) : (mbxEvent c bit s).keyHist = s.keyHist := by
  unfold mbxEvent
  (try dsimp only)
  (repeat' split) <;> simp

@[simp] theorem mbxEvent_unusable (c bit : Nat) (s : State) : (mbxEvent c bit s).unusable = s.unusable := by
  unfold mbxEvent
  (try dsimp only)
  (repeat' split) <;> simp

@[simp] theorem mbxEvent_doms (c bit : Nat) (s : State) : (mbxEvent c bit s).doms = s.doms := by
  unfold mbxEvent
  (try dsimp only)
  (repeat' split) <;> simp

@[simp] theorem mbxEvent_net (c bit : Nat) (s : State) : (mbxEvent c bit s).net = s.net := by
  unfold mbxEvent
  (try dsimp only)
  (repeat' split) <;> simp

@[simp] theorem mbxEvent_fab (c bit : Nat) (s : State) : (mbxEvent c bit s).fab = s.fab := by
  unfold mbxEvent
  (try dsimp only)
  (repeat' split) <;> simp

@[simp] theorem mbxEvent_att (c bit : Nat) (s : State) : (mbxEvent c bit s).att = s.att := by
  unfold mbxEvent
  (try dsimp only)
  (repeat' split) <;> simp

@[simp] theorem mbxEvent_mem (c bit : Nat) (s : State) : (mbxEvent c bit s).mem = s.mem := by
  unfold mbxEvent
  (try dsimp only)
  (repeat' split) <;> simp

@[simp] theorem mbxEvent_pfx (c bit : Nat) (s : State) : (mbxEvent c bit s).pfx = s.pfx := by
  unfold mbxEvent
  (try dsimp only)
  (repeat' split) <;> simp

@[simp] theorem mbxEvent_cmp (c bit : Nat) (s : State) : (mbxEvent c bit s).cmp = s.cmp := by
  unfold mbxEvent
  (try dsimp only)
  (repeat' split) <;> simp

@[simp] theorem mbxEvent_sec (c bit : Nat) (s : State) : (mbxEvent c bit s).sec = s.sec := by
  unfold mbxEvent
  (try dsimp only)
  (repeat' split) <;> simp

@[simp] theorem mbxEvent_regs (c bit : Nat) (s : State) : (mbxEvent c bit s).regs = s.regs := by
  unfold mbxEvent
  (try dsimp only)
  (repeat' split) <;> simp

@[simp] theorem writeRec_pending (r : Rec) (s : State) : (writeRec r s).pending = s.pending := by
  unfold writeRec
  (try dsimp only)
  (repeat' split) <;> simp

@[simp] theorem writeRec_free (r : Rec) (s : State) : (writeRec r s).free = s.free := by
  unfold writeRec
  (try dsimp only)
  (repeat' split) <;> simp

@[simp] theorem writeRec_draws (r : Rec) (s : State) : (writeRec r s).draws = s.draws := by
  unfold writeRec
  (try dsimp only)
  (repeat' split) <;> simp

@[simp] theorem writeRec_clk (r : Rec) (s : State) : (writeRec r s).clk = s.clk := by
  unfold writeRec
  (try dsimp only)
  (repeat' split) <;> simp

@[simp] theorem writeRec_now (r : Rec) (s : State) : (writeRec r s).now = s.now := by
  unfold writeRec
  (try dsimp only)
  (repeat' split) <;> simp

@[simp] theorem writeRec_pwr (r : Rec) (s : State) : (writeRec r s).pwr = s.pwr := by
  unfold writeRec
  (try dsimp only)
  (repeat' split) <;> simp

@[simp] theorem writeRec_boot (r : Rec) (s : State) : (writeRec r s).boot = s.boot := by
  unfold writeRec
  (try dsimp only)
  (repeat' split) <;> simp

@[simp] theorem writeRec_floor (r : Rec) (s : State) : (writeRec r s).floor = s.floor := by
  unfold writeRec
  (try dsimp only)
  (repeat' split) <;> simp

@[simp] theorem writeRec_seqs (r : Rec) (s : State) : (writeRec r s).seqs = s.seqs := by
  unfold writeRec
  (try dsimp only)
  (repeat' split) <;> simp

@[simp] theorem writeRec_freeDesc (r : Rec) (s : State) : (writeRec r s).freeDesc = s.freeDesc := by
  unfold writeRec
  (try dsimp only)
  (repeat' split) <;> simp

@[simp] theorem writeRec_keyHist (r : Rec) (s : State) : (writeRec r s).keyHist = s.keyHist := by
  unfold writeRec
  (try dsimp only)
  (repeat' split) <;> simp

@[simp] theorem writeRec_unusable (r : Rec) (s : State) : (writeRec r s).unusable = s.unusable := by
  unfold writeRec
  (try dsimp only)
  (repeat' split) <;> simp

@[simp] theorem writeRec_doms (r : Rec) (s : State) : (writeRec r s).doms = s.doms := by
  unfold writeRec
  (try dsimp only)
  (repeat' split) <;> simp

@[simp] theorem writeRec_mbx (r : Rec) (s : State) : (writeRec r s).mbx = s.mbx := by
  unfold writeRec
  (try dsimp only)
  (repeat' split) <;> simp

@[simp] theorem writeRec_net (r : Rec) (s : State) : (writeRec r s).net = s.net := by
  unfold writeRec
  (try dsimp only)
  (repeat' split) <;> simp

@[simp] theorem writeRec_fab (r : Rec) (s : State) : (writeRec r s).fab = s.fab := by
  unfold writeRec
  (try dsimp only)
  (repeat' split) <;> simp

@[simp] theorem writeRec_att (r : Rec) (s : State) : (writeRec r s).att = s.att := by
  unfold writeRec
  (try dsimp only)
  (repeat' split) <;> simp

@[simp] theorem writeRec_mem (r : Rec) (s : State) : (writeRec r s).mem = s.mem := by
  unfold writeRec
  (try dsimp only)
  (repeat' split) <;> simp

@[simp] theorem writeRec_pfx (r : Rec) (s : State) : (writeRec r s).pfx = s.pfx := by
  unfold writeRec
  (try dsimp only)
  (repeat' split) <;> simp

@[simp] theorem writeRec_cmp (r : Rec) (s : State) : (writeRec r s).cmp = s.cmp := by
  unfold writeRec
  (try dsimp only)
  (repeat' split) <;> simp

@[simp] theorem writeRec_sec (r : Rec) (s : State) : (writeRec r s).sec = s.sec := by
  unfold writeRec
  (try dsimp only)
  (repeat' split) <;> simp

@[simp] theorem dropSessions_pending (p : Sess → Bool) (s : State) : (dropSessions p s).pending = s.pending := by
  unfold dropSessions
  exact (foldl_same State.pending _ (fun s a => by split <;> simp) _ _).trans rfl

@[simp] theorem dropSessions_free (p : Sess → Bool) (s : State) : (dropSessions p s).free = s.free := by
  unfold dropSessions
  exact (foldl_same State.free _ (fun s a => by split <;> simp) _ _).trans rfl

@[simp] theorem dropSessions_draws (p : Sess → Bool) (s : State) : (dropSessions p s).draws = s.draws := by
  unfold dropSessions
  exact (foldl_same State.draws _ (fun s a => by split <;> simp) _ _).trans rfl

@[simp] theorem dropSessions_out (p : Sess → Bool) (s : State) : (dropSessions p s).out = s.out := by
  unfold dropSessions
  exact (foldl_same State.out _ (fun s a => by split <;> simp) _ _).trans rfl

@[simp] theorem dropSessions_clk (p : Sess → Bool) (s : State) : (dropSessions p s).clk = s.clk := by
  unfold dropSessions
  exact (foldl_same State.clk _ (fun s a => by split <;> simp) _ _).trans rfl

@[simp] theorem dropSessions_now (p : Sess → Bool) (s : State) : (dropSessions p s).now = s.now := by
  unfold dropSessions
  exact (foldl_same State.now _ (fun s a => by split <;> simp) _ _).trans rfl

@[simp] theorem dropSessions_pwr (p : Sess → Bool) (s : State) : (dropSessions p s).pwr = s.pwr := by
  unfold dropSessions
  exact (foldl_same State.pwr _ (fun s a => by split <;> simp) _ _).trans rfl

@[simp] theorem dropSessions_boot (p : Sess → Bool) (s : State) : (dropSessions p s).boot = s.boot := by
  unfold dropSessions
  exact (foldl_same State.boot _ (fun s a => by split <;> simp) _ _).trans rfl

@[simp] theorem dropSessions_floor (p : Sess → Bool) (s : State) : (dropSessions p s).floor = s.floor := by
  unfold dropSessions
  exact (foldl_same State.floor _ (fun s a => by split <;> simp) _ _).trans rfl

@[simp] theorem dropSessions_seqs (p : Sess → Bool) (s : State) : (dropSessions p s).seqs = s.seqs := by
  unfold dropSessions
  exact (foldl_same State.seqs _ (fun s a => by split <;> simp) _ _).trans rfl

@[simp] theorem dropSessions_freeDesc (p : Sess → Bool) (s : State) : (dropSessions p s).freeDesc = s.freeDesc := by
  unfold dropSessions
  exact (foldl_same State.freeDesc _ (fun s a => by split <;> simp) _ _).trans rfl

@[simp] theorem dropSessions_keyHist (p : Sess → Bool) (s : State) : (dropSessions p s).keyHist = s.keyHist := by
  unfold dropSessions
  exact (foldl_same State.keyHist _ (fun s a => by split <;> simp) _ _).trans rfl

@[simp] theorem dropSessions_unusable (p : Sess → Bool) (s : State) : (dropSessions p s).unusable = s.unusable := by
  unfold dropSessions
  exact (foldl_same State.unusable _ (fun s a => by split <;> simp) _ _).trans rfl

@[simp] theorem dropSessions_doms (p : Sess → Bool) (s : State) : (dropSessions p s).doms = s.doms := by
  unfold dropSessions
  exact (foldl_same State.doms _ (fun s a => by split <;> simp) _ _).trans rfl

@[simp] theorem dropSessions_mbx (p : Sess → Bool) (s : State) : (dropSessions p s).mbx = s.mbx := by
  unfold dropSessions
  exact (foldl_same State.mbx _ (fun s a => by split <;> simp) _ _).trans rfl

@[simp] theorem dropSessions_fab (p : Sess → Bool) (s : State) : (dropSessions p s).fab = s.fab := by
  unfold dropSessions
  exact (foldl_same State.fab _ (fun s a => by split <;> simp) _ _).trans rfl

@[simp] theorem dropSessions_att (p : Sess → Bool) (s : State) : (dropSessions p s).att = s.att := by
  unfold dropSessions
  exact (foldl_same State.att _ (fun s a => by split <;> simp) _ _).trans rfl

@[simp] theorem dropSessions_mem (p : Sess → Bool) (s : State) : (dropSessions p s).mem = s.mem := by
  unfold dropSessions
  exact (foldl_same State.mem _ (fun s a => by split <;> simp) _ _).trans rfl

@[simp] theorem dropSessions_pfx (p : Sess → Bool) (s : State) : (dropSessions p s).pfx = s.pfx := by
  unfold dropSessions
  exact (foldl_same State.pfx _ (fun s a => by split <;> simp) _ _).trans rfl

@[simp] theorem dropSessions_cmp (p : Sess → Bool) (s : State) : (dropSessions p s).cmp = s.cmp := by
  unfold dropSessions
  exact (foldl_same State.cmp _ (fun s a => by split <;> simp) _ _).trans rfl

@[simp] theorem dropSessions_sec (p : Sess → Bool) (s : State) : (dropSessions p s).sec = s.sec := by
  unfold dropSessions
  exact (foldl_same State.sec _ (fun s a => by split <;> simp) _ _).trans rfl

@[simp] theorem dropSessions_err (p : Sess → Bool) (s : State) : (dropSessions p s).err = s.err := by
  unfold dropSessions
  exact (foldl_same State.err _ (fun s a => by split <;> simp) _ _).trans rfl

@[simp] theorem dropSessions_side (p : Sess → Bool) (s : State) : (dropSessions p s).side = s.side := by
  unfold dropSessions
  exact (foldl_same State.side _ (fun s a => by split <;> simp) _ _).trans rfl

@[simp] theorem finish_pending (id status : Nat) (rekeyed : Bool) (rsp : List Byte) (s : State) : (finish id status rekeyed rsp s).pending = s.pending := by
  unfold finish
  (try dsimp only)
  (repeat' split) <;> simp

@[simp] theorem finish_free (id status : Nat) (rekeyed : Bool) (rsp : List Byte) (s : State) : (finish id status rekeyed rsp s).free = s.free := by
  unfold finish
  (try dsimp only)
  (repeat' split) <;> simp

@[simp] theorem finish_draws (id status : Nat) (rekeyed : Bool) (rsp : List Byte) (s : State) : (finish id status rekeyed rsp s).draws = s.draws := by
  unfold finish
  (try dsimp only)
  (repeat' split) <;> simp

@[simp] theorem finish_out (id status : Nat) (rekeyed : Bool) (rsp : List Byte) (s : State) : (finish id status rekeyed rsp s).out = s.out := by
  unfold finish
  (try dsimp only)
  (repeat' split) <;> simp

@[simp] theorem finish_clk (id status : Nat) (rekeyed : Bool) (rsp : List Byte) (s : State) : (finish id status rekeyed rsp s).clk = s.clk := by
  unfold finish
  (try dsimp only)
  (repeat' split) <;> simp

@[simp] theorem finish_now (id status : Nat) (rekeyed : Bool) (rsp : List Byte) (s : State) : (finish id status rekeyed rsp s).now = s.now := by
  unfold finish
  (try dsimp only)
  (repeat' split) <;> simp

@[simp] theorem finish_pwr (id status : Nat) (rekeyed : Bool) (rsp : List Byte) (s : State) : (finish id status rekeyed rsp s).pwr = s.pwr := by
  unfold finish
  (try dsimp only)
  (repeat' split) <;> simp

@[simp] theorem finish_boot (id status : Nat) (rekeyed : Bool) (rsp : List Byte) (s : State) : (finish id status rekeyed rsp s).boot = s.boot := by
  unfold finish
  (try dsimp only)
  (repeat' split) <;> simp

@[simp] theorem finish_floor (id status : Nat) (rekeyed : Bool) (rsp : List Byte) (s : State) : (finish id status rekeyed rsp s).floor = s.floor := by
  unfold finish
  (try dsimp only)
  (repeat' split) <;> simp

@[simp] theorem finish_seqs (id status : Nat) (rekeyed : Bool) (rsp : List Byte) (s : State) : (finish id status rekeyed rsp s).seqs = s.seqs := by
  unfold finish
  (try dsimp only)
  (repeat' split) <;> simp

@[simp] theorem finish_freeDesc (id status : Nat) (rekeyed : Bool) (rsp : List Byte) (s : State) : (finish id status rekeyed rsp s).freeDesc = s.freeDesc := by
  unfold finish
  (try dsimp only)
  (repeat' split) <;> simp

@[simp] theorem finish_keyHist (id status : Nat) (rekeyed : Bool) (rsp : List Byte) (s : State) : (finish id status rekeyed rsp s).keyHist = s.keyHist := by
  unfold finish
  (try dsimp only)
  (repeat' split) <;> simp

@[simp] theorem finish_unusable (id status : Nat) (rekeyed : Bool) (rsp : List Byte) (s : State) : (finish id status rekeyed rsp s).unusable = s.unusable := by
  unfold finish
  (try dsimp only)
  (repeat' split) <;> simp

@[simp] theorem finish_doms (id status : Nat) (rekeyed : Bool) (rsp : List Byte) (s : State) : (finish id status rekeyed rsp s).doms = s.doms := by
  unfold finish
  (try dsimp only)
  (repeat' split) <;> simp

@[simp] theorem finish_net (id status : Nat) (rekeyed : Bool) (rsp : List Byte) (s : State) : (finish id status rekeyed rsp s).net = s.net := by
  unfold finish
  (try dsimp only)
  (repeat' split) <;> simp

@[simp] theorem finish_fab (id status : Nat) (rekeyed : Bool) (rsp : List Byte) (s : State) : (finish id status rekeyed rsp s).fab = s.fab := by
  unfold finish
  (try dsimp only)
  (repeat' split) <;> simp

@[simp] theorem finish_att (id status : Nat) (rekeyed : Bool) (rsp : List Byte) (s : State) : (finish id status rekeyed rsp s).att = s.att := by
  unfold finish
  (try dsimp only)
  (repeat' split) <;> simp

@[simp] theorem finish_mem (id status : Nat) (rekeyed : Bool) (rsp : List Byte) (s : State) : (finish id status rekeyed rsp s).mem = s.mem := by
  unfold finish
  (try dsimp only)
  (repeat' split) <;> simp

@[simp] theorem finish_pfx (id status : Nat) (rekeyed : Bool) (rsp : List Byte) (s : State) : (finish id status rekeyed rsp s).pfx = s.pfx := by
  unfold finish
  (try dsimp only)
  (repeat' split) <;> simp

@[simp] theorem finish_cmp (id status : Nat) (rekeyed : Bool) (rsp : List Byte) (s : State) : (finish id status rekeyed rsp s).cmp = s.cmp := by
  unfold finish
  (try dsimp only)
  (repeat' split) <;> simp

@[simp] theorem finish_sec (id status : Nat) (rekeyed : Bool) (rsp : List Byte) (s : State) : (finish id status rekeyed rsp s).sec = s.sec := by
  unfold finish
  (try dsimp only)
  (repeat' split) <;> simp

@[simp] theorem finish_err (id status : Nat) (rekeyed : Bool) (rsp : List Byte) (s : State) : (finish id status rekeyed rsp s).err = s.err := by
  unfold finish
  (try dsimp only)
  (repeat' split) <;> simp

@[simp] theorem finish_side (id status : Nat) (rekeyed : Bool) (rsp : List Byte) (s : State) : (finish id status rekeyed rsp s).side = s.side := by
  unfold finish
  (try dsimp only)
  (repeat' split) <;> simp

@[simp] theorem finishOk_pending (id : Nat) (rsp : List Byte) (s : State) : (finishOk id rsp s).pending = s.pending := by simp [finishOk]

@[simp] theorem finishOk_free (id : Nat) (rsp : List Byte) (s : State) : (finishOk id rsp s).free = s.free := by simp [finishOk]

@[simp] theorem finishOk_draws (id : Nat) (rsp : List Byte) (s : State) : (finishOk id rsp s).draws = s.draws := by simp [finishOk]

@[simp] theorem finishOk_out (id : Nat) (rsp : List Byte) (s : State) : (finishOk id rsp s).out = s.out := by simp [finishOk]

@[simp] theorem finishOk_clk (id : Nat) (rsp : List Byte) (s : State) : (finishOk id rsp s).clk = s.clk := by simp [finishOk]

@[simp] theorem finishOk_now (id : Nat) (rsp : List Byte) (s : State) : (finishOk id rsp s).now = s.now := by simp [finishOk]

@[simp] theorem finishOk_pwr (id : Nat) (rsp : List Byte) (s : State) : (finishOk id rsp s).pwr = s.pwr := by simp [finishOk]

@[simp] theorem finishOk_boot (id : Nat) (rsp : List Byte) (s : State) : (finishOk id rsp s).boot = s.boot := by simp [finishOk]

@[simp] theorem finishOk_floor (id : Nat) (rsp : List Byte) (s : State) : (finishOk id rsp s).floor = s.floor := by simp [finishOk]

@[simp] theorem finishOk_seqs (id : Nat) (rsp : List Byte) (s : State) : (finishOk id rsp s).seqs = s.seqs := by simp [finishOk]

@[simp] theorem finishOk_freeDesc (id : Nat) (rsp : List Byte) (s : State) : (finishOk id rsp s).freeDesc = s.freeDesc := by simp [finishOk]

@[simp] theorem finishOk_keyHist (id : Nat) (rsp : List Byte) (s : State) : (finishOk id rsp s).keyHist = s.keyHist := by simp [finishOk]

@[simp] theorem finishOk_unusable (id : Nat) (rsp : List Byte) (s : State) : (finishOk id rsp s).unusable = s.unusable := by simp [finishOk]

@[simp] theorem finishOk_doms (id : Nat) (rsp : List Byte) (s : State) : (finishOk id rsp s).doms = s.doms := by simp [finishOk]

@[simp] theorem finishOk_net (id : Nat) (rsp : List Byte) (s : State) : (finishOk id rsp s).net = s.net := by simp [finishOk]

@[simp] theorem finishOk_fab (id : Nat) (rsp : List Byte) (s : State) : (finishOk id rsp s).fab = s.fab := by simp [finishOk]

@[simp] theorem finishOk_att (id : Nat) (rsp : List Byte) (s : State) : (finishOk id rsp s).att = s.att := by simp [finishOk]

@[simp] theorem finishOk_mem (id : Nat) (rsp : List Byte) (s : State) : (finishOk id rsp s).mem = s.mem := by simp [finishOk]

@[simp] theorem finishOk_pfx (id : Nat) (rsp : List Byte) (s : State) : (finishOk id rsp s).pfx = s.pfx := by simp [finishOk]

@[simp] theorem finishOk_cmp (id : Nat) (rsp : List Byte) (s : State) : (finishOk id rsp s).cmp = s.cmp := by simp [finishOk]

@[simp] theorem finishOk_sec (id : Nat) (rsp : List Byte) (s : State) : (finishOk id rsp s).sec = s.sec := by simp [finishOk]

@[simp] theorem finishOk_err (id : Nat) (rsp : List Byte) (s : State) : (finishOk id rsp s).err = s.err := by simp [finishOk]

@[simp] theorem finishOk_side (id : Nat) (rsp : List Byte) (s : State) : (finishOk id rsp s).side = s.side := by simp [finishOk]

@[simp] theorem finishErr_pending (id status : Nat) (s : State) : (finishErr id status s).pending = s.pending := by simp [finishErr]

@[simp] theorem finishErr_free (id status : Nat) (s : State) : (finishErr id status s).free = s.free := by simp [finishErr]

@[simp] theorem finishErr_draws (id status : Nat) (s : State) : (finishErr id status s).draws = s.draws := by simp [finishErr]

@[simp] theorem finishErr_out (id status : Nat) (s : State) : (finishErr id status s).out = s.out := by simp [finishErr]

@[simp] theorem finishErr_clk (id status : Nat) (s : State) : (finishErr id status s).clk = s.clk := by simp [finishErr]

@[simp] theorem finishErr_now (id status : Nat) (s : State) : (finishErr id status s).now = s.now := by simp [finishErr]

@[simp] theorem finishErr_pwr (id status : Nat) (s : State) : (finishErr id status s).pwr = s.pwr := by simp [finishErr]

@[simp] theorem finishErr_boot (id status : Nat) (s : State) : (finishErr id status s).boot = s.boot := by simp [finishErr]

@[simp] theorem finishErr_floor (id status : Nat) (s : State) : (finishErr id status s).floor = s.floor := by simp [finishErr]

@[simp] theorem finishErr_seqs (id status : Nat) (s : State) : (finishErr id status s).seqs = s.seqs := by simp [finishErr]

@[simp] theorem finishErr_freeDesc (id status : Nat) (s : State) : (finishErr id status s).freeDesc = s.freeDesc := by simp [finishErr]

@[simp] theorem finishErr_keyHist (id status : Nat) (s : State) : (finishErr id status s).keyHist = s.keyHist := by simp [finishErr]

@[simp] theorem finishErr_unusable (id status : Nat) (s : State) : (finishErr id status s).unusable = s.unusable := by simp [finishErr]

@[simp] theorem finishErr_doms (id status : Nat) (s : State) : (finishErr id status s).doms = s.doms := by simp [finishErr]

@[simp] theorem finishErr_net (id status : Nat) (s : State) : (finishErr id status s).net = s.net := by simp [finishErr]

@[simp] theorem finishErr_fab (id status : Nat) (s : State) : (finishErr id status s).fab = s.fab := by simp [finishErr]

@[simp] theorem finishErr_att (id status : Nat) (s : State) : (finishErr id status s).att = s.att := by simp [finishErr]

@[simp] theorem finishErr_mem (id status : Nat) (s : State) : (finishErr id status s).mem = s.mem := by simp [finishErr]

@[simp] theorem finishErr_pfx (id status : Nat) (s : State) : (finishErr id status s).pfx = s.pfx := by simp [finishErr]

@[simp] theorem finishErr_cmp (id status : Nat) (s : State) : (finishErr id status s).cmp = s.cmp := by simp [finishErr]

@[simp] theorem finishErr_sec (id status : Nat) (s : State) : (finishErr id status s).sec = s.sec := by simp [finishErr]

@[simp] theorem finishErr_err (id status : Nat) (s : State) : (finishErr id status s).err = s.err := by simp [finishErr]

@[simp] theorem finishErr_side (id status : Nat) (s : State) : (finishErr id status s).side = s.side := by simp [finishErr]

@[simp] theorem keepRunning_pending (id : Nat) (s : State) : (keepRunning id s).pending = s.pending := by simp [keepRunning]

@[simp] theorem keepRunning_free (id : Nat) (s : State) : (keepRunning id s).free = s.free := by simp [keepRunning]

@[simp] theorem keepRunning_draws (id : Nat) (s : State) : (keepRunning id s).draws = s.draws := by simp [keepRunning]

@[simp] theorem keepRunning_out (id : Nat) (s : State) : (keepRunning id s).out = s.out := by simp [keepRunning]

@[simp] theorem keepRunning_clk (id : Nat) (s : State) : (keepRunning id s).clk = s.clk := by simp [keepRunning]

@[simp] theorem keepRunning_now (id : Nat) (s : State) : (keepRunning id s).now = s.now := by simp [keepRunning]

@[simp] theorem keepRunning_pwr (id : Nat) (s : State) : (keepRunning id s).pwr = s.pwr := by simp [keepRunning]

@[simp] theorem keepRunning_boot (id : Nat) (s : State) : (keepRunning id s).boot = s.boot := by simp [keepRunning]

@[simp] theorem keepRunning_floor (id : Nat) (s : State) : (keepRunning id s).floor = s.floor := by simp [keepRunning]

@[simp] theorem keepRunning_seqs (id : Nat) (s : State) : (keepRunning id s).seqs = s.seqs := by simp [keepRunning]

@[simp] theorem keepRunning_freeDesc (id : Nat) (s : State) : (keepRunning id s).freeDesc = s.freeDesc := by simp [keepRunning]

@[simp] theorem keepRunning_keyHist (id : Nat) (s : State) : (keepRunning id s).keyHist = s.keyHist := by simp [keepRunning]

@[simp] theorem keepRunning_unusable (id : Nat) (s : State) : (keepRunning id s).unusable = s.unusable := by simp [keepRunning]

@[simp] theorem keepRunning_doms (id : Nat) (s : State) : (keepRunning id s).doms = s.doms := by simp [keepRunning]

@[simp] theorem keepRunning_net (id : Nat) (s : State) : (keepRunning id s).net = s.net := by simp [keepRunning]

@[simp] theorem keepRunning_fab (id : Nat) (s : State) : (keepRunning id s).fab = s.fab := by simp [keepRunning]

@[simp] theorem keepRunning_att (id : Nat) (s : State) : (keepRunning id s).att = s.att := by simp [keepRunning]

@[simp] theorem keepRunning_mem (id : Nat) (s : State) : (keepRunning id s).mem = s.mem := by simp [keepRunning]

@[simp] theorem keepRunning_pfx (id : Nat) (s : State) : (keepRunning id s).pfx = s.pfx := by simp [keepRunning]

@[simp] theorem keepRunning_cmp (id : Nat) (s : State) : (keepRunning id s).cmp = s.cmp := by simp [keepRunning]

@[simp] theorem keepRunning_sec (id : Nat) (s : State) : (keepRunning id s).sec = s.sec := by simp [keepRunning]

@[simp] theorem keepRunning_err (id : Nat) (s : State) : (keepRunning id s).err = s.err := by simp [keepRunning]

@[simp] theorem keepRunning_regs (id : Nat) (s : State) : (keepRunning id s).regs = s.regs := by simp [keepRunning]

@[simp] theorem keepRunning_side (id : Nat) (s : State) : (keepRunning id s).side = s.side := by simp [keepRunning]

@[simp] theorem countAfterFatal_pending (s : State) : (countAfterFatal s).pending = s.pending := rfl

@[simp] theorem countAfterFatal_free (s : State) : (countAfterFatal s).free = s.free := rfl

@[simp] theorem countAfterFatal_draws (s : State) : (countAfterFatal s).draws = s.draws := rfl

@[simp] theorem countAfterFatal_out (s : State) : (countAfterFatal s).out = s.out := rfl

@[simp] theorem countAfterFatal_clk (s : State) : (countAfterFatal s).clk = s.clk := rfl

@[simp] theorem countAfterFatal_now (s : State) : (countAfterFatal s).now = s.now := rfl

@[simp] theorem countAfterFatal_pwr (s : State) : (countAfterFatal s).pwr = s.pwr := rfl

@[simp] theorem countAfterFatal_boot (s : State) : (countAfterFatal s).boot = s.boot := rfl

@[simp] theorem countAfterFatal_floor (s : State) : (countAfterFatal s).floor = s.floor := rfl

@[simp] theorem countAfterFatal_seqs (s : State) : (countAfterFatal s).seqs = s.seqs := rfl

@[simp] theorem countAfterFatal_freeDesc (s : State) : (countAfterFatal s).freeDesc = s.freeDesc := rfl

@[simp] theorem countAfterFatal_keyHist (s : State) : (countAfterFatal s).keyHist = s.keyHist := rfl

@[simp] theorem countAfterFatal_unusable (s : State) : (countAfterFatal s).unusable = s.unusable := rfl

@[simp] theorem countAfterFatal_doms (s : State) : (countAfterFatal s).doms = s.doms := rfl

@[simp] theorem countAfterFatal_mbx (s : State) : (countAfterFatal s).mbx = s.mbx := rfl

@[simp] theorem countAfterFatal_net (s : State) : (countAfterFatal s).net = s.net := rfl

@[simp] theorem countAfterFatal_fab (s : State) : (countAfterFatal s).fab = s.fab := rfl

@[simp] theorem countAfterFatal_att (s : State) : (countAfterFatal s).att = s.att := rfl

@[simp] theorem countAfterFatal_mem (s : State) : (countAfterFatal s).mem = s.mem := rfl

@[simp] theorem countAfterFatal_pfx (s : State) : (countAfterFatal s).pfx = s.pfx := rfl

@[simp] theorem countAfterFatal_cmp (s : State) : (countAfterFatal s).cmp = s.cmp := rfl

@[simp] theorem countAfterFatal_sec (s : State) : (countAfterFatal s).sec = s.sec := rfl

@[simp] theorem countAfterFatal_regs (s : State) : (countAfterFatal s).regs = s.regs := rfl

@[simp] theorem countAfterFatal_side (s : State) : (countAfterFatal s).side = s.side := rfl

@[simp] theorem channelReset_pending (c : Nat) (s : State) : (channelReset c s).pending = s.pending := by
  unfold channelReset
  (try dsimp only)
  (repeat' split) <;> simp

@[simp] theorem channelReset_free (c : Nat) (s : State) : (channelReset c s).free = s.free := by
  unfold channelReset
  (try dsimp only)
  (repeat' split) <;> simp

@[simp] theorem channelReset_draws (c : Nat) (s : State) : (channelReset c s).draws = s.draws := by
  unfold channelReset
  (try dsimp only)
  (repeat' split) <;> simp

@[simp] theorem channelReset_clk (c : Nat) (s : State) : (channelReset c s).clk = s.clk := by
  unfold channelReset
  (try dsimp only)
  (repeat' split) <;> simp

@[simp] theorem channelReset_now (c : Nat) (s : State) : (channelReset c s).now = s.now := by
  unfold channelReset
  (try dsimp only)
  (repeat' split) <;> simp

@[simp] theorem channelReset_pwr (c : Nat) (s : State) : (channelReset c s).pwr = s.pwr := by
  unfold channelReset
  (try dsimp only)
  (repeat' split) <;> simp

@[simp] theorem channelReset_boot (c : Nat) (s : State) : (channelReset c s).boot = s.boot := by
  unfold channelReset
  (try dsimp only)
  (repeat' split) <;> simp

@[simp] theorem channelReset_floor (c : Nat) (s : State) : (channelReset c s).floor = s.floor := by
  unfold channelReset
  (try dsimp only)
  (repeat' split) <;> simp

@[simp] theorem channelReset_seqs (c : Nat) (s : State) : (channelReset c s).seqs = s.seqs := by
  unfold channelReset
  (try dsimp only)
  (repeat' split) <;> simp

@[simp] theorem channelReset_freeDesc (c : Nat) (s : State) : (channelReset c s).freeDesc = s.freeDesc := by
  unfold channelReset
  (try dsimp only)
  (repeat' split) <;> simp

@[simp] theorem channelReset_keyHist (c : Nat) (s : State) : (channelReset c s).keyHist = s.keyHist := by
  unfold channelReset
  (try dsimp only)
  (repeat' split) <;> simp

@[simp] theorem channelReset_unusable (c : Nat) (s : State) : (channelReset c s).unusable = s.unusable := by
  unfold channelReset
  (try dsimp only)
  (repeat' split) <;> simp

@[simp] theorem channelReset_doms (c : Nat) (s : State) : (channelReset c s).doms = s.doms := by
  unfold channelReset
  (try dsimp only)
  (repeat' split) <;> simp

@[simp] theorem channelReset_net (c : Nat) (s : State) : (channelReset c s).net = s.net := by
  unfold channelReset
  (try dsimp only)
  (repeat' split) <;> simp

@[simp] theorem channelReset_fab (c : Nat) (s : State) : (channelReset c s).fab = s.fab := by
  unfold channelReset
  (try dsimp only)
  (repeat' split) <;> simp

@[simp] theorem channelReset_mem (c : Nat) (s : State) : (channelReset c s).mem = s.mem := by
  unfold channelReset
  (try dsimp only)
  (repeat' split) <;> simp

@[simp] theorem channelReset_pfx (c : Nat) (s : State) : (channelReset c s).pfx = s.pfx := by
  unfold channelReset
  (try dsimp only)
  (repeat' split) <;> simp

@[simp] theorem channelReset_cmp (c : Nat) (s : State) : (channelReset c s).cmp = s.cmp := by
  unfold channelReset
  (try dsimp only)
  (repeat' split) <;> simp

@[simp] theorem channelReset_sec (c : Nat) (s : State) : (channelReset c s).sec = s.sec := by
  unfold channelReset
  (try dsimp only)
  (repeat' split) <;> simp

@[simp] theorem channelReset_regs (c : Nat) (s : State) : (channelReset c s).regs = s.regs := by
  unfold channelReset
  (try dsimp only)
  (repeat' split) <;> simp

@[simp] theorem updZph_pending (die : Nat) (f : Zph → Zph) (s : State) : (updZph die f s).pending = s.pending := by
  unfold updZph
  (try dsimp only)
  split <;> simp

@[simp] theorem updZph_free (die : Nat) (f : Zph → Zph) (s : State) : (updZph die f s).free = s.free := by
  unfold updZph
  (try dsimp only)
  split <;> simp

@[simp] theorem updZph_draws (die : Nat) (f : Zph → Zph) (s : State) : (updZph die f s).draws = s.draws := by
  unfold updZph
  (try dsimp only)
  split <;> simp

@[simp] theorem updZph_out (die : Nat) (f : Zph → Zph) (s : State) : (updZph die f s).out = s.out := by
  unfold updZph
  (try dsimp only)
  split <;> simp

@[simp] theorem updZph_clk (die : Nat) (f : Zph → Zph) (s : State) : (updZph die f s).clk = s.clk := by
  unfold updZph
  (try dsimp only)
  split <;> simp

@[simp] theorem updZph_now (die : Nat) (f : Zph → Zph) (s : State) : (updZph die f s).now = s.now := by
  unfold updZph
  (try dsimp only)
  split <;> simp

@[simp] theorem updZph_pwr (die : Nat) (f : Zph → Zph) (s : State) : (updZph die f s).pwr = s.pwr := by
  unfold updZph
  (try dsimp only)
  split <;> simp

@[simp] theorem updZph_boot (die : Nat) (f : Zph → Zph) (s : State) : (updZph die f s).boot = s.boot := by
  unfold updZph
  (try dsimp only)
  split <;> simp

@[simp] theorem updZph_floor (die : Nat) (f : Zph → Zph) (s : State) : (updZph die f s).floor = s.floor := by
  unfold updZph
  (try dsimp only)
  split <;> simp

@[simp] theorem updZph_seqs (die : Nat) (f : Zph → Zph) (s : State) : (updZph die f s).seqs = s.seqs := by
  unfold updZph
  (try dsimp only)
  split <;> simp

@[simp] theorem updZph_freeDesc (die : Nat) (f : Zph → Zph) (s : State) : (updZph die f s).freeDesc = s.freeDesc := by
  unfold updZph
  (try dsimp only)
  split <;> simp

@[simp] theorem updZph_keyHist (die : Nat) (f : Zph → Zph) (s : State) : (updZph die f s).keyHist = s.keyHist := by
  unfold updZph
  (try dsimp only)
  split <;> simp

@[simp] theorem updZph_unusable (die : Nat) (f : Zph → Zph) (s : State) : (updZph die f s).unusable = s.unusable := by
  unfold updZph
  (try dsimp only)
  split <;> simp

@[simp] theorem updZph_doms (die : Nat) (f : Zph → Zph) (s : State) : (updZph die f s).doms = s.doms := by
  unfold updZph
  (try dsimp only)
  split <;> simp

@[simp] theorem updZph_mbx (die : Nat) (f : Zph → Zph) (s : State) : (updZph die f s).mbx = s.mbx := by
  unfold updZph
  (try dsimp only)
  split <;> simp

@[simp] theorem updZph_net (die : Nat) (f : Zph → Zph) (s : State) : (updZph die f s).net = s.net := by
  unfold updZph
  (try dsimp only)
  split <;> simp

@[simp] theorem updZph_fab (die : Nat) (f : Zph → Zph) (s : State) : (updZph die f s).fab = s.fab := by
  unfold updZph
  (try dsimp only)
  split <;> simp

@[simp] theorem updZph_mem (die : Nat) (f : Zph → Zph) (s : State) : (updZph die f s).mem = s.mem := by
  unfold updZph
  (try dsimp only)
  split <;> simp

@[simp] theorem updZph_pfx (die : Nat) (f : Zph → Zph) (s : State) : (updZph die f s).pfx = s.pfx := by
  unfold updZph
  (try dsimp only)
  split <;> simp

@[simp] theorem updZph_cmp (die : Nat) (f : Zph → Zph) (s : State) : (updZph die f s).cmp = s.cmp := by
  unfold updZph
  (try dsimp only)
  split <;> simp

@[simp] theorem updZph_sec (die : Nat) (f : Zph → Zph) (s : State) : (updZph die f s).sec = s.sec := by
  unfold updZph
  (try dsimp only)
  split <;> simp

@[simp] theorem updZph_err (die : Nat) (f : Zph → Zph) (s : State) : (updZph die f s).err = s.err := by
  unfold updZph
  (try dsimp only)
  split <;> simp

@[simp] theorem updZph_regs (die : Nat) (f : Zph → Zph) (s : State) : (updZph die f s).regs = s.regs := by
  unfold updZph
  (try dsimp only)
  split <;> simp

@[simp] theorem updZph_side (die : Nat) (f : Zph → Zph) (s : State) : (updZph die f s).side = s.side := by
  unfold updZph
  (try dsimp only)
  split <;> simp

@[simp] theorem resetVfView_pending (n : Nat) (s : State) : (resetVfView n s).pending = s.pending := by
  unfold resetVfView
  (try dsimp only)
  (repeat' split) <;> simp

@[simp] theorem resetVfView_free (n : Nat) (s : State) : (resetVfView n s).free = s.free := by
  unfold resetVfView
  (try dsimp only)
  (repeat' split) <;> simp

@[simp] theorem resetVfView_draws (n : Nat) (s : State) : (resetVfView n s).draws = s.draws := by
  unfold resetVfView
  (try dsimp only)
  (repeat' split) <;> simp

@[simp] theorem resetVfView_out (n : Nat) (s : State) : (resetVfView n s).out = s.out := by
  unfold resetVfView
  (try dsimp only)
  (repeat' split) <;> simp

@[simp] theorem resetVfView_clk (n : Nat) (s : State) : (resetVfView n s).clk = s.clk := by
  unfold resetVfView
  (try dsimp only)
  (repeat' split) <;> simp

@[simp] theorem resetVfView_now (n : Nat) (s : State) : (resetVfView n s).now = s.now := by
  unfold resetVfView
  (try dsimp only)
  (repeat' split) <;> simp

@[simp] theorem resetVfView_pwr (n : Nat) (s : State) : (resetVfView n s).pwr = s.pwr := by
  unfold resetVfView
  (try dsimp only)
  (repeat' split) <;> simp

@[simp] theorem resetVfView_boot (n : Nat) (s : State) : (resetVfView n s).boot = s.boot := by
  unfold resetVfView
  (try dsimp only)
  (repeat' split) <;> simp

@[simp] theorem resetVfView_floor (n : Nat) (s : State) : (resetVfView n s).floor = s.floor := by
  unfold resetVfView
  (try dsimp only)
  (repeat' split) <;> simp

@[simp] theorem resetVfView_seqs (n : Nat) (s : State) : (resetVfView n s).seqs = s.seqs := by
  unfold resetVfView
  (try dsimp only)
  (repeat' split) <;> simp

@[simp] theorem resetVfView_freeDesc (n : Nat) (s : State) : (resetVfView n s).freeDesc = s.freeDesc := by
  unfold resetVfView
  (try dsimp only)
  (repeat' split) <;> simp

@[simp] theorem resetVfView_keyHist (n : Nat) (s : State) : (resetVfView n s).keyHist = s.keyHist := by
  unfold resetVfView
  (try dsimp only)
  (repeat' split) <;> simp

@[simp] theorem resetVfView_unusable (n : Nat) (s : State) : (resetVfView n s).unusable = s.unusable := by
  unfold resetVfView
  (try dsimp only)
  (repeat' split) <;> simp

@[simp] theorem resetVfView_mbx (n : Nat) (s : State) : (resetVfView n s).mbx = s.mbx := by
  unfold resetVfView
  (try dsimp only)
  (repeat' split) <;> simp

@[simp] theorem resetVfView_net (n : Nat) (s : State) : (resetVfView n s).net = s.net := by
  unfold resetVfView
  (try dsimp only)
  (repeat' split) <;> simp

@[simp] theorem resetVfView_fab (n : Nat) (s : State) : (resetVfView n s).fab = s.fab := by
  unfold resetVfView
  (try dsimp only)
  (repeat' split) <;> simp

@[simp] theorem resetVfView_att (n : Nat) (s : State) : (resetVfView n s).att = s.att := by
  unfold resetVfView
  (try dsimp only)
  (repeat' split) <;> simp

@[simp] theorem resetVfView_mem (n : Nat) (s : State) : (resetVfView n s).mem = s.mem := by
  unfold resetVfView
  (try dsimp only)
  (repeat' split) <;> simp

@[simp] theorem resetVfView_pfx (n : Nat) (s : State) : (resetVfView n s).pfx = s.pfx := by
  unfold resetVfView
  (try dsimp only)
  (repeat' split) <;> simp

@[simp] theorem resetVfView_cmp (n : Nat) (s : State) : (resetVfView n s).cmp = s.cmp := by
  unfold resetVfView
  (try dsimp only)
  (repeat' split) <;> simp

@[simp] theorem resetVfView_sec (n : Nat) (s : State) : (resetVfView n s).sec = s.sec := by
  unfold resetVfView
  (try dsimp only)
  (repeat' split) <;> simp

@[simp] theorem resetVfView_err (n : Nat) (s : State) : (resetVfView n s).err = s.err := by
  unfold resetVfView
  (try dsimp only)
  (repeat' split) <;> simp

@[simp] theorem resetVfView_side (n : Nat) (s : State) : (resetVfView n s).side = s.side := by
  unfold resetVfView
  (try dsimp only)
  (repeat' split) <;> simp

end Sys2Proof.Machine
end

