-- ==== Sys2Proof/Laws/Errors.lean ====
section
/-! SUPPORT. Error records and fatal errors: what R619 and R633 leave, and what they leave alone. -/

namespace Sys2Proof.Machine

@[simp] theorem signalPf_log (s : State) : (signalPf s).err.log = s.err.log := by
  unfold signalPf
  (repeat' split) <;> simp

@[simp] theorem signalPf_fatal (s : State) : (signalPf s).err.fatal = s.err.fatal := by
  unfold signalPf
  (repeat' split) <;> simp

@[simp] theorem sidebandSend_log (b : Nat) (s : State) : (sidebandSend b s).err.log = s.err.log := by
  unfold sidebandSend
  (repeat' split) <;> simp

@[simp] theorem sidebandSend_fatal (b : Nat) (s : State) : (sidebandSend b s).err.fatal = s.err.fatal := by
  unfold sidebandSend
  (repeat' split) <;> simp

@[simp] theorem signalSb_log (b : Nat) (s : State) : (signalSb b s).err.log = s.err.log := by
  unfold signalSb
  (repeat' split) <;> simp

@[simp] theorem signalSb_fatal (b : Nat) (s : State) : (signalSb b s).err.fatal = s.err.fatal := by
  unfold signalSb
  (repeat' split) <;> simp

/-- The log after a record (R619): the oldest record goes when it holds 64. -/
theorem writeRec_log (r : Rec) (s : State) :
    (writeRec r s).err.log = (if 64 ≤ s.err.log.length then s.err.log.drop 1 else s.err.log) ++ [r] := by
  unfold writeRec
  dsimp only
  rw [signalSb_log, signalPf_log, apply_ite State.err, bump_err, ite_self, apply_ite State.err, bump_err, ite_self, bump_err]

@[simp] theorem writeRec_fatal (r : Rec) (s : State) : (writeRec r s).err.fatal = s.err.fatal := by
  unfold writeRec
  dsimp only
  rw [signalSb_fatal, signalPf_fatal, apply_ite State.err, bump_err, ite_self, apply_ite State.err, bump_err, ite_self, bump_err]

theorem writeRec_log_last (r : Rec) (s : State) : (writeRec r s).err.log.getLast? = some r := by
  rw [writeRec_log]; simp

@[simp] theorem zeroise_sess (s : State) : (zeroise s).net.sess = [] := by
  have h : ∀ (l : List Sess) (t : State), (l.foldl (fun s x => if x.mgmt then s else bump (ctrTd x.td 0x14C) s) t).net = t.net := fun l t =>
    foldl_same State.net _ (fun s a => by split <;> simp) l t
  unfold zeroise dropSessions
  dsimp only
  rw [h]
  simp

/-- What zeroisation leaves as it was. -/
theorem zeroise_frame (s : State) : (zeroise s).pending = s.pending ∧ (zeroise s).seqs = s.seqs ∧ (zeroise s).mem.dram = s.mem.dram
    ∧ (zeroise s).mem.chk = s.mem.chk ∧ (zeroise s).mbx = s.mbx ∧ (zeroise s).floor = s.floor ∧ (zeroise s).pwr = s.pwr
    ∧ (zeroise s).cmp = s.cmp ∧ (zeroise s).pfx = s.pfx ∧ (zeroise s).fab = s.fab ∧ (zeroise s).boot = s.boot ∧ (zeroise s).err = s.err := by
  unfold zeroise
  simp

/-- A fatal error stops the node (R633): FAILED with its cause, its record last in the log, every session and key gone, every enabled
port fenced. -/
theorem fatalStop_spec (e : ErrIn) (cause : Nat) (s : State) (h : s.err.fatal = false) :
    (fatalStop e cause s).err.fatal = true ∧ (fatalStop e cause s).boot.phase = .failed ∧ (fatalStop e cause s).boot.cause = cause
      ∧ (fatalStop e cause s).boot.running = false ∧ (∃ r, (fatalStop e cause s).err.log.getLast? = some r ∧ r.code = e.code ∧ r.cls = e.cls
        ∧ r.fatal = true ∧ r.info = e.info)
      ∧ (fatalStop e cause s).sec.slots = [] ∧ (fatalStop e cause s).net.sess = [] ∧ (fatalStop e cause s).net.spillKey = 0
      ∧ (fatalStop e cause s).mem.flashKey = 0 ∧ (fatalStop e cause s).mem.pages = [] := by
  unfold fatalStop
  rw [if_neg (by simp [h])]
  dsimp only
  have hz := fun t => (zeroise_frame t).2.2.2.2.2.2.2.2.2.2.2
  refine ⟨?_, ?_, ?_, ?_, ?_, ?_, ?_, ?_, ?_, ?_⟩
  · rw [hz]; simp
  · simp
  · simp
  · simp
  · rw [hz]
    exact ⟨_, writeRec_log_last _ _, rfl, rfl, rfl, rfl⟩
  · rfl
  · exact zeroise_sess _
  · rfl
  · rfl
  · rfl

/-- What a fatal error leaves as it was. -/
theorem fatalStop_frame (e : ErrIn) (cause : Nat) (s : State) :
    (fatalStop e cause s).pending = s.pending ∧ (fatalStop e cause s).seqs = s.seqs ∧ (fatalStop e cause s).mem.dram = s.mem.dram
      ∧ (fatalStop e cause s).mem.chk = s.mem.chk ∧ (fatalStop e cause s).mbx = s.mbx ∧ (fatalStop e cause s).floor = s.floor
      ∧ (fatalStop e cause s).pwr = s.pwr ∧ (fatalStop e cause s).cmp = s.cmp ∧ (fatalStop e cause s).pfx = s.pfx := by
  unfold fatalStop
  split
  · simp
  · dsimp only
    refine ⟨?_, ?_, ?_, ?_, ?_, ?_, ?_, ?_, ?_⟩
    · rw [(zeroise_frame _).1]; simp
    · rw [(zeroise_frame _).2.1]; simp
    · rw [(zeroise_frame _).2.2.1]; simp
    · rw [(zeroise_frame _).2.2.2.1]; simp
    · rw [(zeroise_frame _).2.2.2.2.1]; simp
    · rw [(zeroise_frame _).2.2.2.2.2.1]; simp
    · rw [(zeroise_frame _).2.2.2.2.2.2.1]; simp
    · rw [(zeroise_frame _).2.2.2.2.2.2.2.1]; simp
    · rw [(zeroise_frame _).2.2.2.2.2.2.2.2.1]; simp

end Sys2Proof.Machine
end

