-- ==== Sys2Proof/Laws/Commands.lean ====
section
/-! SUPPORT. How a command row runs and how its command is answered. -/

namespace Sys2Proof.Machine

@[simp] theorem finish_noCmd (id st : Nat) (r : Bool) (rsp : List Byte) (s : State) (h : cmd? s id = none) : finish id st r rsp s = s := by
  simp only [finish, h]

/-- The answer of a command whose channel keeps it: nothing changes but the table of commands. -/
theorem finish_eq {s : State} {c : Cmd} (h : cmd? s c.id = some c) (hd : c.discard = false) {st : Nat}
    (h7 : st ≠ 7) (h8 : st ≠ 8) (h54 : st ≠ 0x54) (rsp : List Byte) : finish c.id st false rsp s = withAnswer s c st rsp := by
  simp [finish, h, h7, h8, h54, hd, setCmds, withAnswer, answered]

theorem finishOk_eq {s : State} {c : Cmd} (h : cmd? s c.id = some c) (hd : c.discard = false) (rsp : List Byte) :
    finishOk c.id rsp s = withAnswer s c 0 rsp := finish_eq h hd (by decide) (by decide) (by decide) rsp

theorem finishErr_eq {s : State} {c : Cmd} (h : cmd? s c.id = some c) (hd : c.discard = false) {st : Nat}
    (h7 : st ≠ 7) (h8 : st ≠ 8) (h54 : st ≠ 0x54) : finishErr c.id st s = withAnswer s c st [] := finish_eq h hd h7 h8 h54 []

/-- A command row on a command that starts. -/
theorem Starts.run {s : State} {ch code : Nat} {c : Cmd} (h : Starts s ch code c) (f : Cmd → State → State) :
    runCmd ch code f s = f c s := runCmd_some h.1 f

theorem cmdQ_mbx {s t : State} (h : t.mbx = s.mbx) (id : Nat) : cmd? t id = cmd? s id := by simp only [cmd?, h]

end Sys2Proof.Machine
end

