-- ==== Sys2Proof/Laws/Memory.lean ====
section
/-! SUPPORT. The byte memories: their canonical form and that every operation on cells keeps it, reads after writes. -/

namespace Sys2Proof.Machine

theorem wf_tail {c : Host.Cell} {t : List Host.Cell} (h : cellsWf (c :: t) = true) : cellsWf t = true := by
  cases t with
  | nil => rfl
  | cons d t => simp only [cellsWf, Bool.and_eq_true] at h; exact h.2

theorem cellsWf_iff : ∀ l : List Host.Cell, cellsWf l = true ↔ (l.Pairwise (fun a b => a.1 < b.1) ∧ ∀ c ∈ l, c.2 ≠ 0) := by
  intro l
  induction l with
  | nil => simp [cellsWf]
  | cons c t ih =>
    cases t with
    | nil => simp [cellsWf]
    | cons d t =>
      have e : cellsWf (c :: d :: t) = true ↔ (c.2 ≠ 0 ∧ c.1 < d.1) ∧ cellsWf (d :: t) = true := by
        simp only [cellsWf, Bool.and_eq_true, bne_iff_ne, ne_eq, decide_eq_true_eq]
      rw [e, ih]
      constructor
      · rintro ⟨⟨h0, h1⟩, h2, h3⟩
        refine ⟨List.pairwise_cons.2 ⟨?_, h2⟩, ?_⟩
        · intro x hx
          rcases List.mem_cons.1 hx with rfl | hx
          · exact h1
          · exact lt_trans h1 ((List.pairwise_cons.1 h2).1 x hx)
        · intro x hx
          rcases List.mem_cons.1 hx with rfl | hx
          · exact h0
          · exact h3 x hx
      · rintro ⟨h1, h2⟩
        have h3 := List.pairwise_cons.1 h1
        exact ⟨⟨h2 c (by simp), h3.1 d (by simp)⟩, h3.2, fun x hx => h2 x (List.mem_cons_of_mem _ hx)⟩

theorem filter_wf (p : Host.Cell → Bool) {l : List Host.Cell} (h : cellsWf l = true) : cellsWf (l.filter p) = true := by
  rw [cellsWf_iff] at *
  exact ⟨h.1.filter p, fun c hc => h.2 c (List.mem_filter.1 hc).1⟩

theorem clrBytes_wf (lo hi : Nat) {l : List Host.Cell} (h : cellsWf l = true) : cellsWf (clrBytes l lo hi) = true := filter_wf _ h

theorem rem_wf (k : Nat) {l : List Host.Cell} (h : cellsWf l = true) : cellsWf (rem l k) = true := filter_wf _ h

theorem mem_put {α : Type} (t : List (Nat × α)) (k : Nat) (v : α) (x : Nat × α) (h : x ∈ put t k v) : x = (k, v) ∨ x ∈ t := by
  induction t with
  | nil => exact .inl (by simpa [put] using h)
  | cons c t ih =>
    obtain ⟨a, b⟩ := c
    simp only [put] at h
    split at h
    · simp at h ⊢; tauto
    · split at h
      · simp at h ⊢; tauto
      · simp at h ⊢
        rcases h with h | h
        · tauto
        · rcases ih h with h | h <;> tauto

theorem put_pairwise {α : Type} (t : List (Nat × α)) (k : Nat) (v : α) (h : t.Pairwise (fun a b => a.1 < b.1)) :
    (put t k v).Pairwise (fun a b => a.1 < b.1) := by
  induction t with
  | nil => simp [put]
  | cons c t ih =>
    obtain ⟨a, b⟩ := c
    have h' := List.pairwise_cons.1 h
    simp only [put]
    split
    · next hk =>
      refine List.pairwise_cons.2 ⟨?_, h⟩
      intro x hx
      rcases List.mem_cons.1 hx with rfl | hx
      · exact hk
      · exact lt_trans hk (h'.1 x hx)
    · split
      · next hk => subst hk; exact List.pairwise_cons.2 ⟨h'.1, h'.2⟩
      · next h1 h2 =>
        refine List.pairwise_cons.2 ⟨?_, ih h'.2⟩
        intro x hx
        rcases mem_put t k v x hx with rfl | hx
        · simp only; omega
        · exact h'.1 x hx

theorem wr8_wf (a : Nat) (b : Byte) {l : List Host.Cell} (h : cellsWf l = true) : cellsWf (wr8 l a b) = true := by
  unfold wr8 putD
  split
  · exact rem_wf _ h
  · next hb =>
    rw [cellsWf_iff] at *
    refine ⟨put_pairwise _ _ _ h.1, ?_⟩
    intro c hc
    rcases mem_put _ _ _ _ hc with rfl | hc
    · exact hb
    · exact h.2 c hc

theorem wrBytes_wf (bs : List Byte) : ∀ (a : Nat) {l : List Host.Cell}, cellsWf l = true → cellsWf (wrBytes l a bs) = true := by
  induction bs with
  | nil => intro a l h; exact h
  | cons b t ih => intro a l h; exact ih _ (wr8_wf _ _ h)

/-! ### Reads after writes -/

@[simp] theorem rd8_wr8_same (l : List Host.Cell) (a : Nat) (b : Byte) : rd8 (wr8 l a b) a = b := lookD_putD_same _ _ _ _

theorem rd8_wr8_ne (l : List Host.Cell) (a x : Nat) (b : Byte) (h : x ≠ a) : rd8 (wr8 l a b) x = rd8 l x := lookD_putD_ne _ _ _ _ _ h

/-- A write of bytes leaves every byte outside them. -/
theorem rd8_wrBytes_out (bs : List Byte) : ∀ (l : List Host.Cell) (a x : Nat), (x < a ∨ a + bs.length ≤ x) → rd8 (wrBytes l a bs) x = rd8 l x := by
  induction bs with
  | nil => intro l a x _; rfl
  | cons b t ih =>
    intro l a x h
    simp only [List.length_cons] at h
    exact (ih _ _ _ (by omega)).trans (rd8_wr8_ne _ _ _ _ (by omega))

/-- Each byte written reads back. -/
theorem rd8_wrBytes_in (bs : List Byte) : ∀ (l : List Host.Cell) (a i : Nat) (h : i < bs.length), rd8 (wrBytes l a bs) (a + i) = bs[i] := by
  induction bs with
  | nil => intro l a i h; exact absurd h (by simp)
  | cons b t ih =>
    intro l a i h
    simp only [wrBytes]
    cases i with
    | zero => simpa using rd8_wrBytes_out t (wr8 l a b) (a + 1) a (by omega)
    | succ i =>
      have := ih (wr8 l a b) (a + 1) i (by simpa using h)
      simpa [Nat.add_assoc, Nat.add_comm 1 i] using this

/-- A zero-fill leaves every byte outside its range, and zeros inside it. -/
theorem rd8_clrBytes (l : List Host.Cell) (lo hi x : Nat) : rd8 (clrBytes l lo hi) x = if lo ≤ x ∧ x < hi then 0 else rd8 l x := by
  unfold rd8 lookD clrBytes
  induction l with
  | nil => simp [look]
  | cons c t ih =>
    obtain ⟨a, b⟩ := c
    by_cases h : a < lo ∨ hi ≤ a
    · simp only [List.filter_cons, Bool.or_eq_true, decide_eq_true_eq, h, if_true, look] at ih ⊢
      by_cases hx : a = x
      · subst hx; simp; omega
      · simpa [hx] using ih
    · simp only [List.filter_cons, Bool.or_eq_true, decide_eq_true_eq, h, if_false, look] at ih ⊢
      by_cases hx : a = x
      · subst hx
        rw [ih, if_pos (by omega), if_pos (by omega)]
      · simpa [hx] using ih

end Sys2Proof.Machine
end

