-- ==== Sys2Proof/Laws/KeptBase.lean ====
section
/-! SUPPORT. `Kept q₀ s`: the queue of `s` is `q₀`, its memory has the canonical form and its error log and handler queue have their
bounds. The folds, memory operations and record updates that keep it. -/

namespace Sys2Proof.Machine

structure KeptP (q₀ q : List Instr) (dram chk : List Host.Cell) (log : List Rec) (queue : List Hdl) : Prop where
  pending : q = q₀
  dram : cellsWf dram = true
  chk : cellsWf chk = true
  log : log.length ≤ 64
  queue : queue.length ≤ 64

def Kept (q₀ : List Instr) (s : State) : Prop := KeptP q₀ s.pending s.mem.dram s.mem.chk s.err.log s.err.queue

theorem Kept_mk (q₀ : List Instr) (pending : List Instr) (free draws : Nat) (out : List Out) (clk now : Nat) (pwr : Pwr) (boot : Boot) (floor : Floor)
  (seqs : List (Nat × SeqD)) (freeDesc : List (Nat × FreeDesc)) (keyHist : List (Nat × List Nat)) (unusable : List Nat) (doms : List (Nat × Dom))
  (mbx : Mbx) (net : Net) (fab : Fab) (att : Att) (mem : Mem) (pfx : Pfx) (cmp : Cmp) (sec : Sec) (err : Err) (regs : Regs) (side : Side) :
  Kept q₀ ⟨pending, free, draws, out, clk, now, pwr, boot, floor, seqs, freeDesc, keyHist, unusable,
    doms, mbx, net, fab, att, mem, pfx, cmp, sec, err, regs, side⟩
   = KeptP q₀ pending mem.dram mem.chk err.log err.queue := rfl

theorem Kept_fold (q₀ : List Instr) (s : State) : KeptP q₀ s.pending s.mem.dram s.mem.chk s.err.log s.err.queue = Kept q₀ s := rfl

theorem ite_kept {q₀ : List Instr} {c : Prop} [Decidable c] {a b : State} (ha : Kept q₀ a) (hb : Kept q₀ b) :
    Kept q₀ (if c then a else b) := by
  split
  · exact ha
  · exact hb

theorem foldl_kept {q₀ : List Instr} {α : Type} (g : State → α → State) (l : List α) (hg : ∀ s a, Kept q₀ s → Kept q₀ (g s a)) :
    ∀ s, Kept q₀ s → Kept q₀ (l.foldl g s) := by
  induction l with
  | nil => intro s h; exact h
  | cons a t ih => intro s h; exact ih _ (hg _ _ h)

theorem foldl2_kept {q₀ : List Instr} {α β : Type} (g : β × State → α → β × State) (l : List α) (hg : ∀ x a, Kept q₀ x.2 → Kept q₀ (g x a).2) :
    ∀ x, Kept q₀ x.2 → Kept q₀ (l.foldl g x).2 := by
  induction l with
  | nil => intro s h; exact h
  | cons a t ih => intro s h; exact ih _ (hg _ _ h)

theorem lookD_nil {α : Type} (d : α) (k : Nat) : lookD d [] k = d := rfl

def MemOk (m : Mem) : Prop := cellsWf m.dram = true ∧ cellsWf m.chk = true

theorem Kept.mem {q₀ : List Instr} {s : State} (h : Kept q₀ s) : MemOk s.mem := ⟨h.dram, h.chk⟩

theorem keptP_mem {q₀ : List Instr} {s : State} {m : Mem} (h : Kept q₀ s) (hm : MemOk m) :
    KeptP q₀ s.pending m.dram m.chk s.err.log s.err.queue := ⟨h.pending, hm.1, hm.2, h.log, h.queue⟩

theorem keptP_dram {q₀ : List Instr} {s : State} {dram chk : List Host.Cell} (h : Kept q₀ s) (h1 : cellsWf dram = true) (h2 : cellsWf chk = true) :
    KeptP q₀ s.pending dram chk s.err.log s.err.queue := ⟨h.pending, h1, h2, h.log, h.queue⟩

theorem cwWrite_ok {m : Mem} (a : Nat) (bs : List Byte) (h : MemOk m) : MemOk (cwWrite m a bs) := ⟨wrBytes_wf _ _ h.1, wrBytes_wf _ _ h.2⟩

theorem foldl_mem_ok {α β : Type} (g : Mem × β → α → Mem × β) (l : List α) (hg : ∀ x a, MemOk x.1 → MemOk (g x a).1) :
    ∀ x : Mem × β, MemOk x.1 → MemOk (l.foldl g x).1 := by
  induction l with
  | nil => intro s h; exact h
  | cons a t ih => intro s h; exact ih _ (hg _ _ h)

theorem wrPage_ok {m : Mem} (f off : Nat) (bs : List Byte) (h : MemOk m) : MemOk (wrPage m f off bs).1 := by
  unfold wrPage
  refine foldl_mem_ok _ _ ?_ _ h
  intro x i hx
  dsimp only
  repeat' split
  all_goals first
    | exact hx
    | exact cwWrite_ok _ _ hx

theorem wrPage_okE {m m' : Mem} {f off : Nat} {bs : List Byte} {l : List Nat} (e : wrPage m f off bs = (m', l)) (h : MemOk m) : MemOk m' := by
  have := wrPage_ok f off bs h
  rw [e] at this
  exact this

theorem zeroFrame_ok {m : Mem} (ix : Nat) (h : MemOk m) : MemOk (zeroFrame m ix) := ⟨clrBytes_wf _ _ h.1, clrBytes_wf _ _ h.2⟩

theorem loadFrame_ok {m : Mem} (g : W64) (p : FPage) (f : Nat) (h : MemOk m) : MemOk (loadFrame g p f m) := by
  unfold loadFrame
  extract_lets m1 m2 m3
  have h1 : MemOk m1 := zeroFrame_ok _ h
  clear_value m1
  have h2 : MemOk m2 := wrPage_ok _ _ _ h1
  clear_value m2
  have h3 : MemOk m3 := wrPage_ok _ _ _ h2
  clear_value m3
  split
  · exact ⟨h3.1, h3.2⟩
  · exact h3

theorem wrEach_ok {x : Mem × List Nat} (f off : Nat) (bs : List Byte) (h : MemOk x.1) : MemOk (wrEach f off bs x).1 := by
  unfold wrEach
  refine foldl_mem_ok _ _ ?_ _ h
  intro y b hy
  dsimp only
  exact wrPage_ok _ _ _ hy


theorem kept_setMem {q₀ : List Instr} {s : State} {m : Mem} (h : Kept q₀ s) (hm : MemOk m) : Kept q₀ { s with mem := m } :=
  ⟨h.pending, hm.1, hm.2, h.log, h.queue⟩

end Sys2Proof.Machine
end

