-- ==== Sys2Proof/Laws/KeptOps.lean ====
section
/-! SUPPORT. What the operations of Machine/Ops keep: `Kept`, the queue of commands and the invariant of memory and error state. -/

namespace Sys2Proof.Machine

set_option linter.unusedTactic false
set_option linter.unreachableTactic false
set_option linter.unusedVariables false

theorem takeFree_kept {q₀ : List Instr} (s : State) (hk : Kept q₀ s) :
    Kept q₀ (takeFree s).2 := by
  unfold takeFree
  try dsimp only
  repeat' first
    | with_reducible assumption
    | simp only [Kept_mk, Kept_fold]
    | dsimp only

theorem takeFree_keptE {q₀ : List Instr} {s : State} {x0 : BitVec 32} {t' : State} (e' : takeFree s = (x0, t')) (hk : Kept q₀ s) : Kept q₀ t' := by
  have h := takeFree_kept s hk
  rw [e'] at h
  exact h

theorem draw_kept {q₀ : List Instr} (w : Nat) (s : State) (hk : Kept q₀ s) :
    Kept q₀ (draw w s).2 := by
  unfold draw
  try dsimp only
  repeat' first
    | with_reducible assumption
    | simp only [Kept_mk, Kept_fold]
    | dsimp only

theorem draw_keptE {q₀ : List Instr} {w : Nat} {s : State} {x0 : Nat} {t' : State} (e' : draw w s = (x0, t')) (hk : Kept q₀ s) : Kept q₀ t' := by
  have h := draw_kept w s hk
  rw [e'] at h
  exact h

theorem emit_kept {q₀ : List Instr} (o : Out) (s : State) (hk : Kept q₀ s) :
    Kept q₀ (emit o s) := by
  unfold emit
  try dsimp only
  repeat' first
    | with_reducible assumption
    | simp only [Kept_mk, Kept_fold]
    | dsimp only

theorem bumpBy_kept {q₀ : List Instr} (off n : Nat) (s : State) (hk : Kept q₀ s) :
    Kept q₀ (bumpBy off n s) := by
  unfold bumpBy
  try dsimp only
  repeat' first
    | with_reducible assumption
    | simp only [Kept_mk, Kept_fold]
    | dsimp only
    | (with_reducible refine ite_kept ?_ ?_)
    | split

theorem bump_kept {q₀ : List Instr} (off : Nat) (s : State) (hk : Kept q₀ s) :
    Kept q₀ (bump off s) := by
  unfold bump
  try dsimp only
  repeat' first
    | with_reducible assumption
    | simp only [Kept_mk, Kept_fold]
    | with_reducible apply bumpBy_kept
    | dsimp only

theorem setDom_kept {q₀ : List Instr} (td : Nat) (d : Dom) (s : State) (hk : Kept q₀ s) :
    Kept q₀ (setDom td d s) := by
  unfold setDom
  try dsimp only
  repeat' first
    | with_reducible assumption
    | simp only [Kept_mk, Kept_fold]
    | dsimp only

theorem updDom_kept {q₀ : List Instr} (td : Nat) (f : Dom → Dom) (s : State) (hk : Kept q₀ s) :
    Kept q₀ (updDom td f s) := by
  unfold updDom
  try dsimp only
  repeat' first
    | with_reducible assumption
    | simp only [Kept_mk, Kept_fold]
    | with_reducible apply setDom_kept
    | dsimp only

theorem setChan_kept {q₀ : List Instr} (c : Nat) (x : Chan) (s : State) (hk : Kept q₀ s) :
    Kept q₀ (setChan c x s) := by
  unfold setChan
  try dsimp only
  repeat' first
    | with_reducible assumption
    | simp only [Kept_mk, Kept_fold]
    | dsimp only

theorem updChan_kept {q₀ : List Instr} (c : Nat) (f : Chan → Chan) (s : State) (hk : Kept q₀ s) :
    Kept q₀ (updChan c f s) := by
  unfold updChan
  try dsimp only
  repeat' first
    | with_reducible assumption
    | simp only [Kept_mk, Kept_fold]
    | with_reducible apply setChan_kept
    | dsimp only

theorem setPort_kept {q₀ : List Instr} (p : Nat) (x : Port) (s : State) (hk : Kept q₀ s) :
    Kept q₀ (setPort p x s) := by
  unfold setPort
  try dsimp only
  repeat' first
    | with_reducible assumption
    | simp only [Kept_mk, Kept_fold]
    | dsimp only

theorem updPort_kept {q₀ : List Instr} (p : Nat) (f : Port → Port) (s : State) (hk : Kept q₀ s) :
    Kept q₀ (updPort p f s) := by
  unfold updPort
  try dsimp only
  repeat' first
    | with_reducible assumption
    | simp only [Kept_mk, Kept_fold]
    | with_reducible apply setPort_kept
    | dsimp only

theorem setSeq_kept {q₀ : List Instr} (d : SeqD) (s : State) (hk : Kept q₀ s) :
    Kept q₀ (setSeq d s) := by
  unfold setSeq
  try dsimp only
  repeat' first
    | with_reducible assumption
    | simp only [Kept_mk, Kept_fold]
    | dsimp only

theorem updSeq_kept {q₀ : List Instr} (td seqn : Nat) (f : SeqD → SeqD) (s : State) (hk : Kept q₀ s) :
    Kept q₀ (updSeq td seqn f s) := by
  unfold updSeq
  try dsimp only
  repeat' first
    | with_reducible assumption
    | simp only [Kept_mk, Kept_fold]
    | dsimp only

theorem dropSeq_kept {q₀ : List Instr} (td seqn : Nat) (s : State) (hk : Kept q₀ s) :
    Kept q₀ (dropSeq td seqn s) := by
  unfold dropSeq
  try dsimp only
  repeat' first
    | with_reducible assumption
    | simp only [Kept_mk, Kept_fold]
    | dsimp only

theorem setQps_kept {q₀ : List Instr} (f : List Qp → List Qp) (s : State) (hk : Kept q₀ s) :
    Kept q₀ (setQps f s) := by
  unfold setQps
  try dsimp only
  repeat' first
    | with_reducible assumption
    | simp only [Kept_mk, Kept_fold]
    | dsimp only

theorem updQp_kept {q₀ : List Instr} (q : Nat) (f : Qp → Qp) (s : State) (hk : Kept q₀ s) :
    Kept q₀ (updQp q f s) := by
  unfold updQp
  try dsimp only
  repeat' first
    | with_reducible assumption
    | simp only [Kept_mk, Kept_fold]
    | with_reducible apply setQps_kept
    | (intro x s hs)
    | dsimp only
    | (with_reducible refine ite_kept ?_ ?_)
    | split

theorem setExt_kept {q₀ : List Instr} (e : Nat) (x : Ext) (s : State) (hk : Kept q₀ s) :
    Kept q₀ (setExt e x s) := by
  unfold setExt
  try dsimp only
  repeat' first
    | with_reducible assumption
    | simp only [Kept_mk, Kept_fold]
    | dsimp only

theorem updExt_kept {q₀ : List Instr} (e : Nat) (f : Ext → Ext) (s : State) (hk : Kept q₀ s) :
    Kept q₀ (updExt e f s) := by
  unfold updExt
  try dsimp only
  repeat' first
    | with_reducible assumption
    | simp only [Kept_mk, Kept_fold]
    | dsimp only

theorem updCh_kept {q₀ : List Instr} (c : Nat) (f : Ch → Ch) (s : State) (hk : Kept q₀ s) :
    Kept q₀ (updCh c f s) := by
  unfold updCh
  try dsimp only
  repeat' first
    | with_reducible assumption
    | simp only [Kept_mk, Kept_fold]
    | (refine keptP_mem (by assumption) ?_)
    | with_reducible apply zeroFrame_ok
    | with_reducible apply loadFrame_ok
    | with_reducible apply wrPage_ok
    | with_reducible apply wrEach_ok
    | (with_reducible apply Kept.mem)
    | dsimp only

theorem updClus_kept {q₀ : List Instr} (c : Nat) (f : Clus → Clus) (s : State) (hk : Kept q₀ s) :
    Kept q₀ (updClus c f s) := by
  unfold updClus
  try dsimp only
  repeat' first
    | with_reducible assumption
    | simp only [Kept_mk, Kept_fold]
    | dsimp only

theorem dmaOut_kept {q₀ : List Instr} (fn : Nat) (o : Out) (s : State) (hk : Kept q₀ s) :
    Kept q₀ (dmaOut fn o s) := by
  unfold dmaOut
  try dsimp only
  repeat' first
    | with_reducible assumption
    | simp only [Kept_mk, Kept_fold]
    | with_reducible apply emit_kept
    | dsimp only
    | (with_reducible refine ite_kept ?_ ?_)
    | split

theorem msix_kept {q₀ : List Instr} (fn v : Nat) (s : State) (hk : Kept q₀ s) :
    Kept q₀ (msix fn v s) := by
  unfold msix
  try dsimp only
  repeat' first
    | with_reducible assumption
    | simp only [Kept_mk, Kept_fold]
    | with_reducible apply dmaOut_kept
    | dsimp only

theorem signalPf_kept {q₀ : List Instr} (s : State) (hk : Kept q₀ s) :
    Kept q₀ (signalPf s) := by
  unfold signalPf
  try dsimp only
  repeat' first
    | with_reducible assumption
    | simp only [Kept_mk, Kept_fold]
    | with_reducible apply emit_kept
    | dsimp only
    | (with_reducible refine ite_kept ?_ ?_)
    | split

theorem sidebandSend_kept {q₀ : List Instr} (b : Nat) (s : State) (hk : Kept q₀ s) :
    Kept q₀ (sidebandSend b s) := by
  unfold sidebandSend
  try dsimp only
  repeat' first
    | with_reducible assumption
    | simp only [Kept_mk, Kept_fold]
    | with_reducible apply emit_kept
    | dsimp only
    | (with_reducible refine ite_kept ?_ ?_)
    | split

theorem signalSb_kept {q₀ : List Instr} (b : Nat) (s : State) (hk : Kept q₀ s) :
    Kept q₀ (signalSb b s) := by
  unfold signalSb
  try dsimp only
  repeat' first
    | with_reducible assumption
    | simp only [Kept_mk, Kept_fold]
    | with_reducible apply sidebandSend_kept
    | dsimp only
    | (with_reducible refine ite_kept ?_ ?_)
    | split

theorem mbxEvent_kept {q₀ : List Instr} (c bit : Nat) (s : State) (hk : Kept q₀ s) :
    Kept q₀ (mbxEvent c bit s) := by
  unfold mbxEvent
  try dsimp only
  repeat' first
    | with_reducible assumption
    | simp only [Kept_mk, Kept_fold]
    | with_reducible apply msix_kept
    | with_reducible apply signalSb_kept
    | with_reducible apply setChan_kept
    | dsimp only
    | (with_reducible refine ite_kept ?_ ?_)
    | split

theorem writeRec_kept {q₀ : List Instr} (r : Rec) (s : State) (hk : Kept q₀ s) :
    Kept q₀ (writeRec r s) := by
  have e1 : 64 ≤ s.err.log.length → KeptP q₀ s.pending s.mem.dram s.mem.chk (s.err.log.drop 1 ++ [r]) s.err.queue := fun h =>
    ⟨hk.pending, hk.dram, hk.chk, by have := hk.log; simp; omega, hk.queue⟩
  have e2 : ¬ 64 ≤ s.err.log.length → KeptP q₀ s.pending s.mem.dram s.mem.chk (s.err.log ++ [r]) s.err.queue := fun h =>
    ⟨hk.pending, hk.dram, hk.chk, by simp; omega, hk.queue⟩
  unfold writeRec
  dsimp only
  repeat' first
    | (apply e1; assumption)
    | (apply e2; assumption)
    | with_reducible apply bump_kept
    | with_reducible apply signalPf_kept
    | with_reducible apply signalSb_kept
    | split
    | simp only [Kept_mk, Kept_fold]

theorem dropSessions_kept {q₀ : List Instr} (p : Sess → Bool) (s : State) (hk : Kept q₀ s) :
    Kept q₀ (dropSessions p s) := by
  unfold dropSessions
  try dsimp only
  repeat' first
    | with_reducible assumption
    | simp only [Kept_mk, Kept_fold]
    | with_reducible apply bump_kept
    | (with_reducible refine foldl_kept _ _ (fun s a h => ?_) _ ?_)
    | (with_reducible refine foldl2_kept _ _ (fun s a h => ?_) _ ?_)
    | (intro x s hs)
    | dsimp only
    | (with_reducible refine ite_kept ?_ ?_)
    | split

theorem zeroise_kept {q₀ : List Instr} (s : State) (hk : Kept q₀ s) :
    Kept q₀ (zeroise s) := by
  unfold zeroise
  try dsimp only
  repeat' first
    | with_reducible assumption
    | simp only [Kept_mk, Kept_fold]
    | with_reducible apply dropSessions_kept
    | (refine keptP_mem (by assumption) ?_)
    | with_reducible apply zeroFrame_ok
    | with_reducible apply loadFrame_ok
    | with_reducible apply wrPage_ok
    | with_reducible apply wrEach_ok
    | (with_reducible apply Kept.mem)
    | (intro x s hs)
    | dsimp only

theorem countAfterFatal_kept {q₀ : List Instr} (s : State) (hk : Kept q₀ s) :
    Kept q₀ (countAfterFatal s) := by
  unfold countAfterFatal
  try dsimp only
  repeat' first
    | with_reducible assumption
    | simp only [Kept_mk, Kept_fold]
    | (intro x s hs)
    | dsimp only

theorem fatalStop_kept {q₀ : List Instr} (e : ErrIn) (cause : Nat) (s : State) (hk : Kept q₀ s) :
    Kept q₀ (fatalStop e cause s) := by
  unfold fatalStop
  try dsimp only
  repeat' first
    | with_reducible assumption
    | simp only [Kept_mk, Kept_fold]
    | with_reducible apply zeroise_kept
    | with_reducible apply writeRec_kept
    | with_reducible apply countAfterFatal_kept
    | (intro x s hs)
    | dsimp only
    | (with_reducible refine ite_kept ?_ ?_)
    | split

theorem watchdogTrip_kept {q₀ : List Instr} (info : Nat) (s : State) (hk : Kept q₀ s) :
    Kept q₀ (watchdogTrip info s) := by
  unfold watchdogTrip
  try dsimp only
  repeat' first
    | with_reducible assumption
    | simp only [Kept_mk, Kept_fold]
    | with_reducible apply fatalStop_kept
    | dsimp only

theorem enqueue_kept {q₀ : List Instr} (x : Hdl) (s : State) (hk : Kept q₀ s) :
    Kept q₀ (enqueue x s) := by
  unfold enqueue
  split
  · next hr =>
    refine ⟨hk.pending, hk.dram, hk.chk, hk.log, ?_⟩
    simp only [queueRoom, lowRoom] at hr
    have h1 := List.length_filter_le (fun h => decide (3 ≤ h.rec_.cls)) s.err.queue
    simp only [List.length_append, List.length_cons, List.length_nil]
    split at hr <;> simp only [decide_eq_true_eq] at hr <;> omega
  · split
    · exact bump_kept _ _ hk
    · exact watchdogTrip_kept _ _ hk

theorem report_kept {q₀ : List Instr} (e : ErrIn) (s : State) (hk : Kept q₀ s) :
    Kept q₀ (report e s) := by
  have hm : ∀ f : Rec → Rec, Kept q₀ { s with err := { s.err with log := s.err.log.map f } } := fun f =>
    ⟨hk.pending, hk.dram, hk.chk, by simpa using hk.log, hk.queue⟩
  have hw := fun r => writeRec_kept r s hk
  unfold report
  dsimp only
  repeat' first
    | assumption
    | exact hw _
    | with_reducible apply hm
    | with_reducible apply countAfterFatal_kept
    | with_reducible apply bump_kept
    | with_reducible apply enqueue_kept
    | split
    | simp only [Kept_mk, Kept_fold]

theorem fenceCode_kept {q₀ : List Instr} (f : Floor → Floor) (s : State) (hk : Kept q₀ s) :
    Kept q₀ (fenceCode f s) := by
  unfold fenceCode
  try dsimp only
  repeat' first
    | with_reducible assumption
    | simp only [Kept_mk, Kept_fold]
    | dsimp only
    | (with_reducible refine ite_kept ?_ ?_)
    | split

theorem tick_kept {q₀ : List Instr} (s : State) (hk : Kept q₀ s) :
    Kept q₀ (tick s) := by
  unfold tick
  try dsimp only
  repeat' first
    | with_reducible assumption
    | simp only [Kept_mk, Kept_fold]
    | dsimp only
    | (with_reducible refine ite_kept ?_ ?_)
    | split

end Sys2Proof.Machine
end

