-- ==== Sys2Proof/Laws/KeptMail.lean ====
section
/-! SUPPORT. What the operations of Machine/Mail keep: `Kept`, the queue of commands and the invariant of memory and error state. -/

namespace Sys2Proof.Machine

set_option linter.unusedTactic false
set_option linter.unreachableTactic false
set_option linter.unusedVariables false

theorem setCmds_kept {q₀ : List Instr} (f : List Cmd → List Cmd) (s : State) (hk : Kept q₀ s) :
    Kept q₀ (setCmds f s) := by
  unfold setCmds
  try dsimp only
  repeat' first
    | with_reducible assumption
    | simp only [Kept_mk, Kept_fold]
    | dsimp only

theorem updCmd_kept {q₀ : List Instr} (id : Nat) (f : Cmd → Cmd) (s : State) (hk : Kept q₀ s) :
    Kept q₀ (updCmd id f s) := by
  unfold updCmd
  try dsimp only
  repeat' first
    | with_reducible assumption
    | simp only [Kept_mk, Kept_fold]
    | with_reducible apply setCmds_kept
    | (intro x s hs)
    | dsimp only
    | (with_reducible refine ite_kept ?_ ?_)
    | split

theorem finish_kept {q₀ : List Instr} (id status : Nat) (rekeyed : Bool) (rsp : List Byte) (s : State) (hk : Kept q₀ s) :
    Kept q₀ (finish id status rekeyed rsp s) := by
  unfold finish
  try dsimp only
  repeat' first
    | with_reducible assumption
    | simp only [Kept_mk, Kept_fold]
    | with_reducible apply setCmds_kept
    | with_reducible apply bump_kept
    | (intro x s hs)
    | dsimp only
    | (with_reducible refine ite_kept ?_ ?_)
    | split

theorem finishOk_kept {q₀ : List Instr} (id : Nat) (rsp : List Byte) (s : State) (hk : Kept q₀ s) :
    Kept q₀ (finishOk id rsp s) := by
  unfold finishOk
  try dsimp only
  repeat' first
    | with_reducible assumption
    | simp only [Kept_mk, Kept_fold]
    | with_reducible apply finish_kept
    | dsimp only

theorem finishErr_kept {q₀ : List Instr} (id status : Nat) (s : State) (hk : Kept q₀ s) :
    Kept q₀ (finishErr id status s) := by
  unfold finishErr
  try dsimp only
  repeat' first
    | with_reducible assumption
    | simp only [Kept_mk, Kept_fold]
    | with_reducible apply finish_kept
    | dsimp only

theorem runCmd_kept {q₀ : List Instr} (c code : Nat) (f : Cmd → State → State) (s : State) (ff : ∀ y0 s, Kept q₀ s → Kept q₀ (f y0 s)) (hk : Kept q₀ s) :
    Kept q₀ (runCmd c code f s) := by
  unfold runCmd
  try dsimp only
  repeat' first
    | with_reducible assumption
    | simp only [Kept_mk, Kept_fold]
     | (apply ff)
    | dsimp only
    | split

theorem keepRunning_kept {q₀ : List Instr} (id : Nat) (s : State) (hk : Kept q₀ s) :
    Kept q₀ (keepRunning id s) := by
  unfold keepRunning
  try dsimp only
  repeat' first
    | with_reducible assumption
    | simp only [Kept_mk, Kept_fold]
    | with_reducible apply updCmd_kept
    | (intro x s hs)
    | dsimp only

theorem setDb_kept {q₀ : List Instr} (c : Nat) (bit : Nat) (on : Bool) (s : State) (hk : Kept q₀ s) :
    Kept q₀ (setDb c bit on s) := by
  unfold setDb
  try dsimp only
  repeat' first
    | with_reducible assumption
    | simp only [Kept_mk, Kept_fold]
    | with_reducible apply updChan_kept
    | (intro x s hs)
    | dsimp only
    | (with_reducible refine ite_kept ?_ ?_)
    | split

theorem channelReset_kept {q₀ : List Instr} (c : Nat) (s : State) (hk : Kept q₀ s) :
    Kept q₀ (channelReset c s) := by
  unfold channelReset
  try dsimp only
  repeat' first
    | with_reducible assumption
    | simp only [Kept_mk, Kept_fold]
    | with_reducible apply setCmds_kept
    | with_reducible apply mbxEvent_kept
    | with_reducible apply setChan_kept
    | (intro x s hs)
    | dsimp only
    | (with_reducible refine ite_kept ?_ ?_)
    | split

theorem takeRack_kept {q₀ : List Instr} (c : Nat) (s : State) (hk : Kept q₀ s) :
    Kept q₀ (takeRack c s) := by
  unfold takeRack
  try dsimp only
  repeat' first
    | with_reducible assumption
    | simp only [Kept_mk, Kept_fold]
    | with_reducible apply setDb_kept
    | with_reducible apply updChan_kept
    | (intro x s hs)
    | dsimp only
    | (with_reducible refine ite_kept ?_ ?_)
    | split

theorem takeReset_kept {q₀ : List Instr} (c : Nat) (s : State) (hk : Kept q₀ s) :
    Kept q₀ (takeReset c s) := by
  unfold takeReset
  try dsimp only
  repeat' first
    | with_reducible assumption
    | simp only [Kept_mk, Kept_fold]
    | with_reducible apply channelReset_kept
    | dsimp only
    | (with_reducible refine ite_kept ?_ ?_)
    | split

end Sys2Proof.Machine
end

