-- ==== Sys2Proof/Laws/KeptNet.lean ====
section
/-! SUPPORT. What the operations of Machine/Net keep: `Kept`, the queue of commands and the invariant of memory and error state. -/

namespace Sys2Proof.Machine

set_option linter.unusedTactic false
set_option linter.unreachableTactic false
set_option linter.unusedVariables false

theorem updSess_kept {q₀ : List Instr} (mgmt : Bool) (td peer : Nat) (f : Sess → Sess) (s : State) (hk : Kept q₀ s) :
    Kept q₀ (updSess mgmt td peer f s) := by
  unfold updSess
  try dsimp only
  repeat' first
    | with_reducible assumption
    | simp only [Kept_mk, Kept_fold]
    | (intro x s hs)
    | dsimp only
    | (with_reducible refine ite_kept ?_ ?_)
    | split

theorem settleCredit_kept {q₀ : List Instr} (pn : Nat) (s : State) (hk : Kept q₀ s) :
    Kept q₀ (settleCredit pn s) := by
  unfold settleCredit
  try dsimp only
  repeat' first
    | with_reducible assumption
    | simp only [Kept_mk, Kept_fold]
    | with_reducible apply updPort_kept
    | (with_reducible refine foldl_kept _ _ (fun s a h => ?_) _ ?_)
    | (with_reducible refine foldl2_kept _ _ (fun s a h => ?_) _ ?_)
    | (intro x s hs)
    | dsimp only
    | (with_reducible refine ite_kept ?_ ?_)
    | split

theorem sendFrame_kept {q₀ : List Instr} (f : TxFrame) (s : State) (hk : Kept q₀ s) :
    Kept q₀ (sendFrame f s) := by
  unfold sendFrame
  split
  · exact bump_kept _ _ hk
  · extract_lets s1 q p s2 f2
    have h1 : Kept q₀ s1 := settleCredit_kept _ _ hk
    clear_value s1
    have h2 : Kept q₀ s2 := setPort_kept _ _ _ h1
    clear_value s2
    split
    · exact updPort_kept _ _ _ h2
    · exact bump_kept _ _ (updPort_kept _ _ _ h2)

theorem wire_keptE {q₀ : List Instr} {f : TxFrame} {s : State} {t' : Frame × State} (e' : wire f s = some t') (hk : Kept q₀ s) :
    Kept q₀ t'.2 := by
  unfold wire at e'
  try dsimp only at e'
  repeat' split at e'
  all_goals try simp only [Option.map_eq_some_iff] at e'
  all_goals try obtain ⟨_, _, rfl⟩ := e'
  all_goals try cases e'
  all_goals repeat' first
      | with_reducible assumption
      | simp only [Kept_mk, Kept_fold]
      | with_reducible apply updSess_kept
      | (intro x s hs)
      | dsimp only
      | (with_reducible refine ite_kept ?_ ?_)
      | split

theorem sendAck_kept {q₀ : List Instr} (qpn : Nat) (s : State) (hk : Kept q₀ s) :
    Kept q₀ (sendAck qpn s) := by
  unfold sendAck
  try dsimp only
  repeat' first
    | with_reducible assumption
    | simp only [Kept_mk, Kept_fold]
    | with_reducible apply updQp_kept
    | with_reducible apply sendFrame_kept
    | (intro x s hs)
    | dsimp only
    | split

theorem ackSoon_kept {q₀ : List Instr} (qpn : Nat) (s : State) (hk : Kept q₀ s) :
    Kept q₀ (ackSoon qpn s) := by
  unfold ackSoon
  try dsimp only
  repeat' first
    | with_reducible assumption
    | simp only [Kept_mk, Kept_fold]
    | with_reducible apply updQp_kept
    | with_reducible apply sendAck_kept
    | (intro x s hs)
    | dsimp only
    | (with_reducible refine ite_kept ?_ ?_)
    | split

theorem sendNak_kept {q₀ : List Instr} (qpn psn code info : Nat) (s : State) (hk : Kept q₀ s) :
    Kept q₀ (sendNak qpn psn code info s) := by
  unfold sendNak
  split
  · exact hk
  · extract_lets s1 s2
    have h1 : Kept q₀ s1 := bump_kept _ _ hk
    clear_value s1
    have h2 : Kept q₀ s2 := by
      unfold s2
      split
      · exact bump_kept _ _ h1
      · exact h1
    clear_value s2
    exact sendFrame_kept _ _ h2

theorem sendMsg_kept {q₀ : List Instr} (qpn : Nat) (frames : List TxFrame) (owner : MsgOwner) (s : State) (hk : Kept q₀ s) :
    Kept q₀ (sendMsg qpn frames owner s) := by
  unfold sendMsg
  try dsimp only
  repeat' first
    | with_reducible assumption
    | simp only [Kept_mk, Kept_fold]
    | with_reducible apply updQp_kept
    | (intro x s hs)
    | dsimp only

theorem replyLost_kept {q₀ : List Instr} (rid info : Nat) (s : State) (hk : Kept q₀ s) :
    Kept q₀ (replyLost rid info s) := by
  unfold replyLost
  try dsimp only
  repeat' first
    | with_reducible assumption
    | simp only [Kept_mk, Kept_fold]
    | with_reducible apply report_kept
    | with_reducible apply bump_kept
    | dsimp only
    | split

theorem abortExport_kept {q₀ : List Instr} (td seqn : Nat) (s : State) (hk : Kept q₀ s) :
    Kept q₀ (abortExport td seqn s) := by
  unfold abortExport
  try dsimp only
  repeat' first
    | with_reducible assumption
    | simp only [Kept_mk, Kept_fold]
    | with_reducible apply finishErr_kept
    | with_reducible apply updSeq_kept
    | (intro x s hs)
    | dsimp only
    | split

theorem abortExportsOf_kept {q₀ : List Instr} (td : Nat) (peer : Option Nat) (s : State) (hk : Kept q₀ s) :
    Kept q₀ (abortExportsOf td peer s) := by
  unfold abortExportsOf
  try dsimp only
  repeat' first
    | with_reducible assumption
    | simp only [Kept_mk, Kept_fold]
    | with_reducible apply abortExport_kept
    | (with_reducible refine foldl_kept _ _ (fun s a h => ?_) _ ?_)
    | (with_reducible refine foldl2_kept _ _ (fun s a h => ?_) _ ?_)
    | (intro x s hs)
    | dsimp only
    | (with_reducible refine ite_kept ?_ ?_)
    | split

theorem ownerFailed_kept {q₀ : List Instr} (o : MsgOwner) (s : State) (hk : Kept q₀ s) :
    Kept q₀ (ownerFailed o s) := by
  unfold ownerFailed
  try dsimp only
  repeat' first
    | with_reducible assumption
    | simp only [Kept_mk, Kept_fold]
    | with_reducible apply abortExport_kept
    | with_reducible apply replyLost_kept
    | dsimp only
    | split

theorem qpError_kept {q₀ : List Instr} (qpn info : Nat) (s : State) (hk : Kept q₀ s) :
    Kept q₀ (qpError qpn info s) := by
  unfold qpError
  try dsimp only
  repeat' first
    | with_reducible assumption
    | simp only [Kept_mk, Kept_fold]
    | with_reducible apply updQp_kept
    | with_reducible apply report_kept
    | with_reducible apply bump_kept
    | with_reducible apply ownerFailed_kept
    | (with_reducible refine foldl_kept _ _ (fun s a h => ?_) _ ?_)
    | (with_reducible refine foldl2_kept _ _ (fun s a h => ?_) _ ?_)
    | (intro x s hs)
    | dsimp only
    | (with_reducible refine ite_kept ?_ ?_)
    | split

end Sys2Proof.Machine
end

