-- ==== Sys2Proof/Laws/KeptPower.lean ====
section
/-! SUPPORT. What the operations of Machine/Power keep: `Kept`, the queue of commands and the invariant of memory and error state. -/

namespace Sys2Proof.Machine

set_option linter.unusedTactic false
set_option linter.unreachableTactic false
set_option linter.unusedVariables false

theorem wipe_kept {q₀ : List Instr} (s : State) (hk : Kept q₀ s) :
    Kept q₀ (wipe s) := ⟨hk.pending, rfl, rfl, Nat.zero_le _, Nat.zero_le _⟩

theorem nodeReset_kept {q₀ : List Instr} (s : State) (hk : Kept q₀ s) :
    Kept q₀ (nodeReset s) := by
  unfold nodeReset
  try dsimp only
  repeat' first
    | with_reducible assumption
    | simp only [Kept_mk, Kept_fold]
    | with_reducible apply wipe_kept
    | dsimp only

theorem bringupFail_kept {q₀ : List Instr} (cause : Nat) (s : State) (hk : Kept q₀ s) :
    Kept q₀ (bringupFail cause s) := by
  unfold bringupFail
  try dsimp only
  repeat' first
    | with_reducible assumption
    | simp only [Kept_mk, Kept_fold]
    | with_reducible apply fatalStop_kept
    | dsimp only

theorem startBringup_kept {q₀ : List Instr} (sbSel sbAddr : Nat) (testEn refclkOk : Bool) (s : State) (hk : Kept q₀ s) :
    Kept q₀ (startBringup sbSel sbAddr testEn refclkOk s) := by
  unfold startBringup
  try dsimp only
  repeat' first
    | with_reducible assumption
    | simp only [Kept_mk, Kept_fold]
    | (intro x s hs)
    | dsimp only
    | (with_reducible refine ite_kept ?_ ?_)
    | split

theorem assertReset_kept {q₀ : List Instr} (f : Pwr → Pwr) (s : State) (hk : Kept q₀ s) :
    Kept q₀ (assertReset f s) := by
  unfold assertReset
  try dsimp only
  repeat' first
    | with_reducible assumption
    | simp only [Kept_mk, Kept_fold]
    | with_reducible apply nodeReset_kept
    | dsimp only
    | (with_reducible refine ite_kept ?_ ?_)
    | split

theorem setPhase_kept {q₀ : List Instr} (p : Phase) (s : State) (hk : Kept q₀ s) :
    Kept q₀ (setPhase p s) := by
  unfold setPhase
  try dsimp only
  repeat' first
    | with_reducible assumption
    | simp only [Kept_mk, Kept_fold]
    | (intro x s hs)
    | dsimp only

theorem readBoard_kept {q₀ : List Instr} (f : Fuses) (b : List Byte) (s : State) (hk : Kept q₀ s) :
    Kept q₀ (readBoard f b s) := by
  unfold readBoard
  try dsimp only
  repeat' first
    | with_reducible assumption
    | simp only [Kept_mk, Kept_fold]
    | with_reducible apply report_kept
    | (intro x s hs)
    | dsimp only
    | (with_reducible refine ite_kept ?_ ?_)
    | split

theorem updZph_kept {q₀ : List Instr} (die : Nat) (f : Zph → Zph) (s : State) (hk : Kept q₀ s) :
    Kept q₀ (updZph die f s) := by
  unfold updZph
  try dsimp only
  repeat' first
    | with_reducible assumption
    | simp only [Kept_mk, Kept_fold]
    | dsimp only
    | (with_reducible refine ite_kept ?_ ?_)
    | split

theorem drawPlaces_kept {q₀ : List Instr}  :
    ∀ n s, Kept q₀ s → Kept q₀ (drawPlaces n s) := by
  intro n
  induction n with
  | zero => intro s hk; exact hk
  | succ n ih =>
    intro s hk
    unfold drawPlaces
    try dsimp only
    repeat' first
        | with_reducible apply ih
        | with_reducible assumption
        | simp only [Kept_mk, Kept_fold]
        | with_reducible apply updDom_kept
        | with_reducible apply draw_kept
        | (refine draw_keptE (by assumption) ?_)
        | (intro x s hs)
        | dsimp only
        | split

theorem resetVfView_kept {q₀ : List Instr} (n : Nat) (s : State) (hk : Kept q₀ s) :
    Kept q₀ (resetVfView n s) := by
  unfold resetVfView
  try dsimp only
  repeat' first
    | with_reducible assumption
    | simp only [Kept_mk, Kept_fold]
    | with_reducible apply updDom_kept
    | (intro x s hs)
    | dsimp only

end Sys2Proof.Machine
end

