-- ==== Sys2Proof/Laws/KeptCmdNode.lean ====
section
/-! SUPPORT. What the operations of Machine/CmdNode keep: `Kept`, the queue of commands and the invariant of memory and error state. -/

namespace Sys2Proof.Machine

set_option linter.unusedTactic false
set_option linter.unreachableTactic false
set_option linter.unusedVariables false

theorem freeSlots_kept {q₀ : List Instr} (p : Nat × Slot → Bool) (s : State) (hk : Kept q₀ s) :
    Kept q₀ (freeSlots p s) := by
  unfold freeSlots
  try dsimp only
  repeat' first
    | with_reducible assumption
    | simp only [Kept_mk, Kept_fold]
    | with_reducible apply finishErr_kept
    | (with_reducible refine foldl_kept _ _ (fun s a h => ?_) _ ?_)
    | (with_reducible refine foldl2_kept _ _ (fun s a h => ?_) _ ?_)
    | (intro x s hs)
    | dsimp only
    | split

end Sys2Proof.Machine
end

