-- ==== Sys2Proof/Laws/KeptSession.lean ====
section
/-! SUPPORT. What the operations of Machine/Session keep: `Kept`, the queue of commands and the invariant of memory and error state. -/

namespace Sys2Proof.Machine

set_option linter.unusedTactic false
set_option linter.unreachableTactic false
set_option linter.unusedVariables false

theorem setSlot_kept {q₀ : List Instr} (k : Nat) (x : Slot) (s : State) (hk : Kept q₀ s) :
    Kept q₀ (setSlot k x s) := by
  unfold setSlot
  try dsimp only
  repeat' first
    | with_reducible assumption
    | simp only [Kept_mk, Kept_fold]
    | dsimp only

theorem newSlot_kept {q₀ : List Instr} (k : Nat) (x : Slot) (s : State) (hk : Kept q₀ s) :
    Kept q₀ (newSlot k x s) := by
  unfold newSlot
  try dsimp only
  repeat' first
    | with_reducible assumption
    | simp only [Kept_mk, Kept_fold]
    | with_reducible apply setSlot_kept
    | dsimp only
    | (with_reducible refine ite_kept ?_ ?_)
    | split

theorem installSession_kept {q₀ : List Instr} (mgmt : Bool) (td peer : Nat) (secret : List Byte) (s : State) (hk : Kept q₀ s) :
    Kept q₀ (installSession mgmt td peer secret s) := by
  unfold installSession
  try dsimp only
  repeat' first
    | with_reducible assumption
    | simp only [Kept_mk, Kept_fold]
    | with_reducible apply bump_kept
    | with_reducible apply abortExportsOf_kept
    | (intro x s hs)
    | dsimp only
    | (with_reducible refine ite_kept ?_ ?_)
    | split

theorem spdm_kept {q₀ : List Instr} (ok : Bool) (code : Nat) (content : List Byte) (f : Sec → Sec) (s : State) (hk : Kept q₀ s) :
    Kept q₀ (spdm ok code content f s) := by
  unfold spdm
  try dsimp only
  repeat' first
    | with_reducible assumption
    | simp only [Kept_mk, Kept_fold]
    | with_reducible apply emit_kept
    | dsimp only
    | (with_reducible refine ite_kept ?_ ?_)
    | split

theorem updIde_kept {q₀ : List Instr} (stream : Nat) (f : Ide → Ide) (s : State) (hk : Kept q₀ s) :
    Kept q₀ (updIde stream f s) := by
  unfold updIde
  try dsimp only
  repeat' first
    | with_reducible assumption
    | simp only [Kept_mk, Kept_fold]
    | dsimp only

end Sys2Proof.Machine
end

