-- ==== Sys2Proof/Laws/KeptPages.lean ====
section
/-! SUPPORT. What the operations of Machine/Pages keep: `Kept`, the queue of commands and the invariant of memory and error state. -/

namespace Sys2Proof.Machine

set_option linter.unusedTactic false
set_option linter.unreachableTactic false
set_option linter.unusedVariables false

theorem noteRead_kept {q₀ : List Instr} (r : PRead) (s : State) (hk : Kept q₀ s) :
    Kept q₀ (noteRead r s) := by
  unfold noteRead
  try dsimp only
  repeat' first
    | with_reducible assumption
    | simp only [Kept_mk, Kept_fold]
    | with_reducible apply bump_kept
    | (with_reducible refine foldl_kept _ _ (fun s a h => ?_) _ ?_)
    | (with_reducible refine foldl2_kept _ _ (fun s a h => ?_) _ ?_)
    | (intro x s hs)
    | dsimp only

theorem dropWriteback_kept {q₀ : List Instr} (lo hi : Nat) (s : State) (hk : Kept q₀ s) :
    Kept q₀ (dropWriteback lo hi s) := by
  unfold dropWriteback
  try dsimp only
  repeat' first
    | with_reducible assumption
    | simp only [Kept_mk, Kept_fold]
    | (intro x s hs)
    | dsimp only

theorem sampleDone_kept {q₀ : List Instr} (die : Nat) (x : Sample) (ctr off : Nat) (s : State) (hk : Kept q₀ s) :
    Kept q₀ (sampleDone die x ctr off s) := by
  unfold sampleDone
  try dsimp only
  repeat' first
    | with_reducible assumption
    | simp only [Kept_mk, Kept_fold]
    | with_reducible apply bump_kept
    | with_reducible apply updZph_kept
    | (intro x s hs)
    | dsimp only
    | (with_reducible refine ite_kept ?_ ?_)
    | split

theorem lullSoft_kept {q₀ : List Instr} (die : Nat) (x : Sample) (info : Nat) (s : State) (hk : Kept q₀ s) :
    Kept q₀ (lullSoft die x info s) := by
  unfold lullSoft
  try dsimp only
  repeat' first
    | with_reducible assumption
    | simp only [Kept_mk, Kept_fold]
    | with_reducible apply report_kept
    | with_reducible apply updZph_kept
    | (intro x s hs)
    | dsimp only
    | (with_reducible refine ite_kept ?_ ?_)
    | split

theorem voidSample_kept {q₀ : List Instr} (die : Nat) (x : Sample) (s : State) (hk : Kept q₀ s) :
    Kept q₀ (voidSample die x s) := by
  unfold voidSample
  try dsimp only
  repeat' first
    | with_reducible assumption
    | simp only [Kept_mk, Kept_fold]
    | with_reducible apply lullSoft_kept
    | with_reducible apply sampleDone_kept
    | dsimp only
    | (with_reducible refine ite_kept ?_ ?_)
    | split

theorem voidIf_kept {q₀ : List Instr} (p : Sample → Bool) (s : State) (hk : Kept q₀ s) :
    Kept q₀ (voidIf p s) := by
  unfold voidIf
  try dsimp only
  repeat' first
    | with_reducible assumption
    | simp only [Kept_mk, Kept_fold]
    | with_reducible apply voidSample_kept
    | (with_reducible refine foldl_kept _ _ (fun s a h => ?_) _ ?_)
    | (with_reducible refine foldl2_kept _ _ (fun s a h => ?_) _ ?_)
    | (intro x s hs)
    | dsimp only

theorem closeIf_kept {q₀ : List Instr} (p : Sample → Bool) (s : State) (hk : Kept q₀ s) :
    Kept q₀ (closeIf p s) := by
  unfold closeIf
  try dsimp only
  repeat' first
    | with_reducible assumption
    | simp only [Kept_mk, Kept_fold]
    | with_reducible apply sampleDone_kept
    | (with_reducible refine foldl_kept _ _ (fun s a h => ?_) _ ?_)
    | (with_reducible refine foldl2_kept _ _ (fun s a h => ?_) _ ?_)
    | (intro x s hs)
    | dsimp only

theorem voidPage_kept {q₀ : List Instr} (td seqn pix : Nat) (s : State) (hk : Kept q₀ s) :
    Kept q₀ (voidPage td seqn pix s) := by
  unfold voidPage
  try dsimp only
  repeat' first
    | with_reducible assumption
    | simp only [Kept_mk, Kept_fold]
    | with_reducible apply voidIf_kept
    | dsimp only

theorem tcheckError_kept {q₀ : List Instr} (d : SeqD) (pix tdc tag : Nat) (s : State) (hk : Kept q₀ s) :
    Kept q₀ (tcheckError d pix tdc tag s) := by
  unfold tcheckError
  try dsimp only
  repeat' first
    | with_reducible assumption
    | simp only [Kept_mk, Kept_fold]
    | with_reducible apply report_kept
    | dsimp only

theorem dropOps_kept {q₀ : List Instr} (p : UnitOp → Bool) (s : State) (hk : Kept q₀ s) :
    Kept q₀ (dropOps p s) := by
  unfold dropOps
  try dsimp only
  repeat' first
    | with_reducible assumption
    | simp only [Kept_mk, Kept_fold]
    | (intro x s hs)
    | dsimp only

theorem enqueueUnit_kept {q₀ : List Instr} (u : Nat) (op : UnitOp) (s : State) (hk : Kept q₀ s) :
    Kept q₀ (enqueueUnit u op s) := by
  unfold enqueueUnit
  try dsimp only
  repeat' first
    | with_reducible assumption
    | simp only [Kept_mk, Kept_fold]
    | dsimp only

theorem dropZero_kept {q₀ : List Instr} (p : Nat → Bool) (s : State) (hk : Kept q₀ s) :
    Kept q₀ (dropZero p s) := by
  unfold dropZero
  try dsimp only
  repeat' first
    | with_reducible assumption
    | simp only [Kept_mk, Kept_fold]
    | with_reducible apply dropOps_kept
    | (intro x s hs)
    | dsimp only
    | split

theorem giveFrame_kept {q₀ : List Instr} (f : Nat) (s : State) (hk : Kept q₀ s) :
    Kept q₀ (giveFrame f s) := by
  unfold giveFrame
  try dsimp only
  repeat' first
    | with_reducible assumption
    | simp only [Kept_mk, Kept_fold]
    | with_reducible apply enqueueUnit_kept
    | (refine keptP_mem (by assumption) ?_)
    | with_reducible apply zeroFrame_ok
    | with_reducible apply loadFrame_ok
    | with_reducible apply wrPage_ok
    | with_reducible apply wrEach_ok
    | (with_reducible apply Kept.mem)
    | dsimp only
    | (with_reducible refine ite_kept ?_ ?_)
    | split

theorem endTests_kept {q₀ : List Instr} (td : Nat) (s : State) (hk : Kept q₀ s) :
    Kept q₀ (endTests td s) := by
  unfold endTests
  try dsimp only
  repeat' first
    | with_reducible assumption
    | simp only [Kept_mk, Kept_fold]
    | with_reducible apply giveFrame_kept
    | (with_reducible refine foldl_kept _ _ (fun s a h => ?_) _ ?_)
    | (with_reducible refine foldl2_kept _ _ (fun s a h => ?_) _ ?_)
    | (intro x s hs)
    | dsimp only
    | (with_reducible refine ite_kept ?_ ?_)
    | split

theorem takeFrame_kept {q₀ : List Instr} (f : Nat) (s : State) (hk : Kept q₀ s) :
    Kept q₀ (takeFrame f s) := by
  unfold takeFrame
  try dsimp only
  repeat' first
    | with_reducible assumption
    | simp only [Kept_mk, Kept_fold]
    | with_reducible apply dropZero_kept
    | with_reducible apply endTests_kept
    | (refine keptP_mem (by assumption) ?_)
    | with_reducible apply zeroFrame_ok
    | with_reducible apply loadFrame_ok
    | with_reducible apply wrPage_ok
    | with_reducible apply wrEach_ok
    | (with_reducible apply Kept.mem)
    | (intro x s hs)
    | dsimp only
    | (with_reducible refine ite_kept ?_ ?_)
    | split

theorem dropChgs_kept {q₀ : List Instr} (p : Chg → Bool) (s : State) (hk : Kept q₀ s) :
    Kept q₀ (dropChgs p s) := by
  unfold dropChgs
  try dsimp only
  repeat' first
    | with_reducible assumption
    | simp only [Kept_mk, Kept_fold]
    | with_reducible apply dropOps_kept
    | (refine keptP_mem (by assumption) ?_)
    | with_reducible apply zeroFrame_ok
    | with_reducible apply loadFrame_ok
    | with_reducible apply wrPage_ok
    | with_reducible apply wrEach_ok
    | (with_reducible apply Kept.mem)
    | (intro x s hs)
    | dsimp only
    | split

theorem abandon_kept {q₀ : List Instr} (p : Chg → Bool) (s : State) (hk : Kept q₀ s) :
    Kept q₀ (abandon p s) := by
  unfold abandon
  try dsimp only
  repeat' first
    | with_reducible assumption
    | simp only [Kept_mk, Kept_fold]
    | with_reducible apply giveFrame_kept
    | with_reducible apply dropChgs_kept
    | (with_reducible refine foldl_kept _ _ (fun s a h => ?_) _ ?_)
    | (with_reducible refine foldl2_kept _ _ (fun s a h => ?_) _ ?_)
    | (intro x s hs)
    | dsimp only
    | (with_reducible refine ite_kept ?_ ?_)
    | split

theorem retireFrame_kept {q₀ : List Instr} (ix : Nat) (s : State) (hk : Kept q₀ s) :
    Kept q₀ (retireFrame ix s) := by
  unfold retireFrame
  try dsimp only
  repeat' first
    | with_reducible assumption
    | simp only [Kept_mk, Kept_fold]
    | with_reducible apply dropZero_kept
    | with_reducible apply fenceCode_kept
    | (refine keptP_mem (by assumption) ?_)
    | with_reducible apply zeroFrame_ok
    | with_reducible apply loadFrame_ok
    | with_reducible apply wrPage_ok
    | with_reducible apply wrEach_ok
    | (with_reducible apply Kept.mem)
    | (intro x s hs)
    | dsimp only

theorem tcDrop_kept {q₀ : List Instr} (p : TcEntry → Bool) (s : State) (hk : Kept q₀ s) :
    Kept q₀ (tcDrop p s) := by
  unfold tcDrop
  try dsimp only
  repeat' first
    | with_reducible assumption
    | simp only [Kept_mk, Kept_fold]
    | (intro x s hs)
    | dsimp only

theorem tcTrim_kept {q₀ : List Instr} (td : Nat) (s : State) (hk : Kept q₀ s) :
    Kept q₀ (tcTrim td s) := by
  unfold tcTrim
  try dsimp only
  repeat' first
    | with_reducible assumption
    | simp only [Kept_mk, Kept_fold]
    | (intro x s hs)
    | dsimp only
    | (with_reducible refine ite_kept ?_ ?_)
    | split

theorem wcSync_kept {q₀ : List Instr} (td seqn : Nat) (s : State) (hk : Kept q₀ s) :
    Kept q₀ (wcSync td seqn s) := by
  unfold wcSync
  try dsimp only
  repeat' first
    | with_reducible assumption
    | simp only [Kept_mk, Kept_fold]
    | (intro x s hs)
    | dsimp only
    | (with_reducible refine ite_kept ?_ ?_)
    | split

theorem setLeafAt_kept {q₀ : List Instr} (td seqn pix : Nat) (l : Leaf) (s : State) (hk : Kept q₀ s) :
    Kept q₀ (setLeafAt td seqn pix l s) := by
  unfold setLeafAt
  try dsimp only
  repeat' first
    | with_reducible assumption
    | simp only [Kept_mk, Kept_fold]
    | with_reducible apply wcSync_kept
    | with_reducible apply updSeq_kept
    | with_reducible apply tcDrop_kept
    | (intro x s hs)
    | dsimp only

theorem updLeafAt_kept {q₀ : List Instr} (td seqn pix : Nat) (f : Leaf → Leaf) (s : State) (hk : Kept q₀ s) :
    Kept q₀ (updLeafAt td seqn pix f s) := by
  unfold updLeafAt
  try dsimp only
  repeat' first
    | with_reducible assumption
    | simp only [Kept_mk, Kept_fold]
    | with_reducible apply setLeafAt_kept
    | (intro x s hs)
    | dsimp only
    | split

theorem touch_kept {q₀ : List Instr} (td seqn pix : Nat) (s : State) (hk : Kept q₀ s) :
    Kept q₀ (touch td seqn pix s) := by
  unfold touch
  try dsimp only
  repeat' first
    | with_reducible assumption
    | simp only [Kept_mk, Kept_fold]
    | with_reducible apply voidPage_kept
    | with_reducible apply updSeq_kept
    | (intro x s hs)
    | dsimp only
    | (with_reducible refine ite_kept ?_ ?_)
    | split

theorem updEntry_kept {q₀ : List Instr} (td : Nat) (key : BitVec 128) (f : DirE → DirE) (s : State) (hk : Kept q₀ s) :
    Kept q₀ (updEntry td key f s) := by
  unfold updEntry
  try dsimp only
  repeat' first
    | with_reducible assumption
    | simp only [Kept_mk, Kept_fold]
    | (intro x s hs)
    | dsimp only
    | (with_reducible refine ite_kept ?_ ?_)
    | split

theorem dropEntry_kept {q₀ : List Instr} (td : Nat) (key : BitVec 128) (s : State) (hk : Kept q₀ s) :
    Kept q₀ (dropEntry td key s) := by
  unfold dropEntry
  try dsimp only
  repeat' first
    | with_reducible assumption
    | simp only [Kept_mk, Kept_fold]
    | (intro x s hs)
    | dsimp only

theorem updGroup_kept {q₀ : List Instr} (td sidx : Nat) (f : Group → Group) (s : State) (hk : Kept q₀ s) :
    Kept q₀ (updGroup td sidx f s) := by
  unfold updGroup
  try dsimp only
  repeat' first
    | with_reducible assumption
    | simp only [Kept_mk, Kept_fold]
    | (intro x s hs)
    | dsimp only
    | (with_reducible refine ite_kept ?_ ?_)
    | split

theorem lowerRef_kept {q₀ : List Instr} (td : Nat) (g : Group) (n : Nat) (s : State) (hk : Kept q₀ s) :
    Kept q₀ (lowerRef td g n s) := by
  unfold lowerRef
  try dsimp only
  repeat' first
    | with_reducible assumption
    | simp only [Kept_mk, Kept_fold]
    | with_reducible apply dropEntry_kept
    | with_reducible apply updGroup_kept
    | with_reducible apply updEntry_kept
    | (intro x s hs)
    | dsimp only
    | (with_reducible refine ite_kept ?_ ?_)
    | split

theorem dropRecord_kept {q₀ : List Instr} (td ix : Nat) (s : State) (hk : Kept q₀ s) :
    Kept q₀ (dropRecord td ix s) := by
  unfold dropRecord
  try dsimp only
  repeat' first
    | with_reducible assumption
    | simp only [Kept_mk, Kept_fold]
    | with_reducible apply lowerRef_kept
    | with_reducible apply updGroup_kept
    | (intro x s hs)
    | dsimp only
    | split

theorem updRecord_kept {q₀ : List Instr} (td ix : Nat) (f : PRec → PRec) (s : State) (hk : Kept q₀ s) :
    Kept q₀ (updRecord td ix f s) := by
  unfold updRecord
  try dsimp only
  repeat' first
    | with_reducible assumption
    | simp only [Kept_mk, Kept_fold]
    | with_reducible apply updGroup_kept
    | with_reducible apply tcDrop_kept
    | (intro x s hs)
    | dsimp only
    | split

theorem voidRecord_kept {q₀ : List Instr} (td ix : Nat) (s : State) (hk : Kept q₀ s) :
    Kept q₀ (voidRecord td ix s) := by
  unfold voidRecord
  try dsimp only
  repeat' first
    | with_reducible assumption
    | simp only [Kept_mk, Kept_fold]
    | with_reducible apply voidIf_kept
    | (intro x s hs)
    | dsimp only
    | split

theorem poisonRecord_kept {q₀ : List Instr} (td ix : Nat) (s : State) (hk : Kept q₀ s) :
    Kept q₀ (poisonRecord td ix s) := by
  unfold poisonRecord
  try dsimp only
  repeat' first
    | with_reducible assumption
    | simp only [Kept_mk, Kept_fold]
    | with_reducible apply abandon_kept
    | with_reducible apply lowerRef_kept
    | with_reducible apply updRecord_kept
    | with_reducible apply updEntry_kept
    | with_reducible apply voidRecord_kept
    | (intro x s hs)
    | dsimp only
    | (with_reducible refine ite_kept ?_ ?_)
    | split

theorem abandonChg_kept {q₀ : List Instr} (td seqn pix : Nat) (s : State) (hk : Kept q₀ s) :
    Kept q₀ (abandonChg td seqn pix s) := by
  unfold abandonChg
  try dsimp only
  repeat' first
    | with_reducible assumption
    | simp only [Kept_mk, Kept_fold]
    | with_reducible apply abandon_kept
    | (intro x s hs)
    | dsimp only

theorem setPsn_kept {q₀ : List Instr} (td seqn pix : Nat) (s : State) (hk : Kept q₀ s) :
    Kept q₀ (setPsn td seqn pix s) := by
  unfold setPsn
  try dsimp only
  repeat' first
    | with_reducible assumption
    | simp only [Kept_mk, Kept_fold]
    | with_reducible apply voidPage_kept
    | with_reducible apply setLeafAt_kept
    | with_reducible apply abandonChg_kept
    | with_reducible apply poisonRecord_kept
    | (intro x s hs)
    | dsimp only
    | (with_reducible refine ite_kept ?_ ?_)
    | split

theorem poisonPage_kept {q₀ : List Instr} (td seqn pix lkind loc info tag : Nat) (s : State) (hk : Kept q₀ s) :
    Kept q₀ (poisonPage td seqn pix lkind loc info tag s) := by
  unfold poisonPage
  try dsimp only
  repeat' first
    | with_reducible assumption
    | simp only [Kept_mk, Kept_fold]
    | with_reducible apply report_kept
    | with_reducible apply setPsn_kept
    | dsimp only

theorem poisonFirst_kept {q₀ : List Instr} (td seqn pix f tag : Nat) (bad : List Nat) (s : State) (hk : Kept q₀ s) :
    Kept q₀ (poisonFirst td seqn pix f tag bad s) := by
  unfold poisonFirst
  try dsimp only
  repeat' first
    | with_reducible assumption
    | simp only [Kept_mk, Kept_fold]
    | with_reducible apply poisonPage_kept
    | dsimp only
    | split

theorem pageReadDone_kept {q₀ : List Instr} (td seqn pix f tag : Nat) (r : PRead) (s : State) (hk : Kept q₀ s) :
    Kept q₀ (pageReadDone td seqn pix f tag r s) := by
  unfold pageReadDone
  try dsimp only
  repeat' first
    | with_reducible assumption
    | simp only [Kept_mk, Kept_fold]
    | with_reducible apply poisonFirst_kept
    | with_reducible apply noteRead_kept
    | dsimp only

theorem updTarget_kept {q₀ : List Instr} (c t : Nat) (f : FTarget → FTarget) (s : State) (hk : Kept q₀ s) :
    Kept q₀ (updTarget c t f s) := by
  unfold updTarget
  try dsimp only
  repeat' first
    | with_reducible assumption
    | simp only [Kept_mk, Kept_fold]
    | (refine keptP_mem (by assumption) ?_)
    | with_reducible apply zeroFrame_ok
    | with_reducible apply loadFrame_ok
    | with_reducible apply wrPage_ok
    | with_reducible apply wrEach_ok
    | (with_reducible apply Kept.mem)
    | dsimp only

theorem freeFlash_kept {q₀ : List Instr} (lpn : Nat) (s : State) (hk : Kept q₀ s) :
    Kept q₀ (freeFlash lpn s) := by
  unfold freeFlash
  try dsimp only
  repeat' first
    | with_reducible assumption
    | simp only [Kept_mk, Kept_fold]
    | with_reducible apply updTarget_kept
    | (refine keptP_mem (by assumption) ?_)
    | with_reducible apply zeroFrame_ok
    | with_reducible apply loadFrame_ok
    | with_reducible apply wrPage_ok
    | with_reducible apply wrEach_ok
    | (with_reducible apply Kept.mem)
    | (intro x s hs)
    | dsimp only
    | split

theorem freePage_kept {q₀ : List Instr} (td seqn pix : Nat) (s : State) (hk : Kept q₀ s) :
    Kept q₀ (freePage td seqn pix s) := by
  unfold freePage
  try dsimp only
  repeat' first
    | with_reducible assumption
    | simp only [Kept_mk, Kept_fold]
    | with_reducible apply freeFlash_kept
    | with_reducible apply giveFrame_kept
    | with_reducible apply setLeafAt_kept
    | with_reducible apply closeIf_kept
    | with_reducible apply dropRecord_kept
    | (intro x s hs)
    | dsimp only
    | (with_reducible refine ite_kept ?_ ?_)
    | split

end Sys2Proof.Machine
end

