-- ==== Sys2Proof/Laws/KeptCompute.lean ====
section
/-! SUPPORT. What the operations of Machine/Compute keep: `Kept`, the queue of commands and the invariant of memory and error state. -/

namespace Sys2Proof.Machine

set_option linter.unusedTactic false
set_option linter.unreachableTactic false
set_option linter.unusedVariables false

theorem addPart_kept {q₀ : List Instr} (w : Nat) (l : List Part) (p : Part) (s : State) (hk : Kept q₀ s) :
    Kept q₀ (addPart w l p s).2 := by
  unfold addPart
  try dsimp only
  repeat' first
    | with_reducible assumption
    | simp only [Kept_mk, Kept_fold]
    | (intro x s hs)
    | dsimp only
    | (with_reducible refine ite_kept ?_ ?_)
    | split

theorem addPart_keptE {q₀ : List Instr} {w : Nat} {l : List Part} {p : Part} {s : State} {x0 : List Part} {t' : State} (e' : addPart w l p s = (x0, t')) (hk : Kept q₀ s) : Kept q₀ t' := by
  have h := addPart_kept w l p s hk
  rw [e'] at h
  exact h

theorem mergeAll_kept {q₀ : List Instr} (w : Nat) (l : List Part) (s : State) (hk : Kept q₀ s) :
    Kept q₀ (mergeAll w l s).2 := by
  unfold mergeAll
  refine foldl2_kept (fun (acc : List Part × State) p => addPart w acc.1 p acc.2) _ (fun s a h => ?_) _ ?_
  · exact addPart_kept _ _ _ _ h
  · exact hk

theorem mergeAll_keptE {q₀ : List Instr} {w : Nat} {l : List Part} {s : State} {x0 : List Part} {t' : State} (e' : mergeAll w l s = (x0, t')) (hk : Kept q₀ s) : Kept q₀ t' := by
  have h := mergeAll_kept w l s hk
  rw [e'] at h
  exact h

end Sys2Proof.Machine
end

