-- ==== Sys2Proof/Laws/KeptWork.lean ====
section
/-! SUPPORT. What the operations of Machine/Work keep: `Kept`, the queue of commands and the invariant of memory and error state. -/

namespace Sys2Proof.Machine

set_option linter.unusedTactic false
set_option linter.unreachableTactic false
set_option linter.unusedVariables false

theorem lullOff_kept {q₀ : List Instr} (s : State) (hk : Kept q₀ s) :
    Kept q₀ (lullOff s) := by
  unfold lullOff
  try dsimp only
  repeat' first
    | with_reducible assumption
    | simp only [Kept_mk, Kept_fold]
    | with_reducible apply sampleDone_kept
    | (with_reducible refine foldl_kept _ _ (fun s a h => ?_) _ ?_)
    | (with_reducible refine foldl2_kept _ _ (fun s a h => ?_) _ ?_)
    | (intro x s hs)
    | dsimp only
    | (with_reducible refine ite_kept ?_ ?_)
    | split

theorem sampleBack_kept {q₀ : List Instr} (die : Nat) (s : State) (hk : Kept q₀ s) :
    Kept q₀ (sampleBack die s) := by
  unfold sampleBack
  try dsimp only
  repeat' first
    | with_reducible assumption
    | simp only [Kept_mk, Kept_fold]
    | with_reducible apply lullOff_kept
    | with_reducible apply updZph_kept
    | (intro x s hs)
    | dsimp only
    | (with_reducible refine ite_kept ?_ ?_)
    | split

theorem syncZph_kept {q₀ : List Instr} (s : State) (hk : Kept q₀ s) :
    Kept q₀ (syncZph s) := by
  unfold syncZph
  try dsimp only
  repeat' first
    | with_reducible assumption
    | simp only [Kept_mk, Kept_fold]
    | with_reducible apply sampleBack_kept
    | with_reducible apply updZph_kept
    | (with_reducible refine foldl_kept _ _ (fun s a h => ?_) _ ?_)
    | (with_reducible refine foldl2_kept _ _ (fun s a h => ?_) _ ?_)
    | (intro x s hs)
    | dsimp only
    | (with_reducible refine ite_kept ?_ ?_)
    | split

theorem updReq_kept {q₀ : List Instr} (rid : Nat) (f : Req → Req) (s : State) (hk : Kept q₀ s) :
    Kept q₀ (updReq rid f s) := by
  unfold updReq
  try dsimp only
  repeat' first
    | with_reducible assumption
    | simp only [Kept_mk, Kept_fold]
    | with_reducible apply syncZph_kept
    | (intro x s hs)
    | dsimp only
    | (with_reducible refine ite_kept ?_ ?_)
    | split

theorem settleFences_kept {q₀ : List Instr} (s : State) (hk : Kept q₀ s) :
    Kept q₀ (settleFences s) := by
  unfold settleFences
  try dsimp only
  repeat' first
    | with_reducible assumption
    | simp only [Kept_mk, Kept_fold]
    | with_reducible apply finishOk_kept
    | (with_reducible refine foldl_kept _ _ (fun s a h => ?_) _ ?_)
    | (with_reducible refine foldl2_kept _ _ (fun s a h => ?_) _ ?_)
    | (intro x s hs)
    | dsimp only
    | (with_reducible refine ite_kept ?_ ?_)
    | split

theorem translatePage_kept {q₀ : List Instr} (r : Req) (k tp : Nat) (s : State) (hk : Kept q₀ s) :
    Kept q₀ (translatePage r k tp s).2 := by
  unfold translatePage
  try dsimp only
  repeat' first
    | with_reducible assumption
    | simp only [Kept_mk, Kept_fold]
    | with_reducible apply tcheckError_kept
    | with_reducible apply updReq_kept
    | (intro x s hs)
    | dsimp only
    | split

theorem translatePage_keptE {q₀ : List Instr} {r : Req} {k tp : Nat} {s : State} {x0 : PageRef} {t' : State} (e' : translatePage r k tp s = (x0, t')) (hk : Kept q₀ s) : Kept q₀ t' := by
  have h := translatePage_kept r k tp s hk
  rw [e'] at h
  exact h

theorem translate_kept {q₀ : List Instr} (r : Req) (s : State) (hk : Kept q₀ s) :
    Kept q₀ (translate r s).2 := by
  unfold translate
  try dsimp only
  repeat' first
    | with_reducible assumption
    | simp only [Kept_mk, Kept_fold]
    | with_reducible apply translatePage_kept
    | (refine translatePage_keptE (by assumption) ?_)
    | (with_reducible refine foldl_kept _ _ (fun s a h => ?_) _ ?_)
    | (with_reducible refine foldl2_kept _ _ (fun s a h => ?_) _ ?_)
    | (intro x s hs)
    | dsimp only

theorem translate_keptE {q₀ : List Instr} {r : Req} {s : State} {x0 : List PageRef} {t' : State} (e' : translate r s = (x0, t')) (hk : Kept q₀ s) : Kept q₀ t' := by
  have h := translate_kept r s hk
  rw [e'] at h
  exact h

theorem tcAdd_kept {q₀ : List Instr} (e : TcEntry) (s : State) (hk : Kept q₀ s) :
    Kept q₀ (tcAdd e s) := by
  unfold tcAdd
  try dsimp only
  repeat' first
    | with_reducible assumption
    | simp only [Kept_mk, Kept_fold]
    | (intro x s hs)
    | dsimp only
    | (with_reducible refine ite_kept ?_ ?_)
    | split

theorem wcAdd_kept {q₀ : List Instr} (e : WcEntry) (s : State) (hk : Kept q₀ s) :
    Kept q₀ (wcAdd e s) := by
  unfold wcAdd
  try dsimp only
  repeat' first
    | with_reducible assumption
    | simp only [Kept_mk, Kept_fold]
    | (intro x s hs)
    | dsimp only
    | (with_reducible refine ite_kept ?_ ?_)
    | split

theorem walked_kept {q₀ : List Instr} (stack : Nat) (d : SeqD) (pix : Nat) (s : State) (hk : Kept q₀ s) :
    Kept q₀ (walked stack d pix s) := by
  unfold walked
  try dsimp only
  repeat' first
    | with_reducible assumption
    | simp only [Kept_mk, Kept_fold]
    | with_reducible apply wcAdd_kept
    | (intro x s hs)
    | dsimp only
    | split

theorem keepTranslation_kept {q₀ : List Instr} (cluster : Option Nat) (td seqn pix : Nat) (e : Leaf) (s : State) (hk : Kept q₀ s) :
    Kept q₀ (keepTranslation cluster td seqn pix e s) := by
  unfold keepTranslation
  try dsimp only
  repeat' first
    | with_reducible assumption
    | simp only [Kept_mk, Kept_fold]
    | with_reducible apply tcAdd_kept
    | with_reducible apply walked_kept
    | (intro x s hs)
    | dsimp only
    | (with_reducible refine ite_kept ?_ ?_)
    | split

theorem addG_kept {q₀ : List Instr} (g : GCmd) (s : State) (hk : Kept q₀ s) :
    Kept q₀ (addG g s) := by
  unfold addG
  try dsimp only
  repeat' first
    | with_reducible assumption
    | simp only [Kept_mk, Kept_fold]
    | dsimp only

theorem updG_kept {q₀ : List Instr} (id : Nat) (f : GCmd → GCmd) (s : State) (hk : Kept q₀ s) :
    Kept q₀ (updG id f s) := by
  unfold updG
  try dsimp only
  repeat' first
    | with_reducible assumption
    | simp only [Kept_mk, Kept_fold]
    | (intro x s hs)
    | dsimp only
    | (with_reducible refine ite_kept ?_ ?_)
    | split

theorem handOut_kept {q₀ : List Instr} (r : Req) (pages : List PageRef) (s : State) (hk : Kept q₀ s) :
    Kept q₀ (handOut r pages s) := by
  unfold handOut
  try dsimp only
  repeat' first
    | with_reducible assumption
    | simp only [Kept_mk, Kept_fold]
    | with_reducible apply addG_kept
    | with_reducible apply updReq_kept
    | (with_reducible refine foldl_kept _ _ (fun s a h => ?_) _ ?_)
    | (with_reducible refine foldl2_kept _ _ (fun s a h => ?_) _ ?_)
    | (intro x s hs)
    | dsimp only
    | (with_reducible refine ite_kept ?_ ?_)
    | split

theorem issueFused_kept {q₀ : List Instr} (rid : Nat) (pages : List PageRef) (s : State) (hk : Kept q₀ s) :
    Kept q₀ (issueFused rid pages s) := by
  unfold issueFused
  try dsimp only
  repeat' first
    | with_reducible assumption
    | simp only [Kept_mk, Kept_fold]
    | with_reducible apply handOut_kept
    | with_reducible apply updReq_kept
    | (intro x s hs)
    | dsimp only
    | (with_reducible refine ite_kept ?_ ?_)
    | split

theorem placeGroupPage_kept {q₀ : List Instr} (p : PageRef) (s : State) (hk : Kept q₀ s) :
    Kept q₀ (placeGroupPage p s) := by
  unfold placeGroupPage
  try dsimp only
  repeat' first
    | with_reducible assumption
    | simp only [Kept_mk, Kept_fold]
    | (intro x s hs)
    | dsimp only
    | (with_reducible refine ite_kept ?_ ?_)
    | split

theorem supply_kept {q₀ : List Instr} (st : Nat) (p : PageRef) (x : Part) (s : State) (hk : Kept q₀ s) :
    Kept q₀ (supply st p x s) := by
  unfold supply
  try dsimp only
  repeat' first
    | with_reducible assumption
    | simp only [Kept_mk, Kept_fold]
    | with_reducible apply updReq_kept
    | (intro x s hs)
    | dsimp only
    | (with_reducible refine ite_kept ?_ ?_)
    | split

theorem issuePage_kept {q₀ : List Instr} (r : Req) (e : Nat × Nat) (s : State) (hk : Kept q₀ s) :
    Kept q₀ (issuePage r e s).2 := by
  unfold issuePage
  try dsimp only
  repeat' first
    | with_reducible assumption
    | simp only [Kept_mk, Kept_fold]
    | with_reducible apply supply_kept
    | with_reducible apply enqueueUnit_kept
    | with_reducible apply keepTranslation_kept
    | with_reducible apply translatePage_kept
    | with_reducible apply updReq_kept
    | (refine translatePage_keptE (by assumption) ?_)
    | (intro x s hs)
    | dsimp only
    | (with_reducible refine ite_kept ?_ ?_)
    | split

theorem issuePage_keptE {q₀ : List Instr} {r : Req} {e : Nat × Nat} {s : State} {x0 : List PageRef} {t' : State} (e' : issuePage r e s = (x0, t')) (hk : Kept q₀ s) : Kept q₀ t' := by
  have h := issuePage_kept r e s hk
  rw [e'] at h
  exact h

theorem issueBankPages_kept {q₀ : List Instr} (rid : Nat) (s : State) (hk : Kept q₀ s) :
    Kept q₀ (issueBankPages rid s) := by
  unfold issueBankPages
  try dsimp only
  repeat' first
    | with_reducible assumption
    | simp only [Kept_mk, Kept_fold]
    | with_reducible apply issueFused_kept
    | with_reducible apply issuePage_kept
    | with_reducible apply updReq_kept
    | (refine issuePage_keptE (by assumption) ?_)
    | (with_reducible refine foldl_kept _ _ (fun s a h => ?_) _ ?_)
    | (with_reducible refine foldl2_kept _ _ (fun s a h => ?_) _ ?_)
    | (intro x s hs)
    | dsimp only
    | (with_reducible refine ite_kept ?_ ?_)
    | split

theorem issueHeldPages_kept {q₀ : List Instr} (s : State) (hk : Kept q₀ s) :
    Kept q₀ (issueHeldPages s) := by
  unfold issueHeldPages
  try dsimp only
  repeat' first
    | with_reducible assumption
    | simp only [Kept_mk, Kept_fold]
    | with_reducible apply issueBankPages_kept
    | (with_reducible refine foldl_kept _ _ (fun s a h => ?_) _ ?_)
    | (with_reducible refine foldl2_kept _ _ (fun s a h => ?_) _ ?_)
    | (intro x s hs)
    | dsimp only
    | (with_reducible refine ite_kept ?_ ?_)
    | split

theorem landAs_kept {q₀ : List Instr} (td seqn pix : Nat) (l : Leaf) (s : State) (hk : Kept q₀ s) :
    Kept q₀ (landAs td seqn pix l s) := by
  unfold landAs
  try dsimp only
  repeat' first
    | with_reducible assumption
    | simp only [Kept_mk, Kept_fold]
    | with_reducible apply placeGroupPage_kept
    | (with_reducible refine foldl_kept _ _ (fun s a h => ?_) _ ?_)
    | (with_reducible refine foldl2_kept _ _ (fun s a h => ?_) _ ?_)
    | (intro x s hs)
    | dsimp only
    | (with_reducible refine ite_kept ?_ ?_)
    | split

theorem landPage_kept {q₀ : List Instr} (td seqn pix : Nat) (l : Leaf) (s : State) (hk : Kept q₀ s) :
    Kept q₀ (landPage td seqn pix l s) := by
  unfold landPage
  try dsimp only
  repeat' first
    | with_reducible assumption
    | simp only [Kept_mk, Kept_fold]
    | with_reducible apply landAs_kept
    | with_reducible apply issueHeldPages_kept
    | with_reducible apply syncZph_kept
    | dsimp only

theorem landPoison_kept {q₀ : List Instr} (td seqn pix : Nat) (s : State) (hk : Kept q₀ s) :
    Kept q₀ (landPoison td seqn pix s) := by
  unfold landPoison
  try dsimp only
  repeat' first
    | with_reducible assumption
    | simp only [Kept_mk, Kept_fold]
    | with_reducible apply landPage_kept
    | dsimp only

end Sys2Proof.Machine
end

