-- ==== Sys2Proof/Laws/KeptAppend.lean ====
section
/-! SUPPORT. What the operations of Machine/Append keep: `Kept`, the queue of commands and the invariant of memory and error state. -/

namespace Sys2Proof.Machine

set_option linter.unusedTactic false
set_option linter.unreachableTactic false
set_option linter.unusedVariables false

theorem AppendIn_store_ok (x : AppendIn) (acc : Mem × List Nat) (h : MemOk acc.1) : MemOk (x.store acc).1 := by
  have h1 : MemOk (x.storeKeys acc).1 := by
    refine foldl_mem_ok _ _ (fun a jc ha => ?_) _ h
    exact wrEach_ok _ _ _ (foldl_mem_ok _ _ (fun _ _ hb => wrEach_ok _ _ _ hb) _ ha)
  have h2 : MemOk (x.outliers.zipIdx.foldl x.storeOutlier (x.storeKeys acc)).1 :=
    foldl_mem_ok _ _ (fun a c ha => foldl_mem_ok _ _ (fun _ _ hb => wrEach_ok _ _ _ hb) _ ha) _ h1
  exact foldl_mem_ok _ _ (fun _ _ hb => wrEach_ok _ _ _ hb) _ (wrPage_ok _ _ _ h2)

theorem applyAppend_kept {q₀ : List Instr} (r : Req) (k tp : Nat) (l : Leaf) (s : State) (hk : Kept q₀ s) : Kept q₀ (applyAppend r k tp l s) := by
  unfold applyAppend
  extract_lets x rd st all s1 s2 s3 s4 pix s5
  have h1 : Kept q₀ s1 := kept_setMem hk (AppendIn_store_ok x (s.mem, rd.bad) hk.mem)
  clear_value s1
  have h2 : Kept q₀ s2 := bumpBy_kept _ _ _ (bumpBy_kept _ _ _ h1)
  clear_value s2
  have h3 : Kept q₀ s3 := noteRead_kept _ _ h2
  clear_value s3
  have h4 : Kept q₀ s4 := foldl_kept _ _ (fun s a h => ite_kept h (dropWriteback_kept _ _ _ h)) _ h3
  clear_value s4
  have h5 : Kept q₀ s5 := touch_kept _ _ _ _ h4
  clear_value s5
  exact poisonFirst_kept _ _ _ _ _ _ _ h5

end Sys2Proof.Machine
end

