-- ==== Sys2Proof/Laws/KeptTiers.lean ====
section
/-! SUPPORT. What the operations of Machine/Tiers keep: `Kept`, the queue of commands and the invariant of memory and error state. -/

namespace Sys2Proof.Machine

set_option linter.unusedTactic false
set_option linter.unreachableTactic false
set_option linter.unusedVariables false

theorem storePage_kept {q₀ : List Instr} (key lpn : Nat) (p : FPage) (s : State) (hk : Kept q₀ s) :
    Kept q₀ (storePage key lpn p s) := by
  unfold storePage
  try dsimp only
  repeat' first
    | with_reducible assumption
    | simp only [Kept_mk, Kept_fold]
    | with_reducible apply updTarget_kept
    | (refine keptP_mem (by assumption) ?_)
    | with_reducible apply zeroFrame_ok
    | with_reducible apply loadFrame_ok
    | with_reducible apply wrPage_ok
    | with_reducible apply wrEach_ok
    | (with_reducible apply Kept.mem)
    | (intro x s hs)
    | dsimp only
    | split

theorem retireBlock_kept {q₀ : List Instr} (c t b : Nat) (s : State) (hk : Kept q₀ s) :
    Kept q₀ (retireBlock c t b s) := by
  unfold retireBlock
  try dsimp only
  repeat' first
    | with_reducible assumption
    | simp only [Kept_mk, Kept_fold]
    | with_reducible apply updTarget_kept
    | with_reducible apply bump_kept
    | (intro x s hs)
    | dsimp only
    | (with_reducible refine ite_kept ?_ ?_)
    | split

theorem arrayRead_kept {q₀ : List Instr} (lpn : Nat) (s : State) (hk : Kept q₀ s) :
    Kept q₀ (arrayRead lpn s) := by
  unfold arrayRead
  try dsimp only
  repeat' first
    | with_reducible assumption
    | simp only [Kept_mk, Kept_fold]
    | with_reducible apply bumpBy_kept
    | with_reducible apply updTarget_kept
    | with_reducible apply takeFree_kept
    | (refine takeFree_keptE (by assumption) ?_)
    | (intro x s hs)
    | dsimp only
    | split

theorem useWays_kept {q₀ : List Instr} (c : Nat) (ws : List Nat) (s : State) (hk : Kept q₀ s) :
    Kept q₀ (useWays c ws s) := by
  unfold useWays
  try dsimp only
  repeat' first
    | with_reducible assumption
    | simp only [Kept_mk, Kept_fold]
    | with_reducible apply updClus_kept
    | (intro x s hs)
    | dsimp only

theorem encodeOn_kept {q₀ : List Instr} (td die : Nat) (s : State) (hk : Kept q₀ s) :
    Kept q₀ (encodeOn td die s) := by
  unfold encodeOn
  try dsimp only
  repeat' first
    | with_reducible assumption
    | simp only [Kept_mk, Kept_fold]
    | with_reducible apply useWays_kept
    | dsimp only
    | split

theorem addChg_kept {q₀ : List Instr} (c : Chg) (s : State) (hk : Kept q₀ s) :
    Kept q₀ (addChg c s) := by
  unfold addChg
  try dsimp only
  repeat' first
    | with_reducible assumption
    | simp only [Kept_mk, Kept_fold]
    | (refine keptP_mem (by assumption) ?_)
    | with_reducible apply zeroFrame_ok
    | with_reducible apply loadFrame_ok
    | with_reducible apply wrPage_ok
    | with_reducible apply wrEach_ok
    | (with_reducible apply Kept.mem)
    | dsimp only

theorem updChg_kept {q₀ : List Instr} (cid : Nat) (f : Chg → Chg) (s : State) (hk : Kept q₀ s) :
    Kept q₀ (updChg cid f s) := by
  unfold updChg
  try dsimp only
  repeat' first
    | with_reducible assumption
    | simp only [Kept_mk, Kept_fold]
    | (refine keptP_mem (by assumption) ?_)
    | with_reducible apply zeroFrame_ok
    | with_reducible apply loadFrame_ok
    | with_reducible apply wrPage_ok
    | with_reducible apply wrEach_ok
    | (with_reducible apply Kept.mem)
    | (intro x s hs)
    | dsimp only
    | (with_reducible refine ite_kept ?_ ?_)
    | split

theorem dropChg_kept {q₀ : List Instr} (cid : Nat) (s : State) (hk : Kept q₀ s) :
    Kept q₀ (dropChg cid s) := by
  unfold dropChg
  try dsimp only
  repeat' first
    | with_reducible assumption
    | simp only [Kept_mk, Kept_fold]
    | with_reducible apply dropChgs_kept
    | (intro x s hs)
    | dsimp only

theorem relocate_kept {q₀ : List Instr} (td seqn pix : Nat) (record : Option Nat) (f : Leaf → Leaf) (s : State) (hk : Kept q₀ s) :
    Kept q₀ (relocate td seqn pix record f s) := by
  unfold relocate
  try dsimp only
  repeat' first
    | with_reducible assumption
    | simp only [Kept_mk, Kept_fold]
    | with_reducible apply voidPage_kept
    | with_reducible apply updRecord_kept
    | with_reducible apply updLeafAt_kept
    | with_reducible apply voidRecord_kept
    | (intro x s hs)
    | dsimp only
    | split

theorem holdAppends_kept {q₀ : List Instr} (td seqn pix : Nat) (record : Option Nat) (s : State) (hk : Kept q₀ s) :
    Kept q₀ (holdAppends td seqn pix record s) := by
  unfold holdAppends
  try dsimp only
  repeat' first
    | with_reducible assumption
    | simp only [Kept_mk, Kept_fold]
    | with_reducible apply dropOps_kept
    | (intro x s hs)
    | dsimp only
    | split

theorem queueProgram_kept {q₀ : List Instr} (k cid : Nat) (s : State) (hk : Kept q₀ s) :
    Kept q₀ (queueProgram k cid s) := by
  unfold queueProgram
  try dsimp only
  repeat' first
    | with_reducible assumption
    | simp only [Kept_mk, Kept_fold]
    | with_reducible apply updTarget_kept
    | (intro x s hs)
    | dsimp only

theorem startDemotion_kept {q₀ : List Instr} (v : Victim) (forced : Bool) (s : State) (hk : Kept q₀ s) :
    Kept q₀ (startDemotion v forced s) := by
  unfold startDemotion
  try dsimp only
  repeat' first
    | with_reducible assumption
    | simp only [Kept_mk, Kept_fold]
    | with_reducible apply holdAppends_kept
    | with_reducible apply addChg_kept
    | with_reducible apply queueProgram_kept
    | (intro x s hs)
    | dsimp only
    | (with_reducible refine ite_kept ?_ ?_)
    | split

theorem renameLpn_keptE {q₀ : List Instr} {g : W64} {old new : Nat} {s : State} {t' : State} (e' : renameLpn g old new s = some t') (hk : Kept q₀ s) :
    Kept q₀ t' := by
  unfold renameLpn at e'
  try dsimp only at e'
  repeat' split at e'
  all_goals try simp only [Option.map_eq_some_iff] at e'
  all_goals try obtain ⟨_, _, rfl⟩ := e'
  all_goals try cases e'
  all_goals repeat' first
      | with_reducible assumption
      | simp only [Kept_mk, Kept_fold]
      | with_reducible apply freeFlash_kept
      | with_reducible apply arrayRead_kept
      | with_reducible apply storePage_kept
      | dsimp only
      | split

theorem foldl_bind_kept {q₀ : List Instr} {α : Type} (g : α → State → Option State) (hg : ∀ a s t, g a s = some t → Kept q₀ s → Kept q₀ t)
    (l : List α) : ∀ (x : Option State) (t : State), (∀ s, x = some s → Kept q₀ s) → l.foldl (fun o a => o.bind (g a)) x = some t → Kept q₀ t := by
  induction l with
  | nil => intro x t hx e; exact hx t e
  | cons a l ih =>
    intro x t hx e
    refine ih _ t (fun s hs => ?_) e
    obtain ⟨y, hy, hs⟩ := Option.bind_eq_some_iff.mp hs
    exact hg a y s hs (hx y hy)

theorem lineUp_keptE {q₀ : List Instr} {g : W64} {ls : List Leaf} {s : State} {t' : Nat × State} (e' : lineUp g ls s = some t') (hk : Kept q₀ s) :
    Kept q₀ t'.2 := by
  unfold lineUp at e'
  split at e'
  · cases e'; exact hk
  · split at e'
    · cases e'
    · obtain ⟨t, ht, rfl⟩ := Option.map_eq_some_iff.mp e'
      exact foldl_bind_kept (fun e : Leaf × Nat => renameLpn g e.1.frame (_ + e.2)) (fun _ _ _ e h => renameLpn_keptE e h) _ _ _
        (fun _ h => Option.some.inj h ▸ hk) ht

theorem tryCollapse_kept {q₀ : List Instr} (td seqn lh : Nat) (s : State) (hk : Kept q₀ s) :
    Kept q₀ (tryCollapse td seqn lh s) := by
  unfold tryCollapse
  try dsimp only
  repeat' first
    | with_reducible assumption
    | simp only [Kept_mk, Kept_fold]
    | with_reducible apply wcSync_kept
    | with_reducible apply updSeq_kept
    | (refine lineUp_keptE (by assumption) ?_)
    | (intro x s hs)
    | dsimp only
    | split

theorem collapseSeq_kept {q₀ : List Instr} (td seqn : Nat) (s : State) (hk : Kept q₀ s) :
    Kept q₀ (collapseSeq td seqn s) := by
  unfold collapseSeq
  try dsimp only
  repeat' first
    | with_reducible assumption
    | simp only [Kept_mk, Kept_fold]
    | with_reducible apply tryCollapse_kept
    | (with_reducible refine foldl_kept _ _ (fun s a h => ?_) _ ?_)
    | (with_reducible refine foldl2_kept _ _ (fun s a h => ?_) _ ?_)
    | (intro x s hs)
    | dsimp only
    | split

theorem failDemotion_kept {q₀ : List Instr} (c : Chg) (a : Nat) (s : State) (hk : Kept q₀ s) :
    Kept q₀ (failDemotion c a s) := by
  unfold failDemotion
  try dsimp only
  repeat' first
    | with_reducible assumption
    | simp only [Kept_mk, Kept_fold]
    | with_reducible apply poisonPage_kept
    | with_reducible apply dropChg_kept
    | with_reducible apply report_kept
    | with_reducible apply poisonRecord_kept
    | dsimp only
    | split

theorem demoteDone_kept {q₀ : List Instr} (c : Chg) (key : Nat) (s : State) (hk : Kept q₀ s) :
    Kept q₀ (demoteDone c key s) := by
  unfold demoteDone
  extract_lets g
  split
  next p r _ =>
  extract_lets s1 s2 s3
  have h1 : Kept q₀ s1 := noteRead_kept _ _ hk
  clear_value s1
  split
  · exact failDemotion_kept _ _ _ h1
  · split
    · exact h1
    · have h2 : Kept q₀ s2 := storePage_kept _ _ _ _ (encodeOn_kept _ _ _ h1)
      clear_value s2
      have h3 : Kept q₀ s3 := relocate_kept _ _ _ _ _ _ h2
      clear_value s3
      exact bump_kept _ _ (updChg_kept _ _ _ h3)

theorem endChg_kept {q₀ : List Instr} (c : Chg) (s : State) (hk : Kept q₀ s) :
    Kept q₀ (endChg c s) := by
  unfold endChg
  try dsimp only
  repeat' first
    | with_reducible assumption
    | simp only [Kept_mk, Kept_fold]
    | with_reducible apply collapseSeq_kept
    | with_reducible apply giveFrame_kept
    | with_reducible apply dropChg_kept
    | dsimp only
    | (with_reducible refine ite_kept ?_ ?_)
    | split

theorem dropProgram_kept {q₀ : List Instr} (cid : Nat) (s : State) (hk : Kept q₀ s) :
    Kept q₀ (dropProgram cid s) := by
  unfold dropProgram
  try dsimp only
  repeat' first
    | with_reducible assumption
    | simp only [Kept_mk, Kept_fold]
    | (refine keptP_mem (by assumption) ?_)
    | with_reducible apply zeroFrame_ok
    | with_reducible apply loadFrame_ok
    | with_reducible apply wrPage_ok
    | with_reducible apply wrEach_ok
    | (with_reducible apply Kept.mem)
    | (intro x s hs)
    | dsimp only

theorem finishDemotion_kept {q₀ : List Instr} (cid k : Nat) (s : State) (hk : Kept q₀ s) :
    Kept q₀ (finishDemotion cid k s) := by
  unfold finishDemotion
  try dsimp only
  repeat' first
    | with_reducible assumption
    | simp only [Kept_mk, Kept_fold]
    | with_reducible apply dropChg_kept
    | with_reducible apply endChg_kept
    | with_reducible apply dropProgram_kept
    | with_reducible apply demoteDone_kept
    | dsimp only
    | (with_reducible refine ite_kept ?_ ?_)
    | split

theorem demoteTo_kept {q₀ : List Instr} (v : Victim) (k : Nat) (forced : Bool) (s : State) (hk : Kept q₀ s) :
    Kept q₀ (demoteTo v k forced s) := by
  unfold demoteTo
  try dsimp only
  repeat' first
    | with_reducible assumption
    | simp only [Kept_mk, Kept_fold]
    | with_reducible apply finishDemotion_kept
    | with_reducible apply startDemotion_kept
    | dsimp only

theorem demoteNow_keptE {q₀ : List Instr} {td : Nat} {s : State} {t' : State} (e' : demoteNow td s = some t') (hk : Kept q₀ s) :
    Kept q₀ t' := by
  unfold demoteNow at e'
  try dsimp only at e'
  repeat' split at e'
  all_goals try simp only [Option.map_eq_some_iff] at e'
  all_goals try obtain ⟨_, _, rfl⟩ := e'
  all_goals try cases e'
  all_goals repeat' first
      | with_reducible assumption
      | simp only [Kept_mk, Kept_fold]
      | with_reducible apply demoteTo_kept
      | with_reducible apply finishDemotion_kept
      | (intro x s hs)
      | dsimp only
      | split

theorem demoteFor_kept {q₀ : List Instr} (td seqn pix : Nat) : ∀ n s, Kept q₀ s → Kept q₀ (demoteFor td seqn pix n s) := by
  intro n
  induction n with
  | zero => intro s hk; exact hk
  | succ n ih =>
    intro s hk
    unfold demoteFor
    split
    · exact hk
    · split
      · next e => exact ih _ (demoteNow_keptE e hk)
      · exact hk

theorem forceRoom_kept {q₀ : List Instr} (td seqn pix : Nat) (s : State) (hk : Kept q₀ s) :
    Kept q₀ (forceRoom td seqn pix s) := by
  unfold forceRoom
  try dsimp only
  repeat' first
    | with_reducible assumption
    | simp only [Kept_mk, Kept_fold]
    | with_reducible apply demoteFor_kept
    | with_reducible apply bump_kept
    | (refine demoteNow_keptE (by assumption) ?_)
    | dsimp only
    | (with_reducible refine ite_kept ?_ ?_)
    | split

theorem allocFrame_keptE {q₀ : List Instr} {td seqn pix : Nat} {s : State} {t' : Nat × State} (e' : allocFrame td seqn pix s = some t') (hk : Kept q₀ s) :
    Kept q₀ t'.2 := by
  unfold allocFrame at e'
  try dsimp only at e'
  repeat' split at e'
  all_goals try simp only [Option.map_eq_some_iff] at e'
  all_goals try obtain ⟨_, _, rfl⟩ := e'
  all_goals try cases e'
  all_goals repeat' first
      | with_reducible assumption
      | simp only [Kept_mk, Kept_fold]
      | with_reducible apply takeFrame_kept
      | with_reducible apply forceRoom_kept
      | (intro x s hs)
      | dsimp only

theorem heatUp_kept {q₀ : List Instr} (td seqn pix : Nat) (s : State) (hk : Kept q₀ s) :
    Kept q₀ (heatUp td seqn pix s) := by
  unfold heatUp
  try dsimp only
  repeat' first
    | with_reducible assumption
    | simp only [Kept_mk, Kept_fold]
    | with_reducible apply updGroup_kept
    | with_reducible apply updSeq_kept
    | (intro x s hs)
    | dsimp only
    | (with_reducible refine ite_kept ?_ ?_)
    | split

theorem poisonFlash_kept {q₀ : List Instr} (td seqn pix : Nat) (record : Option Nat) (loc info : Nat) (s : State) (hk : Kept q₀ s) :
    Kept q₀ (poisonFlash td seqn pix record loc info s) := by
  unfold poisonFlash
  try dsimp only
  repeat' first
    | with_reducible assumption
    | simp only [Kept_mk, Kept_fold]
    | with_reducible apply poisonPage_kept
    | with_reducible apply report_kept
    | with_reducible apply poisonRecord_kept
    | dsimp only
    | (with_reducible refine ite_kept ?_ ?_)
    | split

theorem flashPoison_kept {q₀ : List Instr} (td seqn pix : Nat) (record : Option Nat) (lpn : Nat) (s : State) (hk : Kept q₀ s) :
    Kept q₀ (flashPoison td seqn pix record lpn s) := by
  unfold flashPoison
  try dsimp only
  repeat' first
    | with_reducible assumption
    | simp only [Kept_mk, Kept_fold]
    | with_reducible apply poisonFlash_kept
    | with_reducible apply bumpBy_kept
    | with_reducible apply updSeq_kept
    | with_reducible apply takeFree_kept
    | with_reducible apply landPoison_kept
    | (refine takeFree_keptE (by assumption) ?_)
    | (refine keptP_mem (by assumption) ?_)
    | with_reducible apply zeroFrame_ok
    | with_reducible apply loadFrame_ok
    | with_reducible apply wrPage_ok
    | with_reducible apply wrEach_ok
    | (with_reducible apply Kept.mem)
    | (intro x s hs)
    | dsimp only
    | (with_reducible refine ite_kept ?_ ?_)
    | split

theorem flashBad_kept {q₀ : List Instr} (td seqn pix : Nat) (record : Option Nat) (lpn : Nat) (s : State) (hk : Kept q₀ s) :
    Kept q₀ (flashBad td seqn pix record lpn s) := by
  unfold flashBad
  try dsimp only
  repeat' first
    | with_reducible assumption
    | simp only [Kept_mk, Kept_fold]
    | with_reducible apply flashPoison_kept
    | with_reducible apply retireBlock_kept
    | dsimp only
    | split

theorem queueCopy_kept {q₀ : List Instr} (cid src dst : Nat) (s : State) (hk : Kept q₀ s) :
    Kept q₀ (queueCopy cid src dst s) := by
  unfold queueCopy
  try dsimp only
  repeat' first
    | with_reducible assumption
    | simp only [Kept_mk, Kept_fold]
    | with_reducible apply enqueueUnit_kept
    | dsimp only
    | (with_reducible refine ite_kept ?_ ?_)
    | split

theorem queueRead_kept {q₀ : List Instr} (lpn cid : Nat) (s : State) (hk : Kept q₀ s) :
    Kept q₀ (queueRead lpn cid s) := by
  unfold queueRead
  try dsimp only
  repeat' first
    | with_reducible assumption
    | simp only [Kept_mk, Kept_fold]
    | with_reducible apply updTarget_kept
    | (intro x s hs)
    | dsimp only
    | split

theorem queueDirect_kept {q₀ : List Instr} (lpn : Nat) (s : State) (hk : Kept q₀ s) :
    Kept q₀ (queueDirect lpn s) := by
  unfold queueDirect
  try dsimp only
  repeat' first
    | with_reducible assumption
    | simp only [Kept_mk, Kept_fold]
    | with_reducible apply updTarget_kept
    | (intro x s hs)
    | dsimp only
    | (with_reducible refine ite_kept ?_ ?_)
    | split

theorem startPromotion_kept {q₀ : List Instr} (td seqn pix : Nat) (s : State) (hk : Kept q₀ s) :
    Kept q₀ (startPromotion td seqn pix s).2 := by
  unfold startPromotion
  try dsimp only
  repeat' first
    | with_reducible assumption
    | simp only [Kept_mk, Kept_fold]
    | with_reducible apply addChg_kept
    | with_reducible apply queueRead_kept
    | with_reducible apply flashBad_kept
    | with_reducible apply updSeq_kept
    | (refine allocFrame_keptE (by assumption) ?_)
    | dsimp only
    | (with_reducible refine ite_kept ?_ ?_)
    | split

theorem startPromotion_keptE {q₀ : List Instr} {td seqn pix : Nat} {s : State} {x0 : Nat} {t' : State} (e' : startPromotion td seqn pix s = (x0, t')) (hk : Kept q₀ s) : Kept q₀ t' := by
  have h := startPromotion_kept td seqn pix s hk
  rw [e'] at h
  exact h

theorem startCopy_kept {q₀ : List Instr} (td seqn pix : Nat) (l e : Leaf) (s : State) (hk : Kept q₀ s) :
    Kept q₀ (startCopy td seqn pix l e s).2 := by
  unfold startCopy
  try dsimp only
  repeat' first
    | with_reducible assumption
    | simp only [Kept_mk, Kept_fold]
    | with_reducible apply addChg_kept
    | with_reducible apply queueCopy_kept
    | with_reducible apply queueRead_kept
    | (refine allocFrame_keptE (by assumption) ?_)
    | dsimp only
    | (with_reducible refine ite_kept ?_ ?_)
    | split

theorem startCopy_keptE {q₀ : List Instr} {td seqn pix : Nat} {l e : Leaf} {s : State} {x0 : Nat} {t' : State} (e' : startCopy td seqn pix l e s = (x0, t')) (hk : Kept q₀ s) : Kept q₀ t' := by
  have h := startCopy_kept td seqn pix l e s hk
  rw [e'] at h
  exact h

theorem ensureFrame_kept {q₀ : List Instr} (td seqn pix : Nat) (s : State) (hk : Kept q₀ s) :
    Kept q₀ (ensureFrame td seqn pix s).2 := by
  unfold ensureFrame
  split
  · exact hk
  · next d _ =>
    extract_lets fresh blank
    have hf : ∀ g l, Kept q₀ (fresh g l s).2 := by
      intro g l
      unfold fresh
      split
      · exact hk
      · split
        · exact hk
        · next e => exact setLeafAt_kept _ _ _ _ _ (allocFrame_keptE e hk)
    clear_value fresh
    repeat' split
    all_goals first
      | exact hk
      | exact hf _ _
      | exact startCopy_kept _ _ _ _ _ _ hk
      | exact startPromotion_kept _ _ _ _ hk
      | (next e => exact setLeafAt_kept _ _ _ _ _ (freeFlash_kept _ _ (allocFrame_keptE e hk)))

theorem ensureFrame_keptE {q₀ : List Instr} {td seqn pix : Nat} {s : State} {x0 : Nat} {t' : State} (e' : ensureFrame td seqn pix s = (x0, t')) (hk : Kept q₀ s) : Kept q₀ t' := by
  have h := ensureFrame_kept td seqn pix s hk
  rw [e'] at h
  exact h

theorem dropAppend_kept {q₀ : List Instr} (rid : Nat) (a : Nat × Nat) (s : State) (hk : Kept q₀ s) :
    Kept q₀ (dropAppend rid a s) := by
  unfold dropAppend
  try dsimp only
  repeat' first
    | with_reducible assumption
    | simp only [Kept_mk, Kept_fold]
    | with_reducible apply updReq_kept
    | (intro x s hs)
    | dsimp only

theorem issueAppend_kept {q₀ : List Instr} (rid : Nat) (a : Nat × Nat) (s : State) (hk : Kept q₀ s) :
    Kept q₀ (issueAppend rid a s) := by
  unfold issueAppend
  try dsimp only
  repeat' first
    | with_reducible assumption
    | simp only [Kept_mk, Kept_fold]
    | with_reducible apply enqueueUnit_kept
    | with_reducible apply dropAppend_kept
    | with_reducible apply ensureFrame_kept
    | with_reducible apply tcheckError_kept
    | with_reducible apply updReq_kept
    | (refine ensureFrame_keptE (by assumption) ?_)
    | (intro x s hs)
    | dsimp only
    | (with_reducible refine ite_kept ?_ ?_)
    | split

theorem issueAppends_kept {q₀ : List Instr} (rid : Nat) (s : State) (hk : Kept q₀ s) :
    Kept q₀ (issueAppends rid s) := by
  unfold issueAppends
  try dsimp only
  repeat' first
    | with_reducible assumption
    | simp only [Kept_mk, Kept_fold]
    | with_reducible apply issueAppend_kept
    | (with_reducible refine foldl_kept _ _ (fun s a h => ?_) _ ?_)
    | (with_reducible refine foldl2_kept _ _ (fun s a h => ?_) _ ?_)
    | (intro x s hs)
    | dsimp only
    | (with_reducible refine ite_kept ?_ ?_)
    | split

theorem settleWork_kept {q₀ : List Instr} (s : State) (hk : Kept q₀ s) :
    Kept q₀ (settleWork s) := by
  unfold settleWork
  try dsimp only
  repeat' first
    | with_reducible assumption
    | simp only [Kept_mk, Kept_fold]
    | with_reducible apply issueAppends_kept
    | with_reducible apply issueHeldPages_kept
    | with_reducible apply settleFences_kept
    | (with_reducible refine foldl_kept _ _ (fun s a h => ?_) _ ?_)
    | (with_reducible refine foldl2_kept _ _ (fun s a h => ?_) _ ?_)
    | (intro x s hs)
    | dsimp only
    | (with_reducible refine ite_kept ?_ ?_)
    | split

theorem promoteDone_kept {q₀ : List Instr} (c : Chg) (p : FPage) (s : State) (hk : Kept q₀ s) :
    Kept q₀ (promoteDone c p s) := by
  unfold promoteDone
  try dsimp only
  repeat' first
    | with_reducible assumption
    | simp only [Kept_mk, Kept_fold]
    | with_reducible apply landPage_kept
    | with_reducible apply freeFlash_kept
    | with_reducible apply relocate_kept
    | with_reducible apply bump_kept
    | (refine keptP_mem (by assumption) ?_)
    | with_reducible apply zeroFrame_ok
    | with_reducible apply loadFrame_ok
    | with_reducible apply wrPage_ok
    | with_reducible apply wrEach_ok
    | (with_reducible apply Kept.mem)
    | (intro x s hs)
    | dsimp only
    | split

theorem landRecord_kept {q₀ : List Instr} (td ix : Nat) (s : State) (hk : Kept q₀ s) :
    Kept q₀ (landRecord td ix s) := by
  unfold landRecord
  try dsimp only
  repeat' first
    | with_reducible assumption
    | simp only [Kept_mk, Kept_fold]
    | with_reducible apply landPage_kept
    | (with_reducible refine foldl_kept _ _ (fun s a h => ?_) _ ?_)
    | (with_reducible refine foldl2_kept _ _ (fun s a h => ?_) _ ?_)
    | (intro x s hs)
    | dsimp only
    | (with_reducible refine ite_kept ?_ ?_)
    | split

theorem copyDone_kept {q₀ : List Instr} (c : Chg) (psn : Bool) (dec : Option Dec) (s : State) (hk : Kept q₀ s) :
    Kept q₀ (copyDone c psn dec s) := by
  unfold copyDone
  try dsimp only
  repeat' first
    | with_reducible assumption
    | simp only [Kept_mk, Kept_fold]
    | with_reducible apply landPage_kept
    | with_reducible apply dropChg_kept
    | with_reducible apply voidPage_kept
    | with_reducible apply setLeafAt_kept
    | with_reducible apply bump_kept
    | with_reducible apply settleWork_kept
    | with_reducible apply dropRecord_kept
    | (refine keptP_mem (by assumption) ?_)
    | with_reducible apply zeroFrame_ok
    | with_reducible apply loadFrame_ok
    | with_reducible apply wrPage_ok
    | with_reducible apply wrEach_ok
    | (with_reducible apply Kept.mem)
    | (intro x s hs)
    | dsimp only
    | split

theorem updWake_kept {q₀ : List Instr} (td seqn : Nat) (f : Wake → Wake) (s : State) (hk : Kept q₀ s) :
    Kept q₀ (updWake td seqn f s) := by
  unfold updWake
  try dsimp only
  repeat' first
    | with_reducible assumption
    | simp only [Kept_mk, Kept_fold]
    | with_reducible apply updSeq_kept
    | (intro x s hs)
    | dsimp only

theorem stageOnAccept_kept {q₀ : List Instr} (td seqn layer : Nat) (s : State) (hk : Kept q₀ s) :
    Kept q₀ (stageOnAccept td seqn layer s) := by
  unfold stageOnAccept
  try dsimp only
  repeat' first
    | with_reducible assumption
    | simp only [Kept_mk, Kept_fold]
    | with_reducible apply bump_kept
    | with_reducible apply setSeq_kept
    | (with_reducible refine foldl_kept _ _ (fun s a h => ?_) _ ?_)
    | (with_reducible refine foldl2_kept _ _ (fun s a h => ?_) _ ?_)
    | (intro x s hs)
    | dsimp only
    | (with_reducible refine ite_kept ?_ ?_)
    | split

theorem endWake_kept {q₀ : List Instr} (td seqn : Nat) (s : State) (hk : Kept q₀ s) :
    Kept q₀ (endWake td seqn s) := by
  unfold endWake
  try dsimp only
  repeat' first
    | with_reducible assumption
    | simp only [Kept_mk, Kept_fold]
    | with_reducible apply updWake_kept
    | (intro x s hs)
    | dsimp only

theorem stagingTurn_keptE {q₀ : List Instr} {s : State} {td : Nat} {t' : State} (e' : stagingTurn s td = some t') (hk : Kept q₀ s) :
    Kept q₀ t' := by
  unfold stagingTurn at e'
  try dsimp only at e'
  repeat' split at e'
  all_goals try simp only [Option.map_eq_some_iff] at e'
  all_goals try obtain ⟨_, _, rfl⟩ := e'
  all_goals try cases e'
  all_goals repeat' first
      | with_reducible assumption
      | simp only [Kept_mk, Kept_fold]
      | with_reducible apply updDom_kept
      | (with_reducible refine foldl_kept _ _ (fun s a h => ?_) _ ?_)
      | (with_reducible refine foldl2_kept _ _ (fun s a h => ?_) _ ?_)
      | (intro x s hs)
      | dsimp only
      | (with_reducible refine ite_kept ?_ ?_)
      | split

theorem passRead_kept {q₀ : List Instr} (td seqn p : Nat) (s : State) (hk : Kept q₀ s) :
    Kept q₀ (passRead td seqn p s) := by
  unfold passRead
  try dsimp only
  repeat' first
    | with_reducible assumption
    | simp only [Kept_mk, Kept_fold]
    | with_reducible apply updWake_kept
    | with_reducible apply updSeq_kept
    | (intro x s hs)
    | dsimp only

theorem demoteLoop_kept {q₀ : List Instr} (td : Nat) :
    ∀ n s, Kept q₀ s → Kept q₀ (demoteLoop td n s) := by
  intro n
  induction n with
  | zero => intro s hk; exact hk
  | succ n ih =>
    intro s hk
    unfold demoteLoop
    try dsimp only
    repeat' first
        | with_reducible apply ih
        | with_reducible assumption
        | simp only [Kept_mk, Kept_fold]
        | with_reducible apply startDemotion_kept
        | dsimp only
        | (with_reducible refine ite_kept ?_ ?_)
        | split

theorem failProgram_kept {q₀ : List Instr} (c t : Nat) (p : FPage) (s : State) (hk : Kept q₀ s) :
    Kept q₀ (failProgram c t p s) := by
  unfold failProgram
  try dsimp only
  repeat' first
    | with_reducible assumption
    | simp only [Kept_mk, Kept_fold]
    | with_reducible apply retireBlock_kept
    | dsimp only
    | split

theorem moveBlock_kept {q₀ : List Instr} (c t b : Nat) (bad failed : List Nat) (s : State) (hk : Kept q₀ s) :
    Kept q₀ (moveBlock c t b bad failed s) := by
  unfold moveBlock
  try dsimp only
  repeat' first
    | with_reducible assumption
    | simp only [Kept_mk, Kept_fold]
    | with_reducible apply updTarget_kept
    | with_reducible apply arrayRead_kept
    | with_reducible apply failProgram_kept
    | with_reducible apply bump_kept
    | with_reducible apply storePage_kept
    | (with_reducible refine foldl_kept _ _ (fun s a h => ?_) _ ?_)
    | (with_reducible refine foldl2_kept _ _ (fun s a h => ?_) _ ?_)
    | (refine keptP_mem (by assumption) ?_)
    | with_reducible apply zeroFrame_ok
    | with_reducible apply loadFrame_ok
    | with_reducible apply wrPage_ok
    | with_reducible apply wrEach_ok
    | (with_reducible apply Kept.mem)
    | (intro x s hs)
    | dsimp only
    | (with_reducible refine ite_kept ?_ ?_)
    | split

theorem poisonLpns_kept {q₀ : List Instr} (l : List Nat) (s : State) (hk : Kept q₀ s) :
    Kept q₀ (poisonLpns l s) := by
  unfold poisonLpns
  try dsimp only
  repeat' first
    | with_reducible assumption
    | simp only [Kept_mk, Kept_fold]
    | with_reducible apply flashPoison_kept
    | (with_reducible refine foldl_kept _ _ (fun s a h => ?_) _ ?_)
    | (with_reducible refine foldl2_kept _ _ (fun s a h => ?_) _ ?_)
    | (intro x s hs)
    | dsimp only
    | split

theorem eraseBlock_kept {q₀ : List Instr} (c t b : Nat) (ok : Bool) (s : State) (hk : Kept q₀ s) :
    Kept q₀ (eraseBlock c t b ok s) := by
  unfold eraseBlock
  try dsimp only
  repeat' first
    | with_reducible assumption
    | simp only [Kept_mk, Kept_fold]
    | with_reducible apply retireBlock_kept
    | with_reducible apply updTarget_kept
    | (intro x s hs)
    | dsimp only
    | (with_reducible refine ite_kept ?_ ?_)
    | split

theorem relocateBlock_kept {q₀ : List Instr} (c t b : Nat) (found : FlashFound) (s : State) (hk : Kept q₀ s) :
    Kept q₀ (relocateBlock c t b found s) := by
  unfold relocateBlock
  try dsimp only
  repeat' first
    | with_reducible assumption
    | simp only [Kept_mk, Kept_fold]
    | with_reducible apply poisonLpns_kept
    | with_reducible apply moveBlock_kept
    | with_reducible apply settleWork_kept
    | dsimp only

theorem recycle_kept {q₀ : List Instr} (c t b : Nat) (found : FlashFound) (s : State) (hk : Kept q₀ s) :
    Kept q₀ (recycle c t b found s) := by
  unfold recycle
  try dsimp only
  repeat' first
    | with_reducible assumption
    | simp only [Kept_mk, Kept_fold]
    | with_reducible apply poisonLpns_kept
    | with_reducible apply moveBlock_kept
    | with_reducible apply eraseBlock_kept
    | with_reducible apply settleWork_kept
    | dsimp only

theorem requeueProgram_kept {q₀ : List Instr} (k cid : Nat) (s : State) (hk : Kept q₀ s) :
    Kept q₀ (requeueProgram k cid s) := by
  unfold requeueProgram
  try dsimp only
  repeat' first
    | with_reducible assumption
    | simp only [Kept_mk, Kept_fold]
    | with_reducible apply dropProgram_kept
    | with_reducible apply queueProgram_kept
    | with_reducible apply updChg_kept
    | (intro x s hs)
    | dsimp only

theorem countOp_kept {q₀ : List Instr} (c t pr : Nat) (s : State) (hk : Kept q₀ s) :
    Kept q₀ (countOp c t pr s) := by
  unfold countOp
  try dsimp only
  repeat' first
    | with_reducible assumption
    | simp only [Kept_mk, Kept_fold]
    | with_reducible apply updTarget_kept
    | (refine keptP_mem (by assumption) ?_)
    | with_reducible apply zeroFrame_ok
    | with_reducible apply loadFrame_ok
    | with_reducible apply wrPage_ok
    | with_reducible apply wrEach_ok
    | (with_reducible apply Kept.mem)
    | (intro x s hs)
    | dsimp only
    | (with_reducible refine ite_kept ?_ ?_)
    | split

end Sys2Proof.Machine
end

