-- ==== Sys2Proof/Laws/KeptStacks.lean ====
section
/-! SUPPORT. What the operations of Machine/Stacks keep: `Kept`, the queue of commands and the invariant of memory and error state. -/

namespace Sys2Proof.Machine

set_option linter.unusedTactic false
set_option linter.unreachableTactic false
set_option linter.unusedVariables false

theorem popOp_kept {q₀ : List Instr} (u : Nat) (s : State) (hk : Kept q₀ s) :
    Kept q₀ (popOp u s) := by
  unfold popOp
  try dsimp only
  repeat' first
    | with_reducible assumption
    | simp only [Kept_mk, Kept_fold]
    | dsimp only
    | (with_reducible refine ite_kept ?_ ?_)
    | split

theorem issuePostponed_kept {q₀ : List Instr} (u : Nat) (s : State) (hk : Kept q₀ s) :
    Kept q₀ (issuePostponed u s) := by
  unfold issuePostponed
  try dsimp only
  repeat' first
    | with_reducible assumption
    | simp only [Kept_mk, Kept_fold]
    | (refine keptP_mem (by assumption) ?_)
    | with_reducible apply zeroFrame_ok
    | with_reducible apply loadFrame_ok
    | with_reducible apply wrPage_ok
    | with_reducible apply wrEach_ok
    | (with_reducible apply Kept.mem)
    | dsimp only

theorem startMove_kept {q₀ : List Instr} (td : Nat) (p : PageLoc) (dst : Nat) (rebal : Bool) (s : State) (hk : Kept q₀ s) :
    Kept q₀ (startMove td p dst rebal s) := by
  unfold startMove
  try dsimp only
  repeat' first
    | with_reducible assumption
    | simp only [Kept_mk, Kept_fold]
    | with_reducible apply holdAppends_kept
    | with_reducible apply queueCopy_kept
    | with_reducible apply addChg_kept
    | with_reducible apply takeFrame_kept
    | dsimp only

theorem moveDone_kept {q₀ : List Instr} (c : Chg) (s : State) (hk : Kept q₀ s) :
    Kept q₀ (moveDone c s) := by
  unfold moveDone
  try dsimp only
  repeat' first
    | with_reducible assumption
    | simp only [Kept_mk, Kept_fold]
    | with_reducible apply relocate_kept
    | with_reducible apply updChg_kept
    | with_reducible apply bump_kept
    | (intro x s hs)
    | dsimp only
    | (with_reducible refine ite_kept ?_ ?_)
    | split

theorem copyMark_ok {m : Mem} (mark : Option Dec) (dst : Nat) (h : MemOk m) : MemOk (copyMark mark dst m) := by
  unfold copyMark
  split
  · exact ⟨h.1, h.2⟩
  · exact h

theorem copyFrame_ok {m : Mem} (src dst : Nat) (h : MemOk m) : MemOk (copyFrame src dst m).1 := by
  unfold copyFrame
  extract_lets r
  clear_value r
  exact copyMark_ok _ _ (wrPage_ok _ _ _ h)

theorem copyFrame_okE {m m' : Mem} {src dst : Nat} {r : PRead} (e : copyFrame src dst m = (m', r)) (h : MemOk m) : MemOk m' := by
  have := copyFrame_ok src dst h
  rw [e] at this
  exact this

theorem makeCopy_kept {q₀ : List Instr} (c : Chg) (s : State) (hk : Kept q₀ s) : Kept q₀ (makeCopy c s).2 := by
  unfold makeCopy
  extract_lets x s1
  have hm : MemOk x.1 := copyFrame_ok _ _ hk.mem
  have h1 : Kept q₀ s1 := noteRead_kept _ _ hk
  clear_value s1
  split
  · exact kept_setMem h1 hm
  · refine settleWork_kept _ ?_
    split
    · exact report_kept _ _ (poisonRecord_kept _ _ _ (giveFrame_kept _ _ (dropChg_kept _ _ h1)))
    · exact poisonPage_kept _ _ _ _ _ _ _ _ (giveFrame_kept _ _ (dropChg_kept _ _ h1))

theorem makeCopy_keptE {q₀ : List Instr} {c : Chg} {s : State} {x0 : Bool} {t' : State} (e' : makeCopy c s = (x0, t')) (hk : Kept q₀ s) : Kept q₀ t' := by
  have h := makeCopy_kept c s hk
  rw [e'] at h
  exact h

theorem unitCopy_kept {q₀ : List Instr} (cid : Nat) (s : State) (hk : Kept q₀ s) : Kept q₀ (unitCopy cid s) := by
  unfold unitCopy
  split
  · exact hk
  · split
    · exact hk
    · extract_lets s1
      have h1 : Kept q₀ s1 := popOp_kept _ _ hk
      clear_value s1
      split
      · exact h1
      · extract_lets s2
        have h2 : Kept q₀ s2 := by
          unfold s2
          split
          · exact h1
          · exact makeCopy_kept _ _ h1
        clear_value s2
        exact issuePostponed_kept _ _ (settleWork_kept _ (updChg_kept _ _ _ h2))

theorem dropAppends_kept {q₀ : List Instr} (td seqn : Nat) (s : State) (hk : Kept q₀ s) :
    Kept q₀ (dropAppends td seqn s) := by
  unfold dropAppends
  try dsimp only
  repeat' first
    | with_reducible assumption
    | simp only [Kept_mk, Kept_fold]
    | with_reducible apply settleFences_kept
    | with_reducible apply dropOps_kept
    | (intro x s hs)
    | dsimp only
    | (with_reducible refine ite_kept ?_ ?_)
    | split

theorem makeLost_kept {q₀ : List Instr} (td seqn : Nat) (s : State) (hk : Kept q₀ s) :
    Kept q₀ (makeLost td seqn s) := by
  unfold makeLost
  try dsimp only
  repeat' first
    | with_reducible assumption
    | simp only [Kept_mk, Kept_fold]
    | with_reducible apply wcSync_kept
    | with_reducible apply abortExport_kept
    | with_reducible apply tcDrop_kept
    | with_reducible apply voidIf_kept
    | with_reducible apply setSeq_kept
    | with_reducible apply dropAppends_kept
    | with_reducible apply finishErr_kept
    | with_reducible apply draw_kept
    | with_reducible apply dropChgs_kept
    | (refine draw_keptE (by assumption) ?_)
    | (intro x s hs)
    | dsimp only
    | split

theorem tableError_kept {q₀ : List Instr} (c rel : Nat) (audit : Bool) (o : TObj) (s : State) (hk : Kept q₀ s) :
    Kept q₀ (tableError c rel audit o s) := by
  unfold tableError
  try dsimp only
  repeat' first
    | with_reducible assumption
    | simp only [Kept_mk, Kept_fold]
    | with_reducible apply dropEntry_kept
    | with_reducible apply report_kept
    | with_reducible apply poisonRecord_kept
    | with_reducible apply setQps_kept
    | with_reducible apply settleWork_kept
    | with_reducible apply updEntry_kept
    | with_reducible apply makeLost_kept
    | (with_reducible refine foldl_kept _ _ (fun s a h => ?_) _ ?_)
    | (with_reducible refine foldl2_kept _ _ (fun s a h => ?_) _ ?_)
    | (intro x s hs)
    | dsimp only
    | (with_reducible refine ite_kept ?_ ?_)
    | split

theorem listChanged_kept {q₀ : List Instr} (td : Nat) (s : State) (hk : Kept q₀ s) :
    Kept q₀ (listChanged td s) := by
  unfold listChanged
  try dsimp only
  repeat' first
    | with_reducible assumption
    | simp only [Kept_mk, Kept_fold]
    | with_reducible apply tcTrim_kept
    | with_reducible apply updDom_kept
    | (intro x s hs)
    | dsimp only

theorem substitute_kept {q₀ : List Instr} (e res : Nat) (cluster : Bool) (s : State) (hk : Kept q₀ s) :
    Kept q₀ (substitute e res cluster s) := by
  unfold substitute
  split
  · exact hk
  · split
    · exact hk
    · split
      · split
        · extract_lets s0 s1 s2 s3 s4
          exact report_kept _ _ (updClus_kept _ _ _ (setExt_kept _ _ _ (show Kept q₀ _ from hk)))
        · exact setExt_kept _ _ _ hk
      · split
        · extract_lets s0 s1 s2 s3 s4
          exact report_kept _ _ (listChanged_kept _ _ (setExt_kept _ _ _ (show Kept q₀ _ from hk)))
        · exact listChanged_kept _ _ (setExt_kept _ _ _ hk)

theorem substituteSoon_kept {q₀ : List Instr} (e res : Nat) (cluster : Bool) (s : State) (hk : Kept q₀ s) :
    Kept q₀ (substituteSoon e res cluster s) := by
  unfold substituteSoon
  try dsimp only
  repeat' first
    | with_reducible assumption
    | simp only [Kept_mk, Kept_fold]
    | with_reducible apply substitute_kept
    | dsimp only
    | (with_reducible refine ite_kept ?_ ?_)
    | split

theorem abandonInto_kept {q₀ : List Instr} (c : Nat) (s : State) (hk : Kept q₀ s) :
    Kept q₀ (abandonInto c s) := by
  unfold abandonInto
  try dsimp only
  repeat' first
    | with_reducible assumption
    | simp only [Kept_mk, Kept_fold]
    | with_reducible apply updWake_kept
    | with_reducible apply dropChgs_kept
    | (with_reducible refine foldl_kept _ _ (fun s a h => ?_) _ ?_)
    | (with_reducible refine foldl2_kept _ _ (fun s a h => ?_) _ ?_)
    | (intro x s hs)
    | dsimp only
    | (with_reducible refine ite_kept ?_ ?_)
    | split

theorem fenceChannel_kept {q₀ : List Instr} (c : Nat) (s : State) (hk : Kept q₀ s) :
    Kept q₀ (fenceChannel c s) := by
  unfold fenceChannel
  extract_lets owner s1 s2 sa s3 s4
  clear_value owner
  have h1 : Kept q₀ s1 := fenceCode_kept _ _ hk
  clear_value s1
  have h2 : Kept q₀ s2 := updCh_kept _ _ _ (dropZero_kept _ _ h1)
  clear_value s2
  have ha : Kept q₀ sa := abandonInto_kept _ _ h2
  clear_value sa
  have h3 : Kept q₀ s3 := by
    unfold s3
    split
    · exact ha
    · refine settleWork_kept _ (listChanged_kept _ _ (foldl_kept _ _ (fun s p h => ?_) _ ha))
      split
      · exact poisonRecord_kept _ _ _ h
      · exact setPsn_kept _ _ _ _ h
  clear_value s3
  have h4 : Kept q₀ s4 := by
    unfold s4
    split
    · exact substituteSoon_kept _ _ _ _ h3
    · exact h3
  exact report_kept _ _ h4

theorem badCodeword_kept {q₀ : List Instr} (a : Nat) (s : State) (hk : Kept q₀ s) :
    Kept q₀ (badCodeword a s) := by
  unfold badCodeword
  try dsimp only
  repeat' first
    | with_reducible assumption
    | simp only [Kept_mk, Kept_fold]
    | with_reducible apply poisonPage_kept
    | with_reducible apply report_kept
    | with_reducible apply retireFrame_kept
    | with_reducible apply settleWork_kept
    | with_reducible apply poisonRecord_kept
    | (intro x s hs)
    | dsimp only
    | (with_reducible refine ite_kept ?_ ?_)
    | split

theorem rekey_kept {q₀ : List Instr} (td : Nat) (hot : List Nat) (s : State) (hk : Kept q₀ s) :
    Kept q₀ (rekey td hot s) := by
  unfold rekey
  try dsimp only
  repeat' first
    | with_reducible assumption
    | simp only [Kept_mk, Kept_fold]
    | with_reducible apply updDom_kept
    | with_reducible apply bump_kept
    | with_reducible apply draw_kept
    | (refine draw_keptE (by assumption) ?_)
    | (intro x s hs)
    | dsimp only
    | split

theorem autoCleared_kept {q₀ : List Instr} (s : State) (hk : Kept q₀ s) :
    Kept q₀ (autoCleared s) := by
  unfold autoCleared
  try dsimp only
  repeat' first
    | with_reducible assumption
    | simp only [Kept_mk, Kept_fold]
    | with_reducible apply updDom_kept
    | (with_reducible refine foldl_kept _ _ (fun s a h => ?_) _ ?_)
    | (with_reducible refine foldl2_kept _ _ (fun s a h => ?_) _ ?_)
    | (intro x s hs)
    | dsimp only
    | (with_reducible refine ite_kept ?_ ?_)
    | split

theorem windowEnd_kept {q₀ : List Instr} (td : Nat) (s : State) (hk : Kept q₀ s) :
    Kept q₀ (windowEnd td s) := by
  unfold windowEnd
  extract_lets l hot p0 p1 s1 r0 r1 cool r2 p2 p3 p4 s2
  have h1 : Kept q₀ s1 := by
    unfold s1
    split
    · exact hk
    · exact bump_kept _ _ hk
  split
  · exact updDom_kept _ _ _ h1
  · split
    · exact rekey_kept _ _ _ (show Kept q₀ s2 from updDom_kept _ _ _ h1)
    · exact (show Kept q₀ s2 from updDom_kept _ _ _ h1)

theorem countMove_kept {q₀ : List Instr} (td : Nat) (s : State) (hk : Kept q₀ s) :
    Kept q₀ (countMove td s) := by
  unfold countMove
  try dsimp only
  repeat' first
    | with_reducible assumption
    | simp only [Kept_mk, Kept_fold]
    | (refine keptP_mem (by assumption) ?_)
    | with_reducible apply zeroFrame_ok
    | with_reducible apply loadFrame_ok
    | with_reducible apply wrPage_ok
    | with_reducible apply wrEach_ok
    | (with_reducible apply Kept.mem)
    | dsimp only
    | (with_reducible refine ite_kept ?_ ?_)
    | split

end Sys2Proof.Machine
end

