-- ==== Sys2Proof/Laws/KeptCmdSeq.lean ====
section
/-! SUPPORT. What the operations of Machine/CmdSeq keep: `Kept`, the queue of commands and the invariant of memory and error state. -/

namespace Sys2Proof.Machine

set_option linter.unusedTactic false
set_option linter.unreachableTactic false
set_option linter.unusedVariables false

theorem sendOwner_kept {q₀ : List Instr} (qpn td seqn mtype status peer : Nat) (decision : Bool) (ntp geomw : Nat) (body : List Byte) (s : State) (hk : Kept q₀ s) :
    Kept q₀ (sendOwner qpn td seqn mtype status peer decision ntp geomw body s) := by
  unfold sendOwner
  try dsimp only
  repeat' first
    | with_reducible assumption
    | simp only [Kept_mk, Kept_fold]
    | with_reducible apply sendMsg_kept
    | (intro x s hs)
    | dsimp only
    | (with_reducible refine ite_kept ?_ ?_)
    | split

theorem sendAbort_kept {q₀ : List Instr} (d : SeqD) (s : State) (hk : Kept q₀ s) :
    Kept q₀ (sendAbort d s) := by
  unfold sendAbort
  try dsimp only
  repeat' first
    | with_reducible assumption
    | simp only [Kept_mk, Kept_fold]
    | with_reducible apply sendOwner_kept
    | dsimp only
    | split

theorem openBlock_kept {q₀ : List Instr} (key : Nat) (s : State) (hk : Kept q₀ s) :
    Kept q₀ (openBlock key s) := by
  unfold openBlock
  try dsimp only
  repeat' first
    | with_reducible assumption
    | simp only [Kept_mk, Kept_fold]
    | (with_reducible refine foldl_kept _ _ (fun s a h => ?_) _ ?_)
    | (with_reducible refine foldl2_kept _ _ (fun s a h => ?_) _ ?_)
    | (intro x s hs)
    | dsimp only
    | (with_reducible refine ite_kept ?_ ?_)
    | split

theorem closeDesc_kept {q₀ : List Instr} (key : Nat) (f : FreeDesc) (s : State) (hk : Kept q₀ s) :
    Kept q₀ (closeDesc key f s) := by
  unfold closeDesc
  try dsimp only
  repeat' first
    | with_reducible assumption
    | simp only [Kept_mk, Kept_fold]
    | (intro x s hs)
    | dsimp only
    | (with_reducible refine ite_kept ?_ ?_)
    | split

theorem onSeq_kept {q₀ : List Instr} (c : Cmd) (f : SeqD → State → State) (s : State) (ff : ∀ y0 s, Kept q₀ s → Kept q₀ (f y0 s)) (hk : Kept q₀ s) :
    Kept q₀ (onSeq c f s) := by
  unfold onSeq
  split
  · split
    · exact ff _ _ hk
    · exact finishErr_kept _ _ _ hk
  · exact finishErr_kept _ _ _ hk

theorem voidSeq_kept {q₀ : List Instr} (td seqn : Nat) (s : State) (hk : Kept q₀ s) :
    Kept q₀ (voidSeq td seqn s) := by
  unfold voidSeq
  try dsimp only
  repeat' first
    | with_reducible assumption
    | simp only [Kept_mk, Kept_fold]
    | with_reducible apply closeIf_kept
    | (intro x s hs)
    | dsimp only

theorem freeAllPages_kept {q₀ : List Instr} (d : SeqD) (s : State) (hk : Kept q₀ s) :
    Kept q₀ (freeAllPages d s) := by
  unfold freeAllPages
  try dsimp only
  repeat' first
    | with_reducible assumption
    | simp only [Kept_mk, Kept_fold]
    | with_reducible apply freePage_kept
    | (with_reducible refine foldl_kept _ _ (fun s a h => ?_) _ ?_)
    | (with_reducible refine foldl2_kept _ _ (fun s a h => ?_) _ ?_)
    | (intro x s hs)
    | dsimp only

theorem settleChgs_kept {q₀ : List Instr} (td seqn : Nat) (s : State) (hk : Kept q₀ s) :
    Kept q₀ (settleChgs td seqn s) := by
  unfold settleChgs
  try dsimp only
  repeat' first
    | with_reducible assumption
    | simp only [Kept_mk, Kept_fold]
    | with_reducible apply giveFrame_kept
    | with_reducible apply dropChgs_kept
    | (with_reducible refine foldl_kept _ _ (fun s a h => ?_) _ ?_)
    | (with_reducible refine foldl2_kept _ _ (fun s a h => ?_) _ ?_)
    | (intro x s hs)
    | dsimp only
    | (with_reducible refine ite_kept ?_ ?_)
    | split

theorem releaseSeq_kept {q₀ : List Instr} (d : SeqD) (s : State) (hk : Kept q₀ s) :
    Kept q₀ (releaseSeq d s).2 := by
  unfold releaseSeq
  extract_lets s1 s2 s3 s4 s5 s6
  have h1 : Kept q₀ s1 := abortExport_kept _ _ _ hk
  clear_value s1
  have h2 : Kept q₀ s2 := by
    unfold s2
    split
    · exact finishErr_kept _ _ _ h1
    · exact h1
  clear_value s2
  have h5 : Kept q₀ s5 := settleChgs_kept _ _ _ (freeAllPages_kept _ _ (voidSeq_kept _ _ _ h2))
  clear_value s5
  have h6 : Kept q₀ s6 := tcDrop_kept _ _ h5
  clear_value s6
  dsimp only
  exact settleWork_kept _ (wcSync_kept _ _ _ (closeDesc_kept _ _ _ h6))

theorem releaseSeq_keptE {q₀ : List Instr} {d : SeqD} {s : State} {x0 : Bool} {t' : State} (e' : releaseSeq d s = (x0, t')) (hk : Kept q₀ s) : Kept q₀ t' := by
  have h := releaseSeq_kept d s hk
  rw [e'] at h
  exact h

theorem tableChan_kept {q₀ : List Instr} (s : State) (td : Nat) (hk : Kept q₀ s) :
    Kept q₀ (tableChan s td).2 := by
  unfold tableChan
  try dsimp only
  repeat' first
    | with_reducible assumption
    | simp only [Kept_mk, Kept_fold]
    | with_reducible apply takeFree_kept
    | (refine takeFree_keptE (by assumption) ?_)
    | dsimp only
    | split

theorem tableChan_keptE {q₀ : List Instr} {s : State} {td : Nat} {x0 : Nat} {t' : State} (e' : tableChan s td = (x0, t')) (hk : Kept q₀ s) : Kept q₀ t' := by
  have h := tableChan_kept s td hk
  rw [e'] at h
  exact h

theorem placeDesc_kept {q₀ : List Instr} (d : SeqD) (s : State) (hk : Kept q₀ s) :
    Kept q₀ (placeDesc d s) := by
  unfold placeDesc
  try dsimp only
  repeat' first
    | with_reducible assumption
    | simp only [Kept_mk, Kept_fold]
    | with_reducible apply openBlock_kept
    | with_reducible apply setSeq_kept
    | dsimp only

theorem newDesc_kept {q₀ : List Instr} (td seqn ext : Nat) (s : State) (hk : Kept q₀ s) :
    Kept q₀ (newDesc td seqn ext s).2.2 := by
  unfold newDesc
  try dsimp only
  repeat' first
    | with_reducible assumption
    | simp only [Kept_mk, Kept_fold]
    | with_reducible apply tableChan_kept
    | (refine tableChan_keptE (by assumption) ?_)
    | dsimp only
    | split

theorem newDesc_keptE {q₀ : List Instr} {td seqn ext : Nat} {s : State} {x0 : SeqD} {x1 : Bool} {t' : State} (e' : newDesc td seqn ext s = (x0, x1, t')) (hk : Kept q₀ s) : Kept q₀ t' := by
  have h := newDesc_kept td seqn ext s hk
  rw [e'] at h
  exact h

end Sys2Proof.Machine
end

