-- ==== Sys2Proof/Laws/KeptRaw.lean ====
section
/-! SUPPORT. What the operations of Machine/Raw keep: `Kept`, the queue of commands and the invariant of memory and error state. -/

namespace Sys2Proof.Machine

set_option linter.unusedTactic false
set_option linter.unreachableTactic false
set_option linter.unusedVariables false

theorem rawTcheck_kept {q₀ : List Instr} (s : State) (d : SeqD) (p : Nat) (hk : Kept q₀ s) :
    Kept q₀ (rawTcheck s d p) := by
  unfold rawTcheck
  try dsimp only
  repeat' first
    | with_reducible assumption
    | simp only [Kept_mk, Kept_fold]
    | with_reducible apply tcheckError_kept
    | dsimp only
    | split

theorem rawStore_kept {q₀ : List Instr} (g : W64) (fmt : List W64) (r : RawD) (f : Nat) (new : List Byte) (skip : Nat → Bool) (s : State) (hk : Kept q₀ s) :
    Kept q₀ (rawStore g fmt r f new skip s) := by
  unfold rawStore
  try dsimp only
  repeat' first
    | with_reducible assumption
    | simp only [Kept_mk, Kept_fold]
    | with_reducible apply dropWriteback_kept
    | (with_reducible refine foldl_kept _ _ (fun s a h => ?_) _ ?_)
    | (with_reducible refine foldl2_kept _ _ (fun s a h => ?_) _ ?_)
    | (refine keptP_mem (by assumption) ?_)
    | with_reducible apply zeroFrame_ok
    | with_reducible apply loadFrame_ok
    | with_reducible apply wrPage_ok
    | with_reducible apply wrEach_ok
    | (with_reducible apply Kept.mem)
    | (intro x s hs)
    | dsimp only
    | (with_reducible refine ite_kept ?_ ?_)
    | split

theorem rawDone_kept {q₀ : List Instr} (d : SeqD) (p : Nat) (e : Option Leaf) (x : PRead) (s : State) (hk : Kept q₀ s) :
    Kept q₀ (rawDone d p e x s) := by
  unfold rawDone
  try dsimp only
  repeat' first
    | with_reducible assumption
    | simp only [Kept_mk, Kept_fold]
    | with_reducible apply pageReadDone_kept
    | dsimp only
    | split

theorem rawRun_kept {q₀ : List Instr} (r : RawD) (d : SeqD) (dp sp k : Nat) (keep : Nat → Bool) (s : State) (hk : Kept q₀ s) :
    Kept q₀ (rawRun r d dp sp k keep s).2.2 := by
  unfold rawRun
  try dsimp only
  repeat' first
    | with_reducible assumption
    | simp only [Kept_mk, Kept_fold]
    | with_reducible apply touch_kept
    | with_reducible apply rawStore_kept
    | with_reducible apply poisonFirst_kept
    | with_reducible apply rawDone_kept
    | with_reducible apply noteRead_kept
    | (intro x s hs)
    | dsimp only
    | (with_reducible refine ite_kept ?_ ?_)
    | split

theorem rawRun_keptE {q₀ : List Instr} {r : RawD} {d : SeqD} {dp sp k : Nat} {keep : Nat → Bool} {s : State} {x0 : Nat} {x1 : List Byte} {t' : State} (e' : rawRun r d dp sp k keep s = (x0, x1, t')) (hk : Kept q₀ s) : Kept q₀ t' := by
  have h := rawRun_kept r d dp sp k keep s hk
  rw [e'] at h
  exact h

theorem rawEnd_kept {q₀ : List Instr} (id status : Nat) (res : List Byte) (s : State) (hk : Kept q₀ s) :
    Kept q₀ (rawEnd id status res s) := by
  unfold rawEnd
  try dsimp only
  repeat' first
    | with_reducible assumption
    | simp only [Kept_mk, Kept_fold]
    | with_reducible apply issuePostponed_kept
    | with_reducible apply dropOps_kept
    | with_reducible apply settleWork_kept
    | with_reducible apply finish_kept
    | (with_reducible refine foldl_kept _ _ (fun s a h => ?_) _ ?_)
    | (with_reducible refine foldl2_kept _ _ (fun s a h => ?_) _ ?_)
    | (intro x s hs)
    | dsimp only

theorem rawFrames_kept {q₀ : List Instr} (r : RawD) (d : SeqD) (dp sp : Nat) (s : State) (hk : Kept q₀ s) :
    Kept q₀ (rawFrames r d dp sp s).2 := by
  unfold rawFrames
  try dsimp only
  repeat' first
    | with_reducible assumption
    | simp only [Kept_mk, Kept_fold]
    | with_reducible apply ensureFrame_kept
    | with_reducible apply startPromotion_kept
    | (refine ensureFrame_keptE (by assumption) ?_)
    | (refine startPromotion_keptE (by assumption) ?_)
    | dsimp only
    | (with_reducible refine ite_kept ?_ ?_)
    | split

theorem rawFrames_keptE {q₀ : List Instr} {r : RawD} {d : SeqD} {dp sp : Nat} {s : State} {x0 : Nat} {t' : State} (e' : rawFrames r d dp sp s = (x0, t')) (hk : Kept q₀ s) : Kept q₀ t' := by
  have h := rawFrames_kept r d dp sp s hk
  rw [e'] at h
  exact h

theorem rawFinish_kept {q₀ : List Instr} (id td : Nat) (r : RawD) (d : SeqD) (dp sp : Nat) (s : State) (hk : Kept q₀ s) :
    Kept q₀ (rawFinish id td r d dp sp s) := by
  unfold rawFinish
  try dsimp only
  repeat' first
    | with_reducible assumption
    | simp only [Kept_mk, Kept_fold]
    | with_reducible apply emit_kept
    | with_reducible apply rawRun_kept
    | with_reducible apply rawEnd_kept
    | (refine rawRun_keptE (by assumption) ?_)
    | (intro x s hs)
    | dsimp only
    | (with_reducible refine ite_kept ?_ ?_)
    | split

theorem rawStop_kept {q₀ : List Instr} (id : Nat) (s : State) (hk : Kept q₀ s) :
    Kept q₀ (rawStop id s) := by
  unfold rawStop
  try dsimp only
  repeat' first
    | with_reducible assumption
    | simp only [Kept_mk, Kept_fold]
    | with_reducible apply rawRun_kept
    | with_reducible apply rawEnd_kept
    | (refine rawRun_keptE (by assumption) ?_)
    | (intro x s hs)
    | dsimp only
    | (with_reducible refine ite_kept ?_ ?_)
    | split

theorem rawIssue_kept {q₀ : List Instr} (id td : Nat) (r : RawD) (d : SeqD) (dp sp : Nat) (s : State) (hk : Kept q₀ s) :
    Kept q₀ (rawIssue id td r d dp sp s) := by
  unfold rawIssue
  try dsimp only
  repeat' first
    | with_reducible assumption
    | simp only [Kept_mk, Kept_fold]
    | with_reducible apply enqueueUnit_kept
    | with_reducible apply rawFinish_kept
    | with_reducible apply dropOps_kept
    | with_reducible apply rawEnd_kept
    | dsimp only
    | (with_reducible refine ite_kept ?_ ?_)
    | split

theorem bankOp_kept {q₀ : List Instr} (chn opc : Nat) (s : State) (hk : Kept q₀ s) :
    Kept q₀ (bankOp chn opc s) := by
  refine runCmd_kept _ _ _ _ ?_ hk
  clear hk s
  intro c s hk
  extract_lets r a b w
  clear_value w b a r
  have hend : ∀ st, Kept q₀ (rawEnd c.id st [] s) := fun st => rawEnd_kept _ _ _ _ hk
  refine ite_kept hk (ite_kept (hend 1) (ite_kept (hend 3) (ite_kept (hend 1) ?_)))
  split
  · exact hend 3
  next d _ =>
  refine ite_kept (hend 3) (ite_kept (hend 4) ?_)
  split
  next st1 dp _ _ =>
  split
  next st2 sp _ _ =>
  refine ite_kept (hend 2) (ite_kept (rawEnd_kept _ _ _ _ (rawTcheck_kept _ _ _ (rawTcheck_kept _ _ _ hk))) ?_)
  refine ite_kept (hend 0x0B) (ite_kept (hend 0x20) (ite_kept hk ?_))
  split
  next st s1 e =>
  have h1 : Kept q₀ s1 := rawFrames_keptE e hk
  clear e
  refine ite_kept (rawEnd_kept _ _ _ _ h1) (ite_kept (rawEnd_kept _ _ _ _ h1) (ite_kept h1 ?_))
  exact rawIssue_kept _ _ _ _ _ _ _ h1

end Sys2Proof.Machine
end

