-- ==== Sys2Proof/Laws/KeptPrefix.lean ====
section
/-! SUPPORT. What the operations of Machine/Prefix keep: `Kept`, the queue of commands and the invariant of memory and error state. -/

namespace Sys2Proof.Machine

set_option linter.unusedTactic false
set_option linter.unreachableTactic false
set_option linter.unusedVariables false

theorem insertEntry_keptE {q₀ : List Instr} {td : Nat} {e : DirE} {s : State} {t' : State} (e' : insertEntry td e s = some t') (hk : Kept q₀ s) :
    Kept q₀ t' := by
  unfold insertEntry at e'
  try dsimp only at e'
  repeat' split at e'
  all_goals try simp only [Option.map_eq_some_iff] at e'
  all_goals try obtain ⟨_, _, rfl⟩ := e'
  all_goals try cases e'
  all_goals repeat' first
      | with_reducible assumption
      | simp only [Kept_mk, Kept_fold]
      | (intro x s hs)
      | dsimp only

theorem repairEntry_kept {q₀ : List Instr} (td b slot : Nat) (key : BitVec 128) (s : State) (hk : Kept q₀ s) :
    Kept q₀ (repairEntry td b slot key s) := by
  unfold repairEntry
  try dsimp only
  repeat' first
    | with_reducible assumption
    | simp only [Kept_mk, Kept_fold]
    | with_reducible apply report_kept
    | with_reducible apply bump_kept
    | (intro x s hs)
    | dsimp only

theorem search_kept {q₀ : List Instr} (td : Nat) (key : BitVec 128) (s : State) (hk : Kept q₀ s) :
    Kept q₀ (search td key s).2 := by
  unfold search
  try dsimp only
  repeat' first
    | with_reducible assumption
    | simp only [Kept_mk, Kept_fold]
    | with_reducible apply repairEntry_kept
    | (intro x s hs)
    | dsimp only
    | (with_reducible refine ite_kept ?_ ?_)
    | split

theorem search_keptE {q₀ : List Instr} {td : Nat} {key : BitVec 128} {s : State} {x0 : Option DirE} {t' : State} (e' : search td key s = (x0, t')) (hk : Kept q₀ s) : Kept q₀ t' := by
  have h := search_kept td key s hk
  rw [e'] at h
  exact h

theorem stampGroup_kept {q₀ : List Instr} (td sidx : Nat) (s : State) (hk : Kept q₀ s) :
    Kept q₀ (stampGroup td sidx s) := by
  unfold stampGroup
  try dsimp only
  repeat' first
    | with_reducible assumption
    | simp only [Kept_mk, Kept_fold]
    | with_reducible apply updGroup_kept
    | (intro x s hs)
    | dsimp only

theorem countKey_kept {q₀ : List Instr} (td status : Nat) (s : State) (hk : Kept q₀ s) :
    Kept q₀ (countKey td status s) := by
  unfold countKey
  try dsimp only
  repeat' first
    | with_reducible assumption
    | simp only [Kept_mk, Kept_fold]
    | with_reducible apply bump_kept
    | dsimp only
    | (with_reducible refine ite_kept ?_ ?_)
    | split

theorem reportTcheck_kept {q₀ : List Instr} (d : SeqD) (ps : List Nat) (s : State) (hk : Kept q₀ s) :
    Kept q₀ (reportTcheck d ps s) := by
  unfold reportTcheck
  try dsimp only
  repeat' first
    | with_reducible assumption
    | simp only [Kept_mk, Kept_fold]
    | with_reducible apply rawTcheck_kept
    | dsimp only
    | split

theorem dedup_kept {q₀ : List Instr} (d : SeqD) (ps : List Nat) (e : DirE) (s : State) (hk : Kept q₀ s) :
    Kept q₀ (dedup d ps e s) := by
  unfold dedup
  try dsimp only
  repeat' first
    | with_reducible assumption
    | simp only [Kept_mk, Kept_fold]
    | with_reducible apply freeFlash_kept
    | with_reducible apply giveFrame_kept
    | with_reducible apply voidPage_kept
    | with_reducible apply updGroup_kept
    | with_reducible apply setLeafAt_kept
    | with_reducible apply updEntry_kept
    | with_reducible apply stampGroup_kept
    | (with_reducible refine foldl_kept _ _ (fun s a h => ?_) _ ?_)
    | (with_reducible refine foldl2_kept _ _ (fun s a h => ?_) _ ?_)
    | (intro x s hs)
    | dsimp only
    | split

theorem publishStart_kept {q₀ : List Instr} (d : SeqD) (t ver : Nat) (key : BitVec 128) (retain : Bool) (s : State) (hk : Kept q₀ s) :
    Kept q₀ (publishStart d t ver key retain s).2 := by
  unfold publishStart
  extract_lets tt ps
  clear_value tt ps
  split
  · exact hk
  · split
    next o s1 e =>
    have h1 : Kept q₀ s1 := search_keptE e hk
    clear e
    split
    · split
      · exact h1
      · split
        · exact h1
        · split
          · exact h1
          · split
            · exact stampGroup_kept _ _ _ h1
            · split
              · split
                · exact settleWork_kept _ (bump_kept _ _ (dedup_kept _ _ _ _ h1))
                · exact h1
              · exact reportTcheck_kept _ _ _ h1
    · split
      · split
        · exact h1
        · split
          · exact h1
          · split
            · exact h1
            · extract_lets e
              split
              · exact h1
              · next s2 e2 =>
                have h2 : Kept q₀ s2 := insertEntry_keptE e2 h1
                exact h2
      · exact reportTcheck_kept _ _ _ h1

theorem publishStart_keptE {q₀ : List Instr} {d : SeqD} {t ver : Nat} {key : BitVec 128} {retain : Bool} {s : State} {x0 : PubStep} {t' : State} (e' : publishStart d t ver key retain s = (x0, t')) (hk : Kept q₀ s) : Kept q₀ t' := by
  have h := publishStart_kept d t ver key retain s hk
  rw [e'] at h
  exact h

theorem publishLoop_kept {q₀ : List Instr} (cid j ver : Nat) (retain : Bool) :
    ∀ n s, Kept q₀ s → Kept q₀ (publishLoop cid j ver retain n s) := by
  intro n
  induction n with
  | zero => intro s hk; exact hk
  | succ n ih =>
    intro s hk
    unfold publishLoop
    try dsimp only
    repeat' first
        | with_reducible apply ih
        | with_reducible assumption
        | simp only [Kept_mk, Kept_fold]
        | with_reducible apply finishOk_kept
        | with_reducible apply publishStart_kept
        | with_reducible apply countKey_kept
        | with_reducible apply finish_kept
        | with_reducible apply updCmd_kept
        | (refine publishStart_keptE (by assumption) ?_)
        | (intro x s hs)
        | dsimp only
        | (with_reducible refine ite_kept ?_ ?_)
        | split

theorem publishGo_kept {q₀ : List Instr} (c : Cmd) (s : State) (hk : Kept q₀ s) :
    Kept q₀ (publishGo c s) := by
  unfold publishGo
  try dsimp only
  repeat' first
    | with_reducible assumption
    | simp only [Kept_mk, Kept_fold]
    | with_reducible apply publishLoop_kept
    | dsimp only

theorem publishUndo_kept {q₀ : List Instr} (td sidx : Nat) (key : BitVec 128) (s : State) (hk : Kept q₀ s) :
    Kept q₀ (publishUndo td sidx key s) := by
  unfold publishUndo
  try dsimp only
  repeat' first
    | with_reducible assumption
    | simp only [Kept_mk, Kept_fold]
    | with_reducible apply dropEntry_kept
    | (intro x s hs)
    | dsimp only

theorem publishPromote_kept {q₀ : List Instr} (d : SeqD) (ps : List Nat) (s : State) (hk : Kept q₀ s) :
    Kept q₀ (publishPromote d ps s).2 := by
  unfold publishPromote
  try dsimp only
  repeat' first
    | with_reducible assumption
    | simp only [Kept_mk, Kept_fold]
    | with_reducible apply startPromotion_kept
    | (refine startPromotion_keptE (by assumption) ?_)
    | (with_reducible refine foldl_kept _ _ (fun s a h => ?_) _ ?_)
    | (with_reducible refine foldl2_kept _ _ (fun s a h => ?_) _ ?_)
    | (intro x s hs)
    | dsimp only
    | (with_reducible refine ite_kept ?_ ?_)
    | split

theorem publishPromote_keptE {q₀ : List Instr} {d : SeqD} {ps : List Nat} {s : State} {x0 : Nat} {t' : State} (e' : publishPromote d ps s = (x0, t')) (hk : Kept q₀ s) : Kept q₀ t' := by
  have h := publishPromote_kept d ps s hk
  rw [e'] at h
  exact h

theorem publishEnd_kept {q₀ : List Instr} (d : SeqD) (t sidx : Nat) (key : BitVec 128) (retain : Bool) (s : State) (hk : Kept q₀ s) :
    Kept q₀ (publishEnd d t sidx key retain s).2 := by
  unfold publishEnd
  try dsimp only
  repeat' first
    | with_reducible assumption
    | simp only [Kept_mk, Kept_fold]
    | with_reducible apply voidPage_kept
    | with_reducible apply reportTcheck_kept
    | with_reducible apply publishUndo_kept
    | with_reducible apply updGroup_kept
    | with_reducible apply setLeafAt_kept
    | with_reducible apply bump_kept
    | with_reducible apply settleWork_kept
    | with_reducible apply updEntry_kept
    | with_reducible apply stampGroup_kept
    | (with_reducible refine foldl_kept _ _ (fun s a h => ?_) _ ?_)
    | (with_reducible refine foldl2_kept _ _ (fun s a h => ?_) _ ?_)
    | (intro x s hs)
    | dsimp only
    | (with_reducible refine ite_kept ?_ ?_)
    | split

theorem publishEnd_keptE {q₀ : List Instr} {d : SeqD} {t sidx : Nat} {key : BitVec 128} {retain : Bool} {s : State} {x0 : Nat} {t' : State} (e' : publishEnd d t sidx key retain s = (x0, t')) (hk : Kept q₀ s) : Kept q₀ t' := by
  have h := publishEnd_kept d t sidx key retain s hk
  rw [e'] at h
  exact h

theorem attachOne_kept {q₀ : List Instr} (d : SeqD) (ver : Nat) (key : BitVec 128) (s : State) (hk : Kept q₀ s) :
    Kept q₀ (attachOne d ver key s).2.2 := by
  unfold attachOne
  try dsimp only
  repeat' first
    | with_reducible assumption
    | simp only [Kept_mk, Kept_fold]
    | with_reducible apply setLeafAt_kept
    | with_reducible apply bump_kept
    | with_reducible apply reportTcheck_kept
    | with_reducible apply updGroup_kept
    | with_reducible apply touch_kept
    | with_reducible apply search_kept
    | with_reducible apply updSeq_kept
    | with_reducible apply updEntry_kept
    | with_reducible apply stampGroup_kept
    | (refine search_keptE (by assumption) ?_)
    | (with_reducible refine foldl_kept _ _ (fun s a h => ?_) _ ?_)
    | (with_reducible refine foldl2_kept _ _ (fun s a h => ?_) _ ?_)
    | (intro x s hs)
    | dsimp only
    | (with_reducible refine ite_kept ?_ ?_)
    | split

theorem attachOne_keptE {q₀ : List Instr} {d : SeqD} {ver : Nat} {key : BitVec 128} {s : State} {x0 : Nat} {x1 : Nat} {t' : State} (e' : attachOne d ver key s = (x0, x1, t')) (hk : Kept q₀ s) : Kept q₀ t' := by
  have h := attachOne_kept d ver key s hk
  rw [e'] at h
  exact h

theorem attachLoop_kept {q₀ : List Instr} (c : Cmd) (ver seqn : Nat) (l : List Nat) : ∀ (acc : List Byte) (s : State), Kept q₀ s →
    Kept q₀ (attachLoop c ver seqn l acc s).2 := by
  induction l with
  | nil => intro acc s hk; exact hk
  | cons i rest ih =>
    intro acc s hk
    unfold attachLoop
    split
    · exact hk
    · split
      next st v s1 e =>
      have h1 : Kept q₀ s1 := attachOne_keptE e hk
      extract_lets s2
      have h2 : Kept q₀ s2 := countKey_kept _ _ _ h1
      clear_value s2
      split
      · exact ih _ _ h2
      · exact h2

end Sys2Proof.Machine
end

