-- ==== Sys2Proof/Laws/KeptCmdQp.lean ====
section
/-! SUPPORT. What the operations of Machine/CmdQp keep: `Kept`, the queue of commands and the invariant of memory and error state. -/

namespace Sys2Proof.Machine

set_option linter.unusedTactic false
set_option linter.unreachableTactic false
set_option linter.unusedVariables false

theorem spill_kept {q₀ : List Instr} (qpn : Nat) (s : State) (hk : Kept q₀ s) :
    Kept q₀ (spill qpn s) := by
  unfold spill
  try dsimp only
  repeat' first
    | with_reducible assumption
    | simp only [Kept_mk, Kept_fold]
    | with_reducible apply updQp_kept
    | with_reducible apply dmaOut_kept
    | (intro x s hs)
    | dsimp only
    | split

theorem spillDown_kept {q₀ : List Instr} (td keep : Nat) :
    ∀ n s, Kept q₀ s → Kept q₀ (spillDown td keep n s) := by
  intro n
  induction n with
  | zero => intro s hk; exact hk
  | succ n ih =>
    intro s hk
    unfold spillDown
    try dsimp only
    repeat' first
        | with_reducible apply ih
        | with_reducible assumption
        | simp only [Kept_mk, Kept_fold]
        | with_reducible apply spill_kept
        | dsimp only
        | (with_reducible refine ite_kept ?_ ?_)
        | split

theorem spillToSlots_kept {q₀ : List Instr} (td : Nat) (s : State) (hk : Kept q₀ s) :
    Kept q₀ (spillToSlots td s) := by
  unfold spillToSlots
  try dsimp only
  repeat' first
    | with_reducible assumption
    | simp only [Kept_mk, Kept_fold]
    | with_reducible apply spillDown_kept
    | dsimp only

theorem takeSlot_keptE {q₀ : List Instr} {td : Nat} {s : State} {t' : State} (e' : takeSlot td s = some t') (hk : Kept q₀ s) :
    Kept q₀ t' := by
  unfold takeSlot at e'
  try dsimp only at e'
  repeat' split at e'
  all_goals try simp only [Option.map_eq_some_iff] at e'
  all_goals try obtain ⟨_, _, rfl⟩ := e'
  all_goals try cases e'
  all_goals repeat' first
      | with_reducible assumption
      | simp only [Kept_mk, Kept_fold]
      | with_reducible apply spillDown_kept
      | dsimp only
      | (with_reducible refine ite_kept ?_ ?_)
      | split

end Sys2Proof.Machine
end

