-- ==== Sys2Proof/Laws/KeptAccept.lean ====
section
/-! SUPPORT. What the operations of Machine/Accept keep: `Kept`, the queue of commands and the invariant of memory and error state. -/

namespace Sys2Proof.Machine

set_option linter.unusedTactic false
set_option linter.unreachableTactic false
set_option linter.unusedVariables false

theorem updWq_kept {q₀ : List Instr} (ch q : Nat) (f : Wq → Wq) (s : State) (hk : Kept q₀ s) :
    Kept q₀ (updWq ch q f s) := by
  unfold updWq
  try dsimp only
  repeat' first
    | with_reducible assumption
    | simp only [Kept_mk, Kept_fold]
    | with_reducible apply updChan_kept
    | (intro x s hs)
    | dsimp only

theorem sendReply_kept {q₀ : List Instr} (d : Dest) (r : Reply) (s : State) (hk : Kept q₀ s) :
    Kept q₀ (sendReply d r s) := by
  unfold sendReply
  try dsimp only
  repeat' first
    | with_reducible assumption
    | simp only [Kept_mk, Kept_fold]
    | with_reducible apply replyLost_kept
    | with_reducible apply updWq_kept
    | with_reducible apply dmaOut_kept
    | with_reducible apply sendMsg_kept
    | (intro x s hs)
    | dsimp only
    | (with_reducible refine ite_kept ?_ ?_)
    | split

theorem reserveAppend_kept {q₀ : List Instr} (q : SeqD) (layer : Nat) (heads pages : List Nat) (s : State) (hk : Kept q₀ s) :
    Kept q₀ (reserveAppend q layer heads pages s).2 := by
  unfold reserveAppend
  try dsimp only
  repeat' first
    | with_reducible assumption
    | simp only [Kept_mk, Kept_fold]
    | with_reducible apply ensureFrame_kept
    | (refine ensureFrame_keptE (by assumption) ?_)
    | (with_reducible refine foldl_kept _ _ (fun s a h => ?_) _ ?_)
    | (with_reducible refine foldl2_kept _ _ (fun s a h => ?_) _ ?_)
    | (intro x s hs)
    | dsimp only
    | (with_reducible refine ite_kept ?_ ?_)
    | split

theorem reserveAppend_keptE {q₀ : List Instr} {q : SeqD} {layer : Nat} {heads pages : List Nat} {s : State} {x0 : Nat} {t' : State} (e' : reserveAppend q layer heads pages s = (x0, t')) (hk : Kept q₀ s) : Kept q₀ t' := by
  have h := reserveAppend_kept q layer heads pages s hk
  rw [e'] at h
  exact h

theorem refuse_kept {q₀ : List Instr} (d : AttD) (sender : Sender) (td host status len rkey hint : Nat) (s : State) (hk : Kept q₀ s) :
    Kept q₀ (refuse d sender td host status len rkey hint s) := by
  unfold refuse
  try dsimp only
  repeat' first
    | with_reducible assumption
    | simp only [Kept_mk, Kept_fold]
    | with_reducible apply bump_kept
    | with_reducible apply sendReply_kept
    | dsimp only
    | (with_reducible refine ite_kept ?_ ?_)
    | split

theorem acceptFrom2_kept {q₀ : List Instr} (bs : List Byte) (sender : Sender) (td host home : Nat) (s : State) (hk : Kept q₀ s) :
    Kept q₀ (acceptFrom2 bs sender td host home s) := by
  unfold acceptFrom2
  try dsimp only
  repeat' first
    | with_reducible assumption
    | simp only [Kept_mk, Kept_fold]
    | with_reducible apply bump_kept
    | with_reducible apply refuse_kept
    | with_reducible apply stageOnAccept_kept
    | with_reducible apply updSeq_kept
    | with_reducible apply reserveAppend_kept
    | (refine reserveAppend_keptE (by assumption) ?_)
    | (intro x s hs)
    | dsimp only
    | (with_reducible refine ite_kept ?_ ?_)
    | split

theorem submit_kept {q₀ : List Instr} (bs : List Byte) (sender : Sender) (td host home : Nat) (s : State) (hk : Kept q₀ s) :
    Kept q₀ (submit bs sender td host home s) := by
  unfold submit
  try dsimp only
  repeat' first
    | with_reducible assumption
    | simp only [Kept_mk, Kept_fold]
    | with_reducible apply acceptFrom2_kept
    | with_reducible apply refuse_kept
    | dsimp only
    | (with_reducible refine ite_kept ?_ ?_)
    | split

theorem releaseHeld_kept {q₀ : List Instr} (td seqn : Nat) (s : State) (hk : Kept q₀ s) :
    Kept q₀ (releaseHeld td seqn s) := by
  unfold releaseHeld
  try dsimp only
  repeat' first
    | with_reducible assumption
    | simp only [Kept_mk, Kept_fold]
    | with_reducible apply acceptFrom2_kept
    | (with_reducible refine foldl_kept _ _ (fun s a h => ?_) _ ?_)
    | (with_reducible refine foldl2_kept _ _ (fun s a h => ?_) _ ?_)
    | (intro x s hs)
    | dsimp only

end Sys2Proof.Machine
end

