-- ==== Sys2Proof/Laws/KeptPath.lean ====
section
/-! SUPPORT. What the operations of Machine/Path keep: `Kept`, the queue of commands and the invariant of memory and error state. -/

namespace Sys2Proof.Machine

set_option linter.unusedTactic false
set_option linter.unreachableTactic false
set_option linter.unusedVariables false

theorem readDirect_kept {q₀ : List Instr} (l : List PageRef) (s : State) (hk : Kept q₀ s) :
    Kept q₀ (readDirect l s) := by
  unfold readDirect
  try dsimp only
  repeat' first
    | with_reducible assumption
    | simp only [Kept_mk, Kept_fold]
    | with_reducible apply queueDirect_kept
    | (with_reducible refine foldl_kept _ _ (fun s a h => ?_) _ ?_)
    | (with_reducible refine foldl2_kept _ _ (fun s a h => ?_) _ ?_)
    | (intro x s hs)
    | dsimp only
    | split

theorem refreshed_kept {q₀ : List Instr} (r : Req) (p : PageRef) (s : State) (hk : Kept q₀ s) :
    Kept q₀ (refreshed r p s).2 := by
  unfold refreshed
  try dsimp only
  repeat' first
    | with_reducible assumption
    | simp only [Kept_mk, Kept_fold]
    | with_reducible apply translatePage_kept
    | (refine translatePage_keptE (by assumption) ?_)
    | dsimp only
    | (with_reducible refine ite_kept ?_ ?_)
    | split

theorem refreshed_keptE {q₀ : List Instr} {r : Req} {p : PageRef} {s : State} {x0 : PageRef} {t' : State} (e' : refreshed r p s = (x0, t')) (hk : Kept q₀ s) : Kept q₀ t' := by
  have h := refreshed_kept r p s hk
  rw [e'] at h
  exact h

theorem needPage_kept {q₀ : List Instr} (r : Req) (p : PageRef) (s : State) (hk : Kept q₀ s) :
    Kept q₀ (needPage r p s) := by
  unfold needPage
  try dsimp only
  repeat' first
    | with_reducible assumption
    | simp only [Kept_mk, Kept_fold]
    | with_reducible apply startPromotion_kept
    | (refine startPromotion_keptE (by assumption) ?_)
    | dsimp only
    | (with_reducible refine ite_kept ?_ ?_)
    | split

theorem plainPart_kept {q₀ : List Instr} (r : Req) (p : PageRef) (uncorrectable : Bool) (s : State) (hk : Kept q₀ s) :
    Kept q₀ (plainPart r p uncorrectable s).2 := by
  unfold plainPart
  try dsimp only
  repeat' first
    | with_reducible assumption
    | simp only [Kept_mk, Kept_fold]
    | with_reducible apply bump_kept
    | with_reducible apply settleWork_kept
    | with_reducible apply flashBad_kept
    | with_reducible apply heatUp_kept
    | (refine keptP_mem (by assumption) ?_)
    | with_reducible apply zeroFrame_ok
    | with_reducible apply loadFrame_ok
    | with_reducible apply wrPage_ok
    | with_reducible apply wrEach_ok
    | (with_reducible apply Kept.mem)
    | dsimp only
    | (with_reducible refine ite_kept ?_ ?_)
    | split

theorem plainPart_keptE {q₀ : List Instr} {r : Req} {p : PageRef} {uncorrectable : Bool} {s : State} {x0 : Part} {t' : State} (e' : plainPart r p uncorrectable s = (x0, t')) (hk : Kept q₀ s) : Kept q₀ t' := by
  have h := plainPart_kept r p uncorrectable s hk
  rw [e'] at h
  exact h

theorem fetchTile_kept {q₀ : List Instr} (slot : Nat) (r : Req) (p : PageRef) (l : Leaf) (s : State) (hk : Kept q₀ s) :
    Kept q₀ (fetchTile slot r p l s).2 := by
  unfold fetchTile
  try dsimp only
  repeat' first
    | with_reducible assumption
    | simp only [Kept_mk, Kept_fold]
    | with_reducible apply pageReadDone_kept
    | with_reducible apply settleWork_kept
    | dsimp only

theorem fetchTile_keptE {q₀ : List Instr} {slot : Nat} {r : Req} {p : PageRef} {l : Leaf} {s : State} {x0 : Tile} {t' : State} (e' : fetchTile slot r p l s = (x0, t')) (hk : Kept q₀ s) : Kept q₀ t' := by
  have h := fetchTile_kept slot r p l s hk
  rw [e'] at h
  exact h

theorem sampleSelect_kept {q₀ : List Instr} (die : Nat) (r : Req) (p : PageRef) (part : Part) (unit : Nat) (cluster : Option Nat) (s : State) (hk : Kept q₀ s) :
    Kept q₀ (sampleSelect die r p part unit cluster s) := by
  unfold sampleSelect
  try dsimp only
  repeat' first
    | with_reducible assumption
    | simp only [Kept_mk, Kept_fold]
    | with_reducible apply bump_kept
    | with_reducible apply updZph_kept
    | with_reducible apply draw_kept
    | (refine draw_keptE (by assumption) ?_)
    | (intro x s hs)
    | dsimp only
    | (with_reducible refine ite_kept ?_ ?_)
    | split

theorem serveFlash_kept {q₀ : List Instr} (rid : Nat) (s : State) (hk : Kept q₀ s) :
    Kept q₀ (serveFlash rid s) := by
  unfold serveFlash
  try dsimp only
  repeat' first
    | with_reducible assumption
    | simp only [Kept_mk, Kept_fold]
    | with_reducible apply issueFused_kept
    | with_reducible apply placeGroupPage_kept
    | with_reducible apply needPage_kept
    | with_reducible apply readDirect_kept
    | with_reducible apply updReq_kept
    | (with_reducible refine foldl_kept _ _ (fun s a h => ?_) _ ?_)
    | (with_reducible refine foldl2_kept _ _ (fun s a h => ?_) _ ?_)
    | (intro x s hs)
    | dsimp only
    | (with_reducible refine ite_kept ?_ ?_)
    | split

theorem charge_kept {q₀ : List Instr} (h pages : Nat) (s : State) (hk : Kept q₀ s) :
    Kept q₀ (charge h pages s) := by
  unfold charge
  try dsimp only
  repeat' first
    | with_reducible assumption
    | simp only [Kept_mk, Kept_fold]
    | with_reducible apply bumpBy_kept
    | dsimp only

theorem issuePages_kept {q₀ : List Instr} (r : Req) (s : State) (hk : Kept q₀ s) :
    Kept q₀ (issuePages r s) := by
  unfold issuePages
  try dsimp only
  repeat' first
    | with_reducible assumption
    | simp only [Kept_mk, Kept_fold]
    | with_reducible apply translate_kept
    | with_reducible apply issueFused_kept
    | with_reducible apply issueBankPages_kept
    | (refine translate_keptE (by assumption) ?_)
    | (intro x s hs)
    | dsimp only
    | (with_reducible refine ite_kept ?_ ?_)
    | split

theorem issueReq_kept {q₀ : List Instr} (r : Req) (s : State) (hk : Kept q₀ s) :
    Kept q₀ (issueReq r s) := by
  unfold issueReq
  try dsimp only
  repeat' first
    | with_reducible assumption
    | simp only [Kept_mk, Kept_fold]
    | with_reducible apply serveFlash_kept
    | with_reducible apply issuePages_kept
    | with_reducible apply charge_kept
    | with_reducible apply issueAppends_kept
    | with_reducible apply updReq_kept
    | (intro x s hs)
    | dsimp only
    | (with_reducible refine ite_kept ?_ ?_)
    | split

theorem holdReq_kept {q₀ : List Instr} (r : Req) (s : State) (hk : Kept q₀ s) :
    Kept q₀ (holdReq r s) := by
  unfold holdReq
  try dsimp only
  repeat' first
    | with_reducible assumption
    | simp only [Kept_mk, Kept_fold]
    | with_reducible apply bump_kept
    | with_reducible apply updReq_kept
    | (intro x s hs)
    | dsimp only

theorem unitPart_kept {q₀ : List Instr} (r : Req) (p : PageRef) (l : Leaf) (s : State) (hk : Kept q₀ s) :
    Kept q₀ (unitPart r p l s).2 := by
  unfold unitPart
  try dsimp only
  repeat' first
    | with_reducible assumption
    | simp only [Kept_mk, Kept_fold]
    | with_reducible apply pageReadDone_kept
    | with_reducible apply heatUp_kept
    | dsimp only
    | (with_reducible refine ite_kept ?_ ?_)
    | split

theorem unitPart_keptE {q₀ : List Instr} {r : Req} {p : PageRef} {l : Leaf} {s : State} {x0 : Part} {t' : State} (e' : unitPart r p l s = (x0, t')) (hk : Kept q₀ s) : Kept q₀ t' := by
  have h := unitPart_kept r p l s hk
  rw [e'] at h
  exact h

theorem replacePage_kept {q₀ : List Instr} (gid c : Nat) (p q : PageRef) (s : State) (hk : Kept q₀ s) :
    Kept q₀ (replacePage gid c p q s) := by
  unfold replacePage
  try dsimp only
  repeat' first
    | with_reducible assumption
    | simp only [Kept_mk, Kept_fold]
    | with_reducible apply updG_kept
    | with_reducible apply needPage_kept
    | with_reducible apply updReq_kept
    | (intro x s hs)
    | dsimp only
    | (with_reducible refine ite_kept ?_ ?_)
    | split

theorem takeTile_kept {q₀ : List Instr} (gid c : Nat) (t : Tile) (s : State) (hk : Kept q₀ s) :
    Kept q₀ (takeTile gid c t s) := by
  unfold takeTile
  try dsimp only
  repeat' first
    | with_reducible assumption
    | simp only [Kept_mk, Kept_fold]
    | with_reducible apply updG_kept
    | with_reducible apply useWays_kept
    | (intro x s hs)
    | dsimp only
    | (with_reducible refine ite_kept ?_ ?_)
    | split

theorem clusterDone_kept {q₀ : List Instr} (gid c : Nat) (r : Req) (p : PageRef) (part : Part) (s : State) (hk : Kept q₀ s) :
    Kept q₀ (clusterDone gid c r p part s) := by
  unfold clusterDone
  try dsimp only
  repeat' first
    | with_reducible assumption
    | simp only [Kept_mk, Kept_fold]
    | with_reducible apply updG_kept
    | with_reducible apply addPart_kept
    | with_reducible apply sampleSelect_kept
    | with_reducible apply settleWork_kept
    | with_reducible apply useWays_kept
    | (refine addPart_keptE (by assumption) ?_)
    | (intro x s hs)
    | dsimp only
    | (with_reducible refine ite_kept ?_ ?_)
    | split

theorem issueWaiting_kept {q₀ : List Instr}  :
    ∀ n s, Kept q₀ s → Kept q₀ (issueWaiting n s) := by
  intro n
  induction n with
  | zero => intro s hk; exact hk
  | succ n ih =>
    intro s hk
    unfold issueWaiting
    try dsimp only
    repeat' first
        | with_reducible apply ih
        | with_reducible assumption
        | simp only [Kept_mk, Kept_fold]
        | with_reducible apply serveFlash_kept
        | with_reducible apply handOut_kept
        | with_reducible apply translatePage_kept
        | (refine translatePage_keptE (by assumption) ?_)
        | (with_reducible refine foldl_kept _ _ (fun s a h => ?_) _ ?_)
        | (with_reducible refine foldl2_kept _ _ (fun s a h => ?_) _ ?_)
        | (intro x s hs)
        | dsimp only
        | split

theorem refreshPages_kept {q₀ : List Instr} (r : Req) (l : List PageRef) (s : State) (hk : Kept q₀ s) :
    Kept q₀ (refreshPages r l s).2 := by
  unfold refreshPages
  try dsimp only
  repeat' first
    | with_reducible assumption
    | simp only [Kept_mk, Kept_fold]
    | with_reducible apply translatePage_kept
    | (refine translatePage_keptE (by assumption) ?_)
    | (with_reducible refine foldl_kept _ _ (fun s a h => ?_) _ ?_)
    | (with_reducible refine foldl2_kept _ _ (fun s a h => ?_) _ ?_)
    | (intro x s hs)
    | dsimp only
    | (with_reducible refine ite_kept ?_ ?_)
    | split

theorem refreshPages_keptE {q₀ : List Instr} {r : Req} {l : List PageRef} {s : State} {x0 : List PageRef} {t' : State} (e' : refreshPages r l s = (x0, t')) (hk : Kept q₀ s) : Kept q₀ t' := by
  have h := refreshPages_kept r l s hk
  rw [e'] at h
  exact h

theorem dropFrom_kept {q₀ : List Instr} (c gid : Nat) (s : State) (hk : Kept q₀ s) :
    Kept q₀ (dropFrom c gid s) := by
  unfold dropFrom
  try dsimp only
  repeat' first
    | with_reducible assumption
    | simp only [Kept_mk, Kept_fold]
    | with_reducible apply addG_kept
    | with_reducible apply updReq_kept
    | with_reducible apply updG_kept
    | with_reducible apply refreshPages_kept
    | (refine refreshPages_keptE (by assumption) ?_)
    | (with_reducible refine foldl_kept _ _ (fun s a h => ?_) _ ?_)
    | (with_reducible refine foldl2_kept _ _ (fun s a h => ?_) _ ?_)
    | (intro x s hs)
    | dsimp only
    | (with_reducible refine ite_kept ?_ ?_)
    | split

theorem dropCluster_kept {q₀ : List Instr} (c : Nat) (s : State) (hk : Kept q₀ s) :
    Kept q₀ (dropCluster c s) := by
  unfold dropCluster
  try dsimp only
  repeat' first
    | with_reducible assumption
    | simp only [Kept_mk, Kept_fold]
    | with_reducible apply dropFrom_kept
    | with_reducible apply serveFlash_kept
    | with_reducible apply issueWaiting_kept
    | (with_reducible refine foldl_kept _ _ (fun s a h => ?_) _ ?_)
    | (with_reducible refine foldl2_kept _ _ (fun s a h => ?_) _ ?_)
    | (intro x s hs)
    | dsimp only

theorem enterZph_kept {q₀ : List Instr} (die td : Nat) (s : State) (hk : Kept q₀ s) :
    Kept q₀ (enterZph die td s) := by
  unfold enterZph
  try dsimp only
  repeat' first
    | with_reducible assumption
    | simp only [Kept_mk, Kept_fold]
    | with_reducible apply updZph_kept
    | (intro x s hs)
    | dsimp only
    | (with_reducible refine ite_kept ?_ ?_)
    | split

theorem zphReplace_kept {q₀ : List Instr} (p q : PageRef) (s : State) (hk : Kept q₀ s) :
    Kept q₀ (zphReplace p q s) := by
  unfold zphReplace
  try dsimp only
  repeat' first
    | with_reducible assumption
    | simp only [Kept_mk, Kept_fold]
    | with_reducible apply needPage_kept
    | with_reducible apply updReq_kept
    | (intro x s hs)
    | dsimp only
    | (with_reducible refine ite_kept ?_ ?_)
    | split

theorem zphFetch_kept {q₀ : List Instr} (die : Nat) (r : Req) (p : PageRef) (s : State) (hk : Kept q₀ s) :
    Kept q₀ (zphFetch die r p s) := by
  unfold zphFetch
  extract_lets buf
  clear_value buf
  split
  · exact hk
  · split
    next q s1 e =>
    have h1 : Kept q₀ s1 := refreshed_keptE e hk
    clear e
    split
    · split
      · exact zphReplace_kept _ _ _ h1
      split
      · exact h1
      · split
        next t s2 e =>
        exact updZph_kept _ _ _ (fetchTile_keptE e h1)
    · exact zphReplace_kept _ _ _ h1
    · exact h1

theorem zphPageDone_kept {q₀ : List Instr} (p : PageRef) (part : Part) (s : State) (hk : Kept q₀ s) :
    Kept q₀ (zphPageDone p part s) := by
  unfold zphPageDone
  try dsimp only
  repeat' first
    | with_reducible assumption
    | simp only [Kept_mk, Kept_fold]
    | with_reducible apply updReq_kept
    | (intro x s hs)
    | dsimp only

theorem zphCompute_kept {q₀ : List Instr} (die : Nat) (r : Req) (t : Tile) (s : State) (hk : Kept q₀ s) :
    Kept q₀ (zphCompute die r t s) := by
  unfold zphCompute
  try dsimp only
  repeat' first
    | with_reducible assumption
    | simp only [Kept_mk, Kept_fold]
    | with_reducible apply updReq_kept
    | with_reducible apply updZph_kept
    | with_reducible apply heatUp_kept
    | with_reducible apply zphPageDone_kept
    | (intro x s hs)
    | dsimp only
    | (with_reducible refine ite_kept ?_ ?_)
    | split

theorem zphPlain_kept {q₀ : List Instr} (r : Req) (p : PageRef) (uncorrectable : Bool) (s : State) (hk : Kept q₀ s) :
    Kept q₀ (zphPlain r p uncorrectable s) := by
  unfold zphPlain
  try dsimp only
  repeat' first
    | with_reducible assumption
    | simp only [Kept_mk, Kept_fold]
    | with_reducible apply refreshed_kept
    | with_reducible apply zphReplace_kept
    | with_reducible apply plainPart_kept
    | with_reducible apply zphPageDone_kept
    | (refine refreshed_keptE (by assumption) ?_)
    | (refine plainPart_keptE (by assumption) ?_)
    | dsimp only
    | (with_reducible refine ite_kept ?_ ?_)
    | split

theorem replyOf_kept {q₀ : List Instr} (s : State) (r : Req) (l : List Part) (zephyr : Bool) (hk : Kept q₀ s) :
    Kept q₀ (replyOf s r l zephyr).2 := by
  unfold replyOf
  try dsimp only
  repeat' first
    | with_reducible assumption
    | simp only [Kept_mk, Kept_fold]
    | (with_reducible refine foldl_kept _ _ (fun s a h => ?_) _ ?_)
    | (with_reducible refine foldl2_kept _ _ (fun s a h => ?_) _ ?_)
    | (intro x s hs)
    | dsimp only
    | (with_reducible refine ite_kept ?_ ?_)
    | split

theorem replyOf_keptE {q₀ : List Instr} {s : State} {r : Req} {l : List Part} {zephyr : Bool} {x0 : Reply} {t' : State} (e' : replyOf s r l zephyr = (x0, t')) (hk : Kept q₀ s) : Kept q₀ t' := by
  have h := replyOf_kept s r l zephyr hk
  rw [e'] at h
  exact h

theorem dropReq_kept {q₀ : List Instr} (rid : Nat) (s : State) (hk : Kept q₀ s) :
    Kept q₀ (dropReq rid s) := by
  unfold dropReq
  try dsimp only
  repeat' first
    | with_reducible assumption
    | simp only [Kept_mk, Kept_fold]
    | with_reducible apply dropOps_kept
    | (intro x s hs)
    | dsimp only
    | split

theorem mergePlace_keptE {q₀ : List Instr} {r : Req} {s : State} {t' : State} (e' : mergePlace r s = some t') (hk : Kept q₀ s) :
    Kept q₀ t' := by
  unfold mergePlace at e'
  try dsimp only at e'
  repeat' split at e'
  all_goals try simp only [Option.map_eq_some_iff] at e'
  all_goals try obtain ⟨_, _, rfl⟩ := e'
  all_goals try cases e'
  all_goals repeat' first
      | with_reducible assumption
      | simp only [Kept_mk, Kept_fold]
      | with_reducible apply sampleBack_kept
      | with_reducible apply updZph_kept
      | with_reducible apply useWays_kept
      | with_reducible apply enterZph_kept
      | with_reducible apply updReq_kept
      | (intro x s hs)
      | dsimp only
      | (with_reducible refine ite_kept ?_ ?_)
      | split

end Sys2Proof.Machine
end

