-- ==== Sys2Proof/Laws/KeptLull.lean ====
section
/-! SUPPORT. What the operations of Machine/Lull keep: `Kept`, the queue of commands and the invariant of memory and error state. -/

namespace Sys2Proof.Machine

set_option linter.unusedTactic false
set_option linter.unreachableTactic false
set_option linter.unusedVariables false

theorem fenceSamples_kept {q₀ : List Instr} (p : Sample → Bool) (s : State) (hk : Kept q₀ s) :
    Kept q₀ (fenceSamples p s) := by
  unfold fenceSamples
  try dsimp only
  repeat' first
    | with_reducible assumption
    | simp only [Kept_mk, Kept_fold]
    | with_reducible apply sampleDone_kept
    | with_reducible apply lullSoft_kept
    | (with_reducible refine foldl_kept _ _ (fun s a h => ?_) _ ?_)
    | (with_reducible refine foldl2_kept _ _ (fun s a h => ?_) _ ?_)
    | (intro x s hs)
    | dsimp only
    | (with_reducible refine ite_kept ?_ ?_)
    | split

theorem moveAttends_kept {q₀ : List Instr} (u : Nat) (s : State) (hk : Kept q₀ s) :
    Kept q₀ (moveAttends u s) := by
  unfold moveAttends
  try dsimp only
  repeat' first
    | with_reducible assumption
    | simp only [Kept_mk, Kept_fold]
    | with_reducible apply issueFused_kept
    | with_reducible apply dropOps_kept
    | with_reducible apply updReq_kept
    | (with_reducible refine foldl_kept _ _ (fun s a h => ?_) _ ?_)
    | (with_reducible refine foldl2_kept _ _ (fun s a h => ?_) _ ?_)
    | (intro x s hs)
    | dsimp only
    | split

theorem stopRaw_kept {q₀ : List Instr} (u : Nat) (s : State) (hk : Kept q₀ s) :
    Kept q₀ (stopRaw u s) := by
  unfold stopRaw
  try dsimp only
  repeat' first
    | with_reducible assumption
    | simp only [Kept_mk, Kept_fold]
    | with_reducible apply rawStop_kept
    | (intro x s hs)
    | dsimp only
    | (with_reducible refine ite_kept ?_ ?_)
    | split

theorem latchParity_kept {q₀ : List Instr} (island : Nat) (s : State) (hk : Kept q₀ s) :
    Kept q₀ (latchParity island s) := by
  unfold latchParity
  try dsimp only
  repeat' first
    | with_reducible assumption
    | simp only [Kept_mk, Kept_fold]
    | dsimp only

theorem fenceUnit_kept {q₀ : List Instr} (u cause tag : Nat) (s : State) (hk : Kept q₀ s) :
    Kept q₀ (fenceUnit u cause tag s) := by
  unfold fenceUnit
  split
  · exact hk
  · extract_lets owner s1 s2 s3 s4
    have h2 : Kept q₀ s2 := fenceSamples_kept _ _ (fenceCode_kept _ _ hk)
    clear_value s2
    have h3 : Kept q₀ s3 := settleWork_kept _ (moveAttends_kept _ _ (stopRaw_kept _ _ h2))
    clear_value s3
    have h4 : Kept q₀ s4 := ite_kept (latchParity_kept _ _ h3) h3
    clear_value s4
    exact report_kept _ _ h4

theorem fenceCluster_kept {q₀ : List Instr} (c cause tag : Nat) (s : State) (hk : Kept q₀ s) :
    Kept q₀ (fenceCluster c cause tag s) := by
  unfold fenceCluster
  try dsimp only
  repeat' first
    | with_reducible assumption
    | simp only [Kept_mk, Kept_fold]
    | with_reducible apply fenceSamples_kept
    | with_reducible apply latchParity_kept
    | with_reducible apply report_kept
    | with_reducible apply substituteSoon_kept
    | with_reducible apply updClus_kept
    | with_reducible apply tcDrop_kept
    | with_reducible apply dropCluster_kept
    | with_reducible apply fenceCode_kept
    | (intro x s hs)
    | dsimp only
    | (with_reducible refine ite_kept ?_ ?_)
    | split

theorem fenceZephyr_kept {q₀ : List Instr} (die : Nat) (s : State) (hk : Kept q₀ s) :
    Kept q₀ (fenceZephyr die s) := by
  unfold fenceZephyr
  try dsimp only
  repeat' first
    | with_reducible assumption
    | simp only [Kept_mk, Kept_fold]
    | with_reducible apply syncZph_kept
    | with_reducible apply report_kept
    | with_reducible apply sampleBack_kept
    | with_reducible apply updZph_kept
    | with_reducible apply fatalStop_kept
    | (intro x s hs)
    | dsimp only
    | (with_reducible refine ite_kept ?_ ?_)
    | split

theorem lullStep_kept {q₀ : List Instr} (die : Nat) (s : State) (hk : Kept q₀ s) :
    Kept q₀ (lullStep die s) := by
  unfold lullStep
  try dsimp only
  repeat' first
    | with_reducible assumption
    | simp only [Kept_mk, Kept_fold]
    | with_reducible apply bump_kept
    | dsimp only

theorem sampleReadDone_kept {q₀ : List Instr} (x : Sample) (rd : PRead) (s : State) (hk : Kept q₀ s) :
    Kept q₀ (sampleReadDone x rd s) := by
  unfold sampleReadDone
  try dsimp only
  repeat' first
    | with_reducible assumption
    | simp only [Kept_mk, Kept_fold]
    | with_reducible apply pageReadDone_kept
    | with_reducible apply arrayRead_kept
    | with_reducible apply settleWork_kept
    | dsimp only
    | (with_reducible refine ite_kept ?_ ?_)
    | split

theorem setSample_kept {q₀ : List Instr} (die : Nat) (x : Sample) (s : State) (hk : Kept q₀ s) :
    Kept q₀ (setSample die x s) := by
  unfold setSample
  try dsimp only
  repeat' first
    | with_reducible assumption
    | simp only [Kept_mk, Kept_fold]
    | with_reducible apply updZph_kept
    | (intro x s hs)
    | dsimp only
    | (with_reducible refine ite_kept ?_ ?_)
    | split

theorem sampleFetched_kept {q₀ : List Instr} (die : Nat) (x : Sample) (s : State) (hk : Kept q₀ s) :
    Kept q₀ (sampleFetched die x s) := by
  unfold sampleFetched
  try dsimp only
  repeat' first
    | with_reducible assumption
    | simp only [Kept_mk, Kept_fold]
    | with_reducible apply sampleReadDone_kept
    | with_reducible apply sampleDone_kept
    | with_reducible apply updZph_kept
    | (intro x s hs)
    | dsimp only
    | (with_reducible refine ite_kept ?_ ?_)
    | split

theorem samplePassed_kept {q₀ : List Instr} (die : Nat) (x : Sample) (s : State) (hk : Kept q₀ s) :
    Kept q₀ (samplePassed die x s) := by
  unfold samplePassed
  try dsimp only
  repeat' first
    | with_reducible assumption
    | simp only [Kept_mk, Kept_fold]
    | with_reducible apply setSample_kept
    | with_reducible apply bump_kept
    | with_reducible apply sampleDone_kept
    | with_reducible apply updZph_kept
    | (intro x s hs)
    | dsimp only
    | (with_reducible refine ite_kept ?_ ?_)
    | split

theorem checkItem_kept {q₀ : List Instr} (bank : Nat) (x : Nat × DirE) (s : State) (hk : Kept q₀ s) :
    Kept q₀ (checkItem bank x s) := by
  unfold checkItem
  try dsimp only
  repeat' first
    | with_reducible assumption
    | simp only [Kept_mk, Kept_fold]
    | with_reducible apply repairEntry_kept
    | (intro x s hs)
    | dsimp only
    | (with_reducible refine ite_kept ?_ ?_)
    | split

end Sys2Proof.Machine
end

