-- ==== Sys2Proof/Laws/KeptQualify.lean ====
section
/-! SUPPORT. What the operations of Machine/Qualify keep: `Kept`, the queue of commands and the invariant of memory and error state. -/

namespace Sys2Proof.Machine

set_option linter.unusedTactic false
set_option linter.unreachableTactic false
set_option linter.unusedVariables false

theorem foldl_memOk {α : Type} (g : Mem → α → Mem) (l : List α) (hg : ∀ m a, MemOk m → MemOk (g m a)) : ∀ m, MemOk m → MemOk (l.foldl g m) := by
  induction l with
  | nil => intro m h; exact h
  | cons a t ih => intro m h; exact ih _ (hg _ _ h)

theorem writeQual_kept {q₀ : List Instr} (s : State) (hk : Kept q₀ s) : Kept q₀ (writeQual s) := by
  unfold writeQual
  extract_lets l
  clear_value l
  have h := foldl_memOk (fun (m : Mem) f => (wrPage m f 0 (fit (Config.qualPage 3) 69632)).1) l (fun _ _ h => wrPage_ok _ _ _ h) s.mem hk.mem
  exact ⟨hk.pending, h.1, h.2, hk.log, hk.queue⟩

end Sys2Proof.Machine
end

