-- ==== Sys2Proof/Laws/KeptErrors.lean ====
section
/-! SUPPORT. What the operations of Machine/Errors keep: `Kept`, the queue of commands and the invariant of memory and error state. -/

namespace Sys2Proof.Machine

set_option linter.unusedTactic false
set_option linter.unreachableTactic false
set_option linter.unusedVariables false

theorem lostByAudit_kept {q₀ : List Instr} (td seqn check rel : Nat) (s : State) (hk : Kept q₀ s) :
    Kept q₀ (lostByAudit td seqn check rel s) := by
  unfold lostByAudit
  try dsimp only
  repeat' first
    | with_reducible assumption
    | simp only [Kept_mk, Kept_fold]
    | with_reducible apply report_kept
    | with_reducible apply makeLost_kept
    | dsimp only

theorem auditSeq_kept {q₀ : List Instr} (td seqn rel : Nat) (s : State) (hk : Kept q₀ s) :
    Kept q₀ (auditSeq td seqn rel s) := by
  unfold auditSeq
  try dsimp only
  repeat' first
    | with_reducible assumption
    | simp only [Kept_mk, Kept_fold]
    | with_reducible apply lostByAudit_kept
    | (with_reducible refine foldl_kept _ _ (fun s a h => ?_) _ ?_)
    | (with_reducible refine foldl2_kept _ _ (fun s a h => ?_) _ ?_)
    | (intro x s hs)
    | dsimp only
    | (with_reducible refine ite_kept ?_ ?_)
    | split

theorem sweepChan_kept {q₀ : List Instr} (td c : Nat) (s : State) (hk : Kept q₀ s) :
    Kept q₀ (sweepChan td c s) := by
  unfold sweepChan
  try dsimp only
  repeat' first
    | with_reducible assumption
    | simp only [Kept_mk, Kept_fold]
    | with_reducible apply giveFrame_kept
    | with_reducible apply bump_kept
    | (with_reducible refine foldl_kept _ _ (fun s a h => ?_) _ ?_)
    | (with_reducible refine foldl2_kept _ _ (fun s a h => ?_) _ ?_)
    | (intro x s hs)
    | dsimp only
    | (with_reducible refine ite_kept ?_ ?_)
    | split

theorem sweepFlash_kept {q₀ : List Instr} (td : Nat) (s : State) (hk : Kept q₀ s) :
    Kept q₀ (sweepFlash td s) := by
  unfold sweepFlash
  try dsimp only
  repeat' first
    | with_reducible assumption
    | simp only [Kept_mk, Kept_fold]
    | with_reducible apply freeFlash_kept
    | with_reducible apply bump_kept
    | (with_reducible refine foldl_kept _ _ (fun s a h => ?_) _ ?_)
    | (with_reducible refine foldl2_kept _ _ (fun s a h => ?_) _ ?_)
    | (intro x s hs)
    | dsimp only

theorem runStep_kept {q₀ : List Instr} (rel : Nat) (h : HStep) (s : State) (hk : Kept q₀ s) :
    Kept q₀ (runStep rel h s) := by
  unfold runStep
  try dsimp only
  repeat' first
    | with_reducible assumption
    | simp only [Kept_mk, Kept_fold]
    | with_reducible apply sweepFlash_kept
    | with_reducible apply sweepChan_kept
    | with_reducible apply auditSeq_kept
    | with_reducible apply tableError_kept
    | (with_reducible refine foldl_kept _ _ (fun s a h => ?_) _ ?_)
    | (with_reducible refine foldl2_kept _ _ (fun s a h => ?_) _ ?_)
    | (intro x s hs)
    | dsimp only
    | split

theorem completeHdl_kept {q₀ : List Instr} (h : Hdl) (s : State) (hk : Kept q₀ s) : Kept q₀ (completeHdl h s) := by
  unfold completeHdl
  extract_lets sub q s1
  have hq : q.length ≤ 64 := le_trans (List.length_filter_le _ _) hk.queue
  have h1 : Kept q₀ s1 := ite_kept hk (bumpBy_kept _ _ _ hk)
  clear_value q s1
  split
  · next k _ => exact ⟨h1.pending, h1.dram, h1.chk, h1.log, le_trans (List.length_erase_le) hq⟩
  · exact ⟨h1.pending, h1.dram, h1.chk, h1.log, hq⟩

end Sys2Proof.Machine
end

