-- ==== Sys2Proof/Laws/KeptExtents.lean ====
section
/-! SUPPORT. What the operations of Machine/Extents keep: `Kept`, the queue of commands and the invariant of memory and error state. -/

namespace Sys2Proof.Machine

set_option linter.unusedTactic false
set_option linter.unreachableTactic false
set_option linter.unusedVariables false

theorem chanLeaves_kept {q₀ : List Instr} (td c : Nat) (s : State) (hk : Kept q₀ s) :
    Kept q₀ (chanLeaves td c s) := by
  unfold chanLeaves
  try dsimp only
  repeat' first
    | with_reducible assumption
    | simp only [Kept_mk, Kept_fold]
    | with_reducible apply updCh_kept
    | (intro x s hs)
    | dsimp only

theorem clusLeaves_kept {q₀ : List Instr} (c : Nat) (s : State) (hk : Kept q₀ s) :
    Kept q₀ (clusLeaves c s) := by
  unfold clusLeaves
  try dsimp only
  repeat' first
    | with_reducible assumption
    | simp only [Kept_mk, Kept_fold]
    | with_reducible apply updClus_kept
    | (intro x s hs)
    | dsimp only

theorem clusJoins_kept {q₀ : List Instr} (e td c : Nat) (s : State) (hk : Kept q₀ s) :
    Kept q₀ (clusJoins e td c s) := by
  unfold clusJoins
  try dsimp only
  repeat' first
    | with_reducible assumption
    | simp only [Kept_mk, Kept_fold]
    | with_reducible apply updClus_kept
    | (intro x s hs)
    | dsimp only

theorem bumpEpoch_kept {q₀ : List Instr} (s : State) (hk : Kept q₀ s) :
    Kept q₀ (bumpEpoch s) := by
  unfold bumpEpoch
  try dsimp only
  repeat' first
    | with_reducible assumption
    | simp only [Kept_mk, Kept_fold]
    | with_reducible apply bump_kept
    | (intro x s hs)
    | dsimp only

theorem changeDone_kept {q₀ : List Instr} (e cid : Nat) (s : State) (hk : Kept q₀ s) :
    Kept q₀ (changeDone e cid s) := by
  unfold changeDone
  try dsimp only
  repeat' first
    | with_reducible assumption
    | simp only [Kept_mk, Kept_fold]
    | with_reducible apply substitute_kept
    | with_reducible apply finishOk_kept
    | with_reducible apply bumpEpoch_kept
    | with_reducible apply updExt_kept
    | (with_reducible refine foldl_kept _ _ (fun s a h => ?_) _ ?_)
    | (with_reducible refine foldl2_kept _ _ (fun s a h => ?_) _ ?_)
    | (intro x s hs)
    | dsimp only

theorem abortRequest_kept {q₀ : List Instr} (r : Req) (s : State) (hk : Kept q₀ s) :
    Kept q₀ (abortRequest r s) := by
  unfold abortRequest
  try dsimp only
  repeat' first
    | with_reducible assumption
    | simp only [Kept_mk, Kept_fold]
    | with_reducible apply dropReq_kept
    | with_reducible apply settleWork_kept
    | with_reducible apply sendReply_kept
    | dsimp only
    | split

theorem abortPublications_kept {q₀ : List Instr} (td seqn : Nat) (s : State) (hk : Kept q₀ s) :
    Kept q₀ (abortPublications td seqn s) := by
  unfold abortPublications
  try dsimp only
  repeat' first
    | with_reducible assumption
    | simp only [Kept_mk, Kept_fold]
    | with_reducible apply publishUndo_kept
    | with_reducible apply finish_kept
    | (with_reducible refine foldl_kept _ _ (fun s a h => ?_) _ ?_)
    | (with_reducible refine foldl2_kept _ _ (fun s a h => ?_) _ ?_)
    | (intro x s hs)
    | dsimp only
    | split

theorem revokeSeq_kept {q₀ : List Instr} (d : SeqD) (s : State) (hk : Kept q₀ s) :
    Kept q₀ (revokeSeq d s) := by
  unfold revokeSeq
  extract_lets s1 s2 s3
  have h2 : Kept q₀ s2 := abortPublications_kept _ _ _ (releaseHeld_kept _ _ _ hk)
  clear_value s2
  have h3 : Kept q₀ s3 := ite_kept (sendAbort_kept _ _ h2) h2
  clear_value s3
  split
  · exact releaseSeq_kept _ _ h3
  · exact h3

theorem moveTables_kept {q₀ : List Instr} (td c : Nat) (s : State) (hk : Kept q₀ s) :
    Kept q₀ (moveTables td c s) := by
  unfold moveTables
  try dsimp only
  repeat' first
    | with_reducible assumption
    | simp only [Kept_mk, Kept_fold]
    | with_reducible apply wcSync_kept
    | with_reducible apply setSeq_kept
    | with_reducible apply takeFree_kept
    | (refine takeFree_keptE (by assumption) ?_)
    | (with_reducible refine foldl_kept _ _ (fun s a h => ?_) _ ?_)
    | (with_reducible refine foldl2_kept _ _ (fun s a h => ?_) _ ?_)
    | (intro x s hs)
    | dsimp only
    | split

end Sys2Proof.Machine
end

