-- ==== Sys2Proof/Laws/KeptMigrate.lean ====
section
/-! SUPPORT. What the operations of Machine/Migrate keep: `Kept`, the queue of commands and the invariant of memory and error state. -/

namespace Sys2Proof.Machine

set_option linter.unusedTactic false
set_option linter.unreachableTactic false
set_option linter.unusedVariables false

theorem updMig_kept {q₀ : List Instr} (td seqn : Nat) (f : Mig → Mig) (s : State) (hk : Kept q₀ s) :
    Kept q₀ (updMig td seqn f s) := by
  unfold updMig
  try dsimp only
  repeat' first
    | with_reducible assumption
    | simp only [Kept_mk, Kept_fold]
    | with_reducible apply updSeq_kept
    | (intro x s hs)
    | dsimp only

theorem emptySeq_kept {q₀ : List Instr} (td seqn : Nat) (s : State) (hk : Kept q₀ s) :
    Kept q₀ (emptySeq td seqn s) := by
  unfold emptySeq
  try dsimp only
  repeat' first
    | with_reducible assumption
    | simp only [Kept_mk, Kept_fold]
    | with_reducible apply voidSeq_kept
    | with_reducible apply wcSync_kept
    | with_reducible apply settleChgs_kept
    | with_reducible apply abortPublications_kept
    | with_reducible apply freeAllPages_kept
    | with_reducible apply endWake_kept
    | with_reducible apply abortExport_kept
    | with_reducible apply tcDrop_kept
    | with_reducible apply updSeq_kept
    | (intro x s hs)
    | dsimp only
    | split

theorem freeSameKey_kept {q₀ : List Instr} (td seqn : Nat) (s : State) (hk : Kept q₀ s) :
    Kept q₀ (freeSameKey td seqn s) := by
  unfold freeSameKey
  try dsimp only
  repeat' first
    | with_reducible assumption
    | simp only [Kept_mk, Kept_fold]
    | with_reducible apply closeDesc_kept
    | with_reducible apply emptySeq_kept
    | dsimp only
    | split

theorem migrateDone_kept {q₀ : List Instr} (d : SeqD) (status : Nat) (s : State) (hk : Kept q₀ s) :
    Kept q₀ (migrateDone d status s) := by
  unfold migrateDone
  try dsimp only
  repeat' first
    | with_reducible assumption
    | simp only [Kept_mk, Kept_fold]
    | with_reducible apply finishErr_kept
    | dsimp only
    | split

theorem backToOwn_kept {q₀ : List Instr} (d : SeqD) (status : Nat) (s : State) (hk : Kept q₀ s) :
    Kept q₀ (backToOwn d status s) := by
  unfold backToOwn
  try dsimp only
  repeat' first
    | with_reducible assumption
    | simp only [Kept_mk, Kept_fold]
    | with_reducible apply releaseHeld_kept
    | with_reducible apply updSeq_kept
    | with_reducible apply migrateDone_kept
    | (intro x s hs)
    | dsimp only

theorem pumpReads_kept {q₀ : List Instr} (td seqn : Nat) :
    ∀ n s, Kept q₀ s → Kept q₀ (pumpReads td seqn n s) := by
  intro n
  induction n with
  | zero => intro s hk; exact hk
  | succ n ih =>
    intro s hk
    unfold pumpReads
    try dsimp only
    repeat' first
        | with_reducible apply ih
        | with_reducible assumption
        | simp only [Kept_mk, Kept_fold]
        | with_reducible apply updQp_kept
        | with_reducible apply updMig_kept
        | with_reducible apply sendMsg_kept
        | (intro x s hs)
        | dsimp only
        | (with_reducible refine ite_kept ?_ ?_)
        | split

theorem adopt_kept {q₀ : List Instr} (d : SeqD) (m : Mig) (s : State) (hk : Kept q₀ s) :
    Kept q₀ (adopt d m s) := by
  unfold adopt
  try dsimp only
  repeat' first
    | with_reducible assumption
    | simp only [Kept_mk, Kept_fold]
    | with_reducible apply bump_kept
    | with_reducible apply updSeq_kept
    | with_reducible apply sendOwner_kept
    | (intro x s hs)
    | dsimp only

theorem readsDone_kept {q₀ : List Instr} (td seqn : Nat) (s : State) (hk : Kept q₀ s) :
    Kept q₀ (readsDone td seqn s) := by
  unfold readsDone
  try dsimp only
  repeat' first
    | with_reducible assumption
    | simp only [Kept_mk, Kept_fold]
    | with_reducible apply sendOwner_kept
    | with_reducible apply adopt_kept
    | dsimp only
    | (with_reducible refine ite_kept ?_ ?_)
    | split

theorem pump_kept {q₀ : List Instr} (td seqn : Nat) (s : State) (hk : Kept q₀ s) :
    Kept q₀ (pump td seqn s) := by
  unfold pump
  try dsimp only
  repeat' first
    | with_reducible assumption
    | simp only [Kept_mk, Kept_fold]
    | with_reducible apply pumpReads_kept
    | with_reducible apply readsDone_kept
    | dsimp only

theorem poisonedPage_kept {q₀ : List Instr} (td seqn pix : Nat) (s : State) (hk : Kept q₀ s) :
    Kept q₀ (poisonedPage td seqn pix s).2 := by
  unfold poisonedPage
  try dsimp only
  repeat' first
    | with_reducible assumption
    | simp only [Kept_mk, Kept_fold]
    | with_reducible apply updLeafAt_kept
    | with_reducible apply ensureFrame_kept
    | (refine ensureFrame_keptE (by assumption) ?_)
    | (intro x s hs)
    | dsimp only
    | split

theorem poisonedPage_keptE {q₀ : List Instr} {td seqn pix : Nat} {s : State} {x0 : Nat} {t' : State} (e' : poisonedPage td seqn pix s = (x0, t')) (hk : Kept q₀ s) : Kept q₀ t' := by
  have h := poisonedPage_kept td seqn pix s hk
  rw [e'] at h
  exact h

theorem toFlash_kept {q₀ : List Instr} (td seqn pix : Nat) (s : State) (hk : Kept q₀ s) : Kept q₀ (toFlash td seqn pix s) := by
  unfold toFlash
  split
  · exact hk
  · split
    · exact hk
    · exact demoteTo_kept _ _ _ _ hk

theorem writeImage_kept {q₀ : List Instr} (td seqn pix : Nat) (img : List Byte) (s : State) (hk : Kept q₀ s) :
    Kept q₀ (writeImage td seqn pix img s).2 := by
  unfold writeImage
  have h := ensureFrame_kept td seqn pix s hk
  split
  · next s1 e =>
    rw [e] at h
    split
    · exact kept_setMem h (wrPage_ok _ _ _ h.mem)
    · exact h
  · exact h

theorem writeImage_keptE {q₀ : List Instr} {td seqn pix : Nat} {img : List Byte} {s : State} {x0 : Nat} {t' : State} (e' : writeImage td seqn pix img s = (x0, t')) (hk : Kept q₀ s) : Kept q₀ t' := by
  have h := writeImage_kept td seqn pix img s hk
  rw [e'] at h
  exact h

theorem imageArrived_kept {q₀ : List Instr} (td seqn page : Nat) (img : List Byte) (nak : Option Nat) (s : State) (hk : Kept q₀ s) :
    Kept q₀ (imageArrived td seqn page img nak s) := by
  unfold imageArrived
  try dsimp only
  repeat' first
    | with_reducible assumption
    | simp only [Kept_mk, Kept_fold]
    | with_reducible apply updMig_kept
    | with_reducible apply writeImage_kept
    | with_reducible apply toFlash_kept
    | with_reducible apply pump_kept
    | with_reducible apply poisonedPage_kept
    | (refine writeImage_keptE (by assumption) ?_)
    | (refine poisonedPage_keptE (by assumption) ?_)
    | (intro x s hs)
    | dsimp only
    | (with_reducible refine ite_kept ?_ ?_)
    | split

theorem offerCheck_kept {q₀ : List Instr} (qpn : Nat) (q : Qp) (host : Nat) (m : OwnerM) (s : State) (hk : Kept q₀ s) :
    Kept q₀ (offerCheck qpn q host m s).2 := by
  unfold offerCheck
  try dsimp only
  repeat' first
    | with_reducible assumption
    | simp only [Kept_mk, Kept_fold]
    | with_reducible apply poisonedPage_kept
    | with_reducible apply takeFree_kept
    | with_reducible apply placeDesc_kept
    | with_reducible apply tableChan_kept
    | (refine poisonedPage_keptE (by assumption) ?_)
    | (refine takeFree_keptE (by assumption) ?_)
    | (refine tableChan_keptE (by assumption) ?_)
    | (with_reducible refine foldl_kept _ _ (fun s a h => ?_) _ ?_)
    | (with_reducible refine foldl2_kept _ _ (fun s a h => ?_) _ ?_)
    | (intro x s hs)
    | dsimp only
    | (with_reducible refine ite_kept ?_ ?_)
    | split

theorem offerCheck_keptE {q₀ : List Instr} {qpn : Nat} {q : Qp} {host : Nat} {m : OwnerM} {s : State} {x0 : Nat} {t' : State} (e' : offerCheck qpn q host m s = (x0, t')) (hk : Kept q₀ s) : Kept q₀ t' := by
  have h := offerCheck_kept qpn q host m s hk
  rw [e'] at h
  exact h

theorem ignoreOwner_kept {q₀ : List Instr} (s : State) (hk : Kept q₀ s) :
    Kept q₀ (ignoreOwner s) := by
  unfold ignoreOwner
  try dsimp only
  repeat' first
    | with_reducible assumption
    | simp only [Kept_mk, Kept_fold]
    | dsimp only

theorem refuseOwner_kept {q₀ : List Instr} (qpn : Nat) (q : Qp) (a : Sva) (mtype status : Nat) (s : State) (hk : Kept q₀ s) :
    Kept q₀ (refuseOwner qpn q a mtype status s) := by
  unfold refuseOwner
  try dsimp only
  repeat' first
    | with_reducible assumption
    | simp only [Kept_mk, Kept_fold]
    | with_reducible apply sendMsg_kept
    | with_reducible apply dropSeq_kept
    | dsimp only
    | (with_reducible refine ite_kept ?_ ?_)
    | split

theorem onOffer_kept {q₀ : List Instr} (qpn : Nat) (q : Qp) (host : Nat) (m : OwnerM) (s : State) (hk : Kept q₀ s) :
    Kept q₀ (onOffer qpn q host m s) := by
  unfold onOffer
  try dsimp only
  repeat' first
    | with_reducible assumption
    | simp only [Kept_mk, Kept_fold]
    | with_reducible apply offerCheck_kept
    | with_reducible apply refuseOwner_kept
    | with_reducible apply freeSameKey_kept
    | with_reducible apply pump_kept
    | with_reducible apply sendOwner_kept
    | (refine offerCheck_keptE (by assumption) ?_)
    | (intro x s hs)
    | dsimp only
    | (with_reducible refine ite_kept ?_ ?_)
    | split

theorem onHandoff_kept {q₀ : List Instr} (qpn : Nat) (q : Qp) (host : Nat) (m : OwnerM) (s : State) (hk : Kept q₀ s) :
    Kept q₀ (onHandoff qpn q host m s) := by
  unfold onHandoff
  try dsimp only
  repeat' first
    | with_reducible assumption
    | simp only [Kept_mk, Kept_fold]
    | with_reducible apply freePage_kept
    | with_reducible apply poisonedPage_kept
    | with_reducible apply sendOwner_kept
    | with_reducible apply updMig_kept
    | with_reducible apply pump_kept
    | with_reducible apply updSeq_kept
    | with_reducible apply refuseOwner_kept
    | (refine poisonedPage_keptE (by assumption) ?_)
    | (with_reducible refine foldl_kept _ _ (fun s a h => ?_) _ ?_)
    | (with_reducible refine foldl2_kept _ _ (fun s a h => ?_) _ ?_)
    | (intro x s hs)
    | dsimp only
    | (with_reducible refine ite_kept ?_ ?_)
    | split

theorem onAccept_kept {q₀ : List Instr} (d : SeqD) (m : OwnerM) (s : State) (hk : Kept q₀ s) :
    Kept q₀ (onAccept d m s) := by
  unfold onAccept
  try dsimp only
  repeat' first
    | with_reducible assumption
    | simp only [Kept_mk, Kept_fold]
    | with_reducible apply backToOwn_kept
    | with_reducible apply ignoreOwner_kept
    | dsimp only
    | (with_reducible refine ite_kept ?_ ?_)
    | split

theorem onCopied_kept {q₀ : List Instr} (d : SeqD) (s : State) (hk : Kept q₀ s) :
    Kept q₀ (onCopied d s) := by
  unfold onCopied
  try dsimp only
  repeat' first
    | with_reducible assumption
    | simp only [Kept_mk, Kept_fold]
    | with_reducible apply updMig_kept
    | with_reducible apply ignoreOwner_kept
    | with_reducible apply updSeq_kept
    | (intro x s hs)
    | dsimp only
    | (with_reducible refine ite_kept ?_ ?_)
    | split

theorem onTaken_kept {q₀ : List Instr} (d : SeqD) (s : State) (hk : Kept q₀ s) :
    Kept q₀ (onTaken d s) := by
  unfold onTaken
  try dsimp only
  repeat' first
    | with_reducible assumption
    | simp only [Kept_mk, Kept_fold]
    | with_reducible apply emptySeq_kept
    | with_reducible apply releaseHeld_kept
    | with_reducible apply updMig_kept
    | with_reducible apply bump_kept
    | with_reducible apply ignoreOwner_kept
    | with_reducible apply migrateDone_kept
    | with_reducible apply updSeq_kept
    | (intro x s hs)
    | dsimp only
    | (with_reducible refine ite_kept ?_ ?_)
    | split

theorem onAbort_kept {q₀ : List Instr} (d : SeqD) (s : State) (hk : Kept q₀ s) :
    Kept q₀ (onAbort d s) := by
  unfold onAbort
  try dsimp only
  repeat' first
    | with_reducible assumption
    | simp only [Kept_mk, Kept_fold]
    | with_reducible apply backToOwn_kept
    | with_reducible apply freeSameKey_kept
    | with_reducible apply ignoreOwner_kept
    | dsimp only
    | (with_reducible refine ite_kept ?_ ?_)
    | split

theorem sendClaim_kept {q₀ : List Instr} (qpn td seqn status peer : Nat) (shown : Bool) (s : State) (hk : Kept q₀ s) :
    Kept q₀ (sendClaim qpn td seqn status peer shown s) := by
  unfold sendClaim
  try dsimp only
  repeat' first
    | with_reducible assumption
    | simp only [Kept_mk, Kept_fold]
    | with_reducible apply updMig_kept
    | with_reducible apply sendMsg_kept
    | with_reducible apply dropSeq_kept
    | (intro x s hs)
    | dsimp only
    | (with_reducible refine ite_kept ?_ ?_)
    | split

theorem onResolve_kept {q₀ : List Instr} (qpn : Nat) (q : Qp) (host : Nat) (m : OwnerM) (s : State) (hk : Kept q₀ s) :
    Kept q₀ (onResolve qpn q host m s) := by
  unfold onResolve
  try dsimp only
  repeat' first
    | with_reducible assumption
    | simp only [Kept_mk, Kept_fold]
    | with_reducible apply sendClaim_kept
    | dsimp only
    | (with_reducible refine ite_kept ?_ ?_)
    | split

theorem recordFor_kept {q₀ : List Instr} (host : Nat) (a : Sva) (s : State) (hk : Kept q₀ s) :
    Kept q₀ (recordFor host a s) := by
  unfold recordFor
  try dsimp only
  repeat' first
    | with_reducible assumption
    | simp only [Kept_mk, Kept_fold]
    | with_reducible apply tableChan_kept
    | with_reducible apply placeDesc_kept
    | (refine tableChan_keptE (by assumption) ?_)
    | (intro x s hs)
    | dsimp only
    | (with_reducible refine ite_kept ?_ ?_)
    | split

theorem onResolveSet_kept {q₀ : List Instr} (qpn : Nat) (q : Qp) (host : Nat) (m : OwnerM) (s : State) (hk : Kept q₀ s) :
    Kept q₀ (onResolveSet qpn q host m s) := by
  unfold onResolveSet
  try dsimp only
  repeat' first
    | with_reducible assumption
    | simp only [Kept_mk, Kept_fold]
    | with_reducible apply backToOwn_kept
    | with_reducible apply emptySeq_kept
    | with_reducible apply releaseHeld_kept
    | with_reducible apply recordFor_kept
    | with_reducible apply bump_kept
    | with_reducible apply sendClaim_kept
    | with_reducible apply updSeq_kept
    | with_reducible apply migrateDone_kept
    | (intro x s hs)
    | dsimp only
    | (with_reducible refine ite_kept ?_ ?_)
    | split

theorem ownerMessage_kept {q₀ : List Instr} (qpn host : Nat) (bs : List Byte) (s : State) (hk : Kept q₀ s) :
    Kept q₀ (ownerMessage qpn host bs s) := by
  unfold ownerMessage
  try dsimp only
  repeat' first
    | with_reducible assumption
    | simp only [Kept_mk, Kept_fold]
    | with_reducible apply onOffer_kept
    | with_reducible apply onTaken_kept
    | with_reducible apply updMig_kept
    | with_reducible apply onHandoff_kept
    | with_reducible apply onResolveSet_kept
    | with_reducible apply onResolve_kept
    | with_reducible apply onAbort_kept
    | with_reducible apply ignoreOwner_kept
    | with_reducible apply onCopied_kept
    | with_reducible apply onAccept_kept
    | (intro x s hs)
    | dsimp only
    | (with_reducible refine ite_kept ?_ ?_)
    | split

theorem noteExport_kept {q₀ : List Instr} (td seqn : Nat) (bad : List Nat) (l : List (Nat × PRead)) (s : State) (hk : Kept q₀ s) :
    Kept q₀ (noteExport td seqn bad l s) := by
  unfold noteExport
  try dsimp only
  repeat' first
    | with_reducible assumption
    | simp only [Kept_mk, Kept_fold]
    | with_reducible apply flashPoison_kept
    | with_reducible apply pageReadDone_kept
    | with_reducible apply arrayRead_kept
    | with_reducible apply settleWork_kept
    | (with_reducible refine foldl_kept _ _ (fun s a h => ?_) _ ?_)
    | (with_reducible refine foldl2_kept _ _ (fun s a h => ?_) _ ?_)
    | (intro x s hs)
    | dsimp only
    | (with_reducible refine ite_kept ?_ ?_)
    | split

theorem failImport_kept {q₀ : List Instr} (id status : Nat) (s : State) (hk : Kept q₀ s) :
    Kept q₀ (failImport id status s) := by
  unfold failImport
  split
  · exact hk
  · split
    · exact finish_kept _ _ _ _ _ hk
    · split
      · exact updCmd_kept _ _ _ hk
      · exact finish_kept _ _ _ _ _ (releaseSeq_kept _ _ hk)

theorem importRead_kept {q₀ : List Instr} (id : Nat) (s : State) (hk : Kept q₀ s) :
    Kept q₀ (importRead id s) := by
  unfold importRead
  try dsimp only
  repeat' first
    | with_reducible assumption
    | simp only [Kept_mk, Kept_fold]
    | with_reducible apply dmaOut_kept
    | with_reducible apply updCmd_kept
    | with_reducible apply failImport_kept
    | with_reducible apply updQp_kept
    | with_reducible apply sendMsg_kept
    | (intro x s hs)
    | dsimp only
    | (with_reducible refine ite_kept ?_ ?_)
    | split

theorem importData_kept {q₀ : List Instr} (id : Nat) (bs : List Byte) (s : State) (hk : Kept q₀ s) :
    Kept q₀ (importData id bs s) := by
  unfold importData
  try dsimp only
  repeat' first
    | with_reducible assumption
    | simp only [Kept_mk, Kept_fold]
    | with_reducible apply importRead_kept
    | with_reducible apply updCmd_kept
    | (intro x s hs)
    | dsimp only
    | (with_reducible refine ite_kept ?_ ?_)
    | split

theorem importPage_kept {q₀ : List Instr} (td seqn pix cls : Nat) (body : List Byte) (s : State) (hk : Kept q₀ s) :
    Kept q₀ (importPage td seqn pix cls body s).2 := by
  unfold importPage
  try dsimp only
  repeat' first
    | with_reducible assumption
    | simp only [Kept_mk, Kept_fold]
    | with_reducible apply freePage_kept
    | with_reducible apply writeImage_kept
    | with_reducible apply touch_kept
    | with_reducible apply poisonedPage_kept
    | with_reducible apply updSeq_kept
    | (refine writeImage_keptE (by assumption) ?_)
    | (refine poisonedPage_keptE (by assumption) ?_)
    | (intro x s hs)
    | dsimp only
    | (with_reducible refine ite_kept ?_ ?_)
    | split

theorem importPage_keptE {q₀ : List Instr} {td seqn pix cls : Nat} {body : List Byte} {s : State} {x0 : Bool} {t' : State} (e' : importPage td seqn pix cls body s = (x0, t')) (hk : Kept q₀ s) : Kept q₀ t' := by
  have h := importPage_kept td seqn pix cls body s hk
  rw [e'] at h
  exact h

theorem importApply_kept {q₀ : List Instr} (c : Cmd) (bs : List Byte) (s : State) (hk : Kept q₀ s) :
    Kept q₀ (importApply c bs s) := by
  unfold importApply
  try dsimp only
  repeat' first
    | with_reducible assumption
    | simp only [Kept_mk, Kept_fold]
    | with_reducible apply finish_kept
    | with_reducible apply updCmd_kept
    | with_reducible apply importPage_kept
    | with_reducible apply importRead_kept
    | with_reducible apply failImport_kept
    | with_reducible apply updSeq_kept
    | (refine importPage_keptE (by assumption) ?_)
    | (intro x s hs)
    | dsimp only
    | (with_reducible refine ite_kept ?_ ?_)
    | split

end Sys2Proof.Machine
end

