-- ==== Sys2Proof/Laws/KeptTransport.lean ====
section
/-! SUPPORT. What the operations of Machine/Transport keep: `Kept`, the queue of commands and the invariant of memory and error state. -/

namespace Sys2Proof.Machine

set_option linter.unusedTactic false
set_option linter.unreachableTactic false
set_option linter.unusedVariables false

theorem checkFrame_kept {q₀ : List Instr} (p : Nat) (f : Frame) (s : State) (hk : Kept q₀ s) :
    Kept q₀ (checkFrame p f s).2 := by
  unfold checkFrame
  try dsimp only
  repeat' first
    | with_reducible assumption
    | simp only [Kept_mk, Kept_fold]
    | with_reducible apply bump_kept
    | dsimp only
    | (with_reducible refine ite_kept ?_ ?_)
    | split

theorem checkFrame_keptE {q₀ : List Instr} {p : Nat} {f : Frame} {s : State} {x0 : Bool} {t' : State} (e' : checkFrame p f s = (x0, t')) (hk : Kept q₀ s) : Kept q₀ t' := by
  have h := checkFrame_kept p f s hk
  rw [e'] at h
  exact h

theorem meter_kept {q₀ : List Instr} (h bytes : Nat) (s : State) (hk : Kept q₀ s) :
    Kept q₀ (meter h bytes s).2 := by
  unfold meter
  try dsimp only
  repeat' first
    | with_reducible assumption
    | simp only [Kept_mk, Kept_fold]
    | (intro x s hs)
    | dsimp only
    | (with_reducible refine ite_kept ?_ ?_)
    | split

theorem meter_keptE {q₀ : List Instr} {h bytes : Nat} {s : State} {x0 : Colour} {t' : State} (e' : meter h bytes s = (x0, t')) (hk : Kept q₀ s) : Kept q₀ t' := by
  have h := meter_kept h bytes s hk
  rw [e'] at h
  exact h

theorem police_kept {q₀ : List Instr} (p : Nat) (f : Frame) (s : State) (hk : Kept q₀ s) :
    Kept q₀ (police p f s).2 := by
  unfold police
  try dsimp only
  repeat' first
    | with_reducible assumption
    | simp only [Kept_mk, Kept_fold]
    | with_reducible apply meter_kept
    | with_reducible apply bump_kept
    | (refine meter_keptE (by assumption) ?_)
    | dsimp only
    | (with_reducible refine ite_kept ?_ ?_)
    | split

theorem police_keptE {q₀ : List Instr} {p : Nat} {f : Frame} {s : State} {x0 : Bool} {t' : State} (e' : police p f s = (x0, t')) (hk : Kept q₀ s) : Kept q₀ t' := by
  have h := police_kept p f s hk
  rw [e'] at h
  exact h

theorem nakFrame_kept {q₀ : List Instr} (q : Qp) (f : Frame) (code info : Nat) (s : State) (hk : Kept q₀ s) :
    Kept q₀ (nakFrame q f code info s) := by
  unfold nakFrame
  try dsimp only
  repeat' first
    | with_reducible assumption
    | simp only [Kept_mk, Kept_fold]
    | with_reducible apply rawTcheck_kept
    | with_reducible apply sendNak_kept
    | with_reducible apply bump_kept
    | dsimp only
    | (with_reducible refine ite_kept ?_ ?_)
    | split

theorem writeFrame_kept {q₀ : List Instr} (td seqn pix : Nat) (s : State) (hk : Kept q₀ s) :
    Kept q₀ (writeFrame td seqn pix s).2.2 := by
  unfold writeFrame
  split
  · exact hk
  · extract_lets blank
    clear_value blank
    split
    · next s1 e =>
      have h1 : Kept q₀ s1 := ensureFrame_keptE e hk
      split
      · exact ite_kept (kept_setMem h1 (wrPage_ok _ _ _ h1.mem)) h1
      · exact h1
    · next st s1 _ e => exact ensureFrame_keptE e hk

theorem writeFrame_keptE {q₀ : List Instr} {td seqn pix : Nat} {s : State} {x0 : Nat} {x1 : Option Nat} {t' : State} (e' : writeFrame td seqn pix s = (x0, x1, t')) (hk : Kept q₀ s) : Kept q₀ t' := by
  have h := writeFrame_kept td seqn pix s hk
  rw [e'] at h
  exact h

theorem storeWrite_kept {q₀ : List Instr} (q : Qp) (f : Frame) (fr : Nat) (s : State) (hk : Kept q₀ s) :
    Kept q₀ (storeWrite q f fr s) := by
  unfold storeWrite
  extract_lets a pix rd s1 w s2 lo s3 s4
  have h1 : Kept q₀ s1 := noteRead_kept _ _ (touch_kept _ _ _ _ hk)
  clear_value s1
  have h2 : Kept q₀ s2 := kept_setMem h1 (wrPage_ok _ _ _ h1.mem)
  clear_value s2
  have h4 : Kept q₀ s4 := updSeq_kept _ _ _ _ (dropWriteback_kept _ _ _ h2)
  clear_value s4
  split
  · exact h4
  · exact sendNak_kept _ _ _ _ _ (poisonPage_kept _ _ _ _ _ _ _ _ h4)

theorem applyWrite_kept {q₀ : List Instr} (q : Qp) (f : Frame) (s : State) (hk : Kept q₀ s) :
    Kept q₀ (applyWrite q f s).2 := by
  unfold applyWrite
  try dsimp only
  repeat' first
    | with_reducible assumption
    | simp only [Kept_mk, Kept_fold]
    | with_reducible apply writeFrame_kept
    | with_reducible apply sendNak_kept
    | with_reducible apply storeWrite_kept
    | (refine writeFrame_keptE (by assumption) ?_)
    | dsimp only
    | (with_reducible refine ite_kept ?_ ?_)
    | split

theorem applyWrite_keptE {q₀ : List Instr} {q : Qp} {f : Frame} {s : State} {x0 : Bool} {t' : State} (e' : applyWrite q f s = (x0, t')) (hk : Kept q₀ s) : Kept q₀ t' := by
  have h := applyWrite_kept q f s hk
  rw [e'] at h
  exact h

theorem markApplied_kept {q₀ : List Instr} (qpn psn : Nat) (s : State) (hk : Kept q₀ s) :
    Kept q₀ (markApplied qpn psn s) := by
  unfold markApplied
  try dsimp only
  repeat' first
    | with_reducible assumption
    | simp only [Kept_mk, Kept_fold]
    | with_reducible apply updQp_kept
    | (intro x s hs)
    | dsimp only

theorem dropAtt_kept {q₀ : List Instr} (qpn msn : Nat) (s : State) (hk : Kept q₀ s) :
    Kept q₀ (dropAtt qpn msn s) := by
  unfold dropAtt
  try dsimp only
  repeat' first
    | with_reducible assumption
    | simp only [Kept_mk, Kept_fold]
    | with_reducible apply updQp_kept
    | (intro x s hs)
    | dsimp only

theorem ownReadDone_kept {q₀ : List Instr} (r : OwnRead) (nak : Option Nat) (s : State) (hk : Kept q₀ s) :
    Kept q₀ (ownReadDone r nak s) := by
  unfold ownReadDone
  try dsimp only
  repeat' first
    | with_reducible assumption
    | simp only [Kept_mk, Kept_fold]
    | with_reducible apply imageArrived_kept
    | with_reducible apply failImport_kept
    | with_reducible apply importData_kept
    | (with_reducible refine foldl_kept _ _ (fun s a h => ?_) _ ?_)
    | (with_reducible refine foldl2_kept _ _ (fun s a h => ?_) _ ?_)
    | (intro x s hs)
    | dsimp only
    | (with_reducible refine ite_kept ?_ ?_)
    | split

theorem readRespApply_kept {q₀ : List Instr} (qpn : Nat) (f : Frame) (s : State) (hk : Kept q₀ s) :
    Kept q₀ (readRespApply qpn f s) := by
  unfold readRespApply
  try dsimp only
  repeat' first
    | with_reducible assumption
    | simp only [Kept_mk, Kept_fold]
    | with_reducible apply updQp_kept
    | with_reducible apply bump_kept
    | with_reducible apply ownReadDone_kept
    | (with_reducible refine foldl_kept _ _ (fun s a h => ?_) _ ?_)
    | (with_reducible refine foldl2_kept _ _ (fun s a h => ?_) _ ?_)
    | (intro x s hs)
    | dsimp only
    | (with_reducible refine ite_kept ?_ ?_)
    | split

theorem applyFrame_kept {q₀ : List Instr} (x : Rcvd) (q : Qp) (s : State) (hk : Kept q₀ s) :
    Kept q₀ (applyFrame x q s) := by
  unfold applyFrame
  try dsimp only
  repeat' first
    | with_reducible assumption
    | simp only [Kept_mk, Kept_fold]
    | with_reducible apply updQp_kept
    | with_reducible apply submit_kept
    | with_reducible apply ownerMessage_kept
    | with_reducible apply applyWrite_kept
    | with_reducible apply readRespApply_kept
    | with_reducible apply dropAtt_kept
    | with_reducible apply nakFrame_kept
    | (refine applyWrite_keptE (by assumption) ?_)
    | (intro x s hs)
    | dsimp only
    | (with_reducible refine ite_kept ?_ ?_)
    | split

theorem takeTurn_kept {q₀ : List Instr} (x : Rcvd) (q : Qp) (s : State) (hk : Kept q₀ s) :
    Kept q₀ (takeTurn x q s) := by
  unfold takeTurn
  try dsimp only
  repeat' first
    | with_reducible assumption
    | simp only [Kept_mk, Kept_fold]
    | with_reducible apply applyFrame_kept
    | with_reducible apply markApplied_kept
    | with_reducible apply applyWrite_kept
    | with_reducible apply settleWork_kept
    | (refine applyWrite_keptE (by assumption) ?_)
    | dsimp only
    | (with_reducible refine ite_kept ?_ ?_)
    | split

theorem applyHeld_kept {q₀ : List Instr} (x : Rcvd) (q : Qp) (s : State) (hk : Kept q₀ s) :
    Kept q₀ (applyHeld x q s) := by
  unfold applyHeld
  try dsimp only
  repeat' first
    | with_reducible assumption
    | simp only [Kept_mk, Kept_fold]
    | with_reducible apply sendAck_kept
    | with_reducible apply takeTurn_kept
    | dsimp only
    | (with_reducible refine ite_kept ?_ ?_)
    | split

theorem onNewFrame_kept {q₀ : List Instr} (q : Qp) (x : Rcvd) (s : State) (hk : Kept q₀ s) :
    Kept q₀ (onNewFrame q x s).2 := by
  unfold onNewFrame
  try dsimp only
  repeat' first
    | with_reducible assumption
    | simp only [Kept_mk, Kept_fold]
    | with_reducible apply updQp_kept
    | with_reducible apply sendNak_kept
    | with_reducible apply applyWrite_kept
    | with_reducible apply bump_kept
    | with_reducible apply nakFrame_kept
    | (refine applyWrite_keptE (by assumption) ?_)
    | dsimp only
    | (with_reducible refine ite_kept ?_ ?_)
    | split

theorem onNewFrame_keptE {q₀ : List Instr} {q : Qp} {x : Rcvd} {s : State} {x0 : Bool} {t' : State} (e' : onNewFrame q x s = (x0, t')) (hk : Kept q₀ s) : Kept q₀ t' := by
  have h := onNewFrame_kept q x s hk
  rw [e'] at h
  exact h

theorem receive_kept {q₀ : List Instr} (x : Rcvd) (s : State) (hk : Kept q₀ s) :
    Kept q₀ (receive x s) := by
  unfold receive
  try dsimp only
  repeat' first
    | with_reducible assumption
    | simp only [Kept_mk, Kept_fold]
    | with_reducible apply updQp_kept
    | with_reducible apply onNewFrame_kept
    | with_reducible apply markApplied_kept
    | with_reducible apply takeTurn_kept
    | with_reducible apply ackSoon_kept
    | with_reducible apply bump_kept
    | with_reducible apply sendAck_kept
    | (refine onNewFrame_keptE (by assumption) ?_)
    | (intro x s hs)
    | dsimp only
    | (with_reducible refine ite_kept ?_ ?_)
    | split

theorem retransmit_kept {q₀ : List Instr} (qpn psn : Nat) (s : State) (hk : Kept q₀ s) :
    Kept q₀ (retransmit qpn psn s) := by
  unfold retransmit
  try dsimp only
  repeat' first
    | with_reducible assumption
    | simp only [Kept_mk, Kept_fold]
    | with_reducible apply updQp_kept
    | with_reducible apply sendFrame_kept
    | with_reducible apply bump_kept
    | (intro x s hs)
    | dsimp only
    | (with_reducible refine ite_kept ?_ ?_)
    | split

theorem messageDone_kept {q₀ : List Instr} (m : TxMsg) (s : State) (hk : Kept q₀ s) :
    Kept q₀ (messageDone m s) := by
  unfold messageDone
  try dsimp only
  repeat' first
    | with_reducible assumption
    | simp only [Kept_mk, Kept_fold]
    | with_reducible apply replyLost_kept
    | with_reducible apply abortExport_kept
    | with_reducible apply updSeq_kept
    | (intro x s hs)
    | dsimp only
    | split

theorem ackRate_kept {q₀ : List Instr} (f : Frame) (newly : Nat) (s : State) (hk : Kept q₀ s) : Kept q₀ (ackRate f newly s) := by
  unfold ackRate
  split
  · exact hk
  · exact ite_kept (bump_kept _ _ (updQp_kept _ _ _ hk)) (updQp_kept _ _ _ hk)

theorem ackApply_kept {q₀ : List Instr} (f : Frame) (q : Qp) (s : State) (hk : Kept q₀ s) : Kept q₀ (ackApply f q s) := by
  unfold ackApply
  exact ackRate_kept _ _ _ (foldl_kept _ _ (fun s a h => messageDone_kept _ _ h) _ (foldl_kept _ _ (fun s a h => retransmit_kept _ _ _ h) _ (updQp_kept _ _ _ hk)))

theorem onAck_kept {q₀ : List Instr} (f : Frame) (s : State) (hk : Kept q₀ s) : Kept q₀ (onAck f s) := by
  unfold onAck
  split
  · exact hk
  · exact spillToSlots_kept _ _ (ackApply_kept _ _ _ hk)

theorem onNak_kept {q₀ : List Instr} (f : Frame) (s : State) (hk : Kept q₀ s) :
    Kept q₀ (onNak f s) := by
  unfold onNak
  try dsimp only
  repeat' first
    | with_reducible assumption
    | simp only [Kept_mk, Kept_fold]
    | with_reducible apply updQp_kept
    | with_reducible apply bump_kept
    | with_reducible apply ownReadDone_kept
    | (intro x s hs)
    | dsimp only
    | (with_reducible refine ite_kept ?_ ?_)
    | split

theorem sendNext_keptE {q₀ : List Instr} {qpn : Nat} {s : State} {t' : State} (e' : sendNext qpn s = some t') (hk : Kept q₀ s) :
    Kept q₀ t' := by
  unfold sendNext at e'
  try dsimp only at e'
  repeat' split at e'
  all_goals try simp only [Option.map_eq_some_iff] at e'
  all_goals try obtain ⟨_, _, rfl⟩ := e'
  all_goals try cases e'
  all_goals repeat' first
      | with_reducible assumption
      | simp only [Kept_mk, Kept_fold]
      | with_reducible apply updQp_kept
      | with_reducible apply sendFrame_kept
      | (intro x s hs)
      | dsimp only
      | (with_reducible refine ite_kept ?_ ?_)
      | split

theorem sendLoop_kept {q₀ : List Instr} (qpn : Nat) :
    ∀ n s, Kept q₀ s → Kept q₀ (sendLoop qpn n s) := by
  intro n
  induction n with
  | zero => intro s hk; exact hk
  | succ n ih =>
    intro s hk
    unfold sendLoop
    try dsimp only
    repeat' first
        | with_reducible apply ih
        | with_reducible assumption
        | simp only [Kept_mk, Kept_fold]
        | (refine sendNext_keptE (by assumption) ?_)
        | dsimp only
        | split

theorem startFetch_kept {q₀ : List Instr} (qpn : Nat) (s : State) (hk : Kept q₀ s) :
    Kept q₀ (startFetch qpn s).2 := by
  unfold startFetch
  try dsimp only
  repeat' first
    | with_reducible assumption
    | simp only [Kept_mk, Kept_fold]
    | with_reducible apply qpError_kept
    | with_reducible apply dmaOut_kept
    | (refine takeSlot_keptE (by assumption) ?_)
    | (intro x s hs)
    | dsimp only
    | (with_reducible refine ite_kept ?_ ?_)
    | split

theorem startFetch_keptE {q₀ : List Instr} {qpn : Nat} {s : State} {x0 : Bool} {t' : State} (e' : startFetch qpn s = (x0, t')) (hk : Kept q₀ s) : Kept q₀ t' := by
  have h := startFetch_kept qpn s hk
  rw [e'] at h
  exact h

theorem missFrame_kept {q₀ : List Instr} (r : Rcvd) (s : State) (hk : Kept q₀ s) :
    Kept q₀ (missFrame r s) := by
  unfold missFrame
  try dsimp only
  repeat' first
    | with_reducible assumption
    | simp only [Kept_mk, Kept_fold]
    | with_reducible apply startFetch_kept
    | with_reducible apply bump_kept
    | (refine startFetch_keptE (by assumption) ?_)
    | (intro x s hs)
    | dsimp only
    | (with_reducible refine ite_kept ?_ ?_)
    | split

theorem processFrame_kept {q₀ : List Instr} (x : Rcvd) (s : State) (hk : Kept q₀ s) :
    Kept q₀ (processFrame x s) := by
  unfold processFrame
  try dsimp only
  repeat' first
    | with_reducible assumption
    | simp only [Kept_mk, Kept_fold]
    | with_reducible apply receive_kept
    | with_reducible apply onAck_kept
    | with_reducible apply onNak_kept
    | dsimp only
    | split

theorem toQp_kept {q₀ : List Instr} (x : Rcvd) (s : State) (hk : Kept q₀ s) :
    Kept q₀ (toQp x s) := by
  unfold toQp
  try dsimp only
  repeat' first
    | with_reducible assumption
    | simp only [Kept_mk, Kept_fold]
    | with_reducible apply updQp_kept
    | with_reducible apply processFrame_kept
    | with_reducible apply sendNak_kept
    | with_reducible apply bump_kept
    | with_reducible apply missFrame_kept
    | (intro x s hs)
    | dsimp only
    | (with_reducible refine ite_kept ?_ ?_)
    | split

theorem frameIn_kept {q₀ : List Instr} (p : Nat) (f : Frame) (s : State) (hk : Kept q₀ s) :
    Kept q₀ (frameIn p f s) := by
  unfold frameIn
  try dsimp only
  repeat' first
    | with_reducible assumption
    | simp only [Kept_mk, Kept_fold]
    | with_reducible apply checkFrame_kept
    | with_reducible apply police_kept
    | with_reducible apply toQp_kept
    | (refine checkFrame_keptE (by assumption) ?_)
    | (refine police_keptE (by assumption) ?_)
    | dsimp only
    | (with_reducible refine ite_kept ?_ ?_)
    | split

theorem frameRow_kept {q₀ : List Instr} (ftype p : Nat) (f : Frame) (s : State) (hk : Kept q₀ s) :
    Kept q₀ (frameRow ftype p f s) := by
  unfold frameRow
  try dsimp only
  repeat' first
    | with_reducible assumption
    | simp only [Kept_mk, Kept_fold]
    | with_reducible apply frameIn_kept
    | dsimp only
    | (with_reducible refine ite_kept ?_ ?_)
    | split

theorem ownerRow_kept {q₀ : List Instr} (mtype p : Nat) (f : Frame) (s : State) (hk : Kept q₀ s) :
    Kept q₀ (ownerRow mtype p f s) := by
  unfold ownerRow
  try dsimp only
  repeat' first
    | with_reducible assumption
    | simp only [Kept_mk, Kept_fold]
    | with_reducible apply frameIn_kept
    | dsimp only
    | (with_reducible refine ite_kept ?_ ?_)
    | split

theorem popRead_kept {q₀ : List Instr} (qpn : Nat) (s : State) (hk : Kept q₀ s) :
    Kept q₀ (popRead qpn s) := by
  unfold popRead
  try dsimp only
  repeat' first
    | with_reducible assumption
    | simp only [Kept_mk, Kept_fold]
    | with_reducible apply updQp_kept
    | (intro x s hs)
    | dsimp only

theorem imageResponse_kept {q₀ : List Instr} (q : Qp) (r : RdReq) (d : SeqD) (pix : Nat) (uncorrectable : Bool) (s : State) (hk : Kept q₀ s) :
    Kept q₀ (imageResponse q r d pix uncorrectable s) := by
  unfold imageResponse
  try dsimp only
  repeat' first
    | with_reducible assumption
    | simp only [Kept_mk, Kept_fold]
    | with_reducible apply updMig_kept
    | with_reducible apply sendNak_kept
    | with_reducible apply sendMsg_kept
    | with_reducible apply noteExport_kept
    | with_reducible apply tcheckError_kept
    | (intro x s hs)
    | dsimp only
    | (with_reducible refine ite_kept ?_ ?_)
    | split

theorem readAnswer_kept {q₀ : List Instr} (q : Qp) (r : RdReq) (d : SeqD) (pix : Nat) (s : State) (hk : Kept q₀ s) :
    Kept q₀ (readAnswer q r d pix s) := by
  unfold readAnswer
  try dsimp only
  repeat' first
    | with_reducible assumption
    | simp only [Kept_mk, Kept_fold]
    | with_reducible apply pageReadDone_kept
    | with_reducible apply sendNak_kept
    | with_reducible apply sendMsg_kept
    | with_reducible apply settleWork_kept
    | with_reducible apply heatUp_kept
    | dsimp only
    | (with_reducible refine ite_kept ?_ ?_)
    | split

end Sys2Proof.Machine
end

