-- ==== Sys2Proof/Laws/KeptEgress.lean ====
section
/-! SUPPORT. What the operations of Machine/Egress keep: `Kept`, the queue of commands and the invariant of memory and error state. -/

namespace Sys2Proof.Machine

set_option linter.unusedTactic false
set_option linter.unreachableTactic false
set_option linter.unusedVariables false

theorem chargeCredit_kept {q₀ : List Instr} (pn c n : Nat) (s : State) (hk : Kept q₀ s) :
    Kept q₀ (chargeCredit pn c n s) := by
  unfold chargeCredit
  try dsimp only
  repeat' first
    | with_reducible assumption
    | simp only [Kept_mk, Kept_fold]
    | with_reducible apply updPort_kept
    | (intro x s hs)
    | dsimp only
    | (with_reducible refine ite_kept ?_ ?_)
    | split

theorem newRound_kept {q₀ : List Instr} (h : Nat) (s : State) (hk : Kept q₀ s) :
    Kept q₀ (newRound h s) := by
  unfold newRound
  try dsimp only
  repeat' first
    | with_reducible assumption
    | simp only [Kept_mk, Kept_fold]
    | dsimp only

theorem popQueue_keptE {q₀ : List Instr} {pn key : Nat} {s : State} {t' : TxFrame × State} (e' : popQueue pn key s = some t') (hk : Kept q₀ s) :
    Kept q₀ t'.2 := by
  unfold popQueue at e'
  try dsimp only at e'
  repeat' split at e'
  all_goals try simp only [Option.map_eq_some_iff] at e'
  all_goals try obtain ⟨_, _, rfl⟩ := e'
  all_goals try cases e'
  all_goals repeat' first
      | with_reducible assumption
      | simp only [Kept_mk, Kept_fold]
      | with_reducible apply updPort_kept
      | (intro x s hs)
      | dsimp only
      | split

theorem serveSub_kept {q₀ : List Instr} (pn h : Nat) (s : State) (hk : Kept q₀ s) :
    Kept q₀ (serveSub pn h s).2 ∧ ∀ x, (serveSub pn h s).1 = some x → Kept q₀ x.2 := by
  unfold serveSub
  extract_lets s1 s2 p cs
  have h1 : Kept q₀ s1 := newRound_kept _ _ hk
  clear_value s1
  have h2 : Kept q₀ s2 := ite_kept (updPort_kept _ _ _ h1) hk
  clear_value s2
  split
  · exact ⟨h2, by simp⟩
  · extract_lets cd sd s3
    have h3 : Kept q₀ s3 := updPort_kept _ _ _ h2
    clear_value s3
    exact ⟨h3, fun x e => popQueue_keptE e h3⟩

theorem serveSubs_kept {q₀ : List Instr} (pn : Nat) (l : List Nat) : ∀ (s : State), Kept q₀ s →
    Kept q₀ (serveSubs pn l s).2 ∧ ∀ x, (serveSubs pn l s).1 = some x → Kept q₀ x.2 := by
  induction l with
  | nil => intro s hk; exact ⟨hk, by simp [serveSubs]⟩
  | cons h t ih =>
    intro s hk
    have h1 := serveSub_kept pn h s hk
    unfold serveSubs
    split
    · next r s1 e =>
      rw [e] at h1
      exact ⟨h1.1, fun x hx => h1.2 x hx⟩
    · next s1 e =>
      rw [e] at h1
      exact ih _ h1.1

theorem serveTenant_keptE {q₀ : List Instr} {pn : Nat} {s : State} {t' : TxFrame × State} (e' : serveTenant pn s = some t') (hk : Kept q₀ s) :
    Kept q₀ t'.2 := by
  unfold serveTenant at e'
  try dsimp only at e'
  repeat' split at e'
  all_goals try simp only [Option.map_eq_some_iff] at e'
  all_goals try obtain ⟨_, _, rfl⟩ := e'
  all_goals try cases e'
  all_goals repeat' first
      | with_reducible assumption
      | simp only [Kept_mk, Kept_fold]
      | with_reducible apply updPort_kept
      | (refine popQueue_keptE (by assumption) ?_)
      | (intro x s hs)
      | dsimp only
      | (with_reducible refine ite_kept ?_ ?_)
      | split

theorem nextFlat_keptE {q₀ : List Instr} {pn : Nat} {s : State} {t' : TxFrame × State} (e' : nextFlat pn s = some t') (hk : Kept q₀ s) :
    Kept q₀ t'.2 := by
  unfold nextFlat at e'
  try dsimp only at e'
  repeat' split at e'
  all_goals try simp only [Option.map_eq_some_iff] at e'
  all_goals try obtain ⟨_, _, rfl⟩ := e'
  all_goals try cases e'
  all_goals repeat' first
      | with_reducible assumption
      | simp only [Kept_mk, Kept_fold]
      | (refine serveTenant_keptE (by assumption) ?_)
      | (refine popQueue_keptE (by assumption) ?_)
      | (intro x s hs)
      | dsimp only
      | split

theorem nextFrame_kept {q₀ : List Instr} (pn : Nat) (s : State) (hk : Kept q₀ s) :
    Kept q₀ (nextFrame pn s).2 ∧ ∀ x, (nextFrame pn s).1 = some x → Kept q₀ x.2 := by
  unfold nextFrame
  extract_lets p
  split
  · exact ⟨hk, fun x e => by cases e; exact setPort_kept _ _ _ hk⟩
  · exact ⟨hk, fun x e => by cases e; exact setPort_kept _ _ _ hk⟩
  · split
    · exact ⟨hk, fun x e => nextFlat_keptE e hk⟩
    · exact serveSubs_kept _ _ _ hk

theorem execEgressNextFrame_kept {q₀ : List Instr} (pn : Nat) (s : State) (hk : Kept q₀ s) :
    ∀ t, execEgressNextFrame pn s = .next t → Kept q₀ t := by
  unfold execEgressNextFrame
  intro t ht
  split at ht
  · cases ht; exact hk
  · extract_lets s1 at ht
    have h1 : Kept q₀ s1 := settleCredit_kept _ _ hk
    clear_value s1
    have h2 := nextFrame_kept pn s1 h1
    split at ht
    · next s2 e => rw [e] at h2; cases ht; exact h2.1
    · next f s2 s3 e =>
      rw [e] at h2
      extract_lets s4 at ht
      have h4 : Kept q₀ s4 := chargeCredit_kept _ _ _ _ (h2.2 _ rfl)
      clear_value s4
      split at ht
      · cases ht; exact h4
      · next fr s5 e5 => cases ht; exact bump_kept _ _ (emit_kept _ _ (wire_keptE e5 h4))

end Sys2Proof.Machine
end

