-- ==== Sys2Proof/Laws/KeptPorts.lean ====
section
/-! SUPPORT. What the operations of Machine/Ports keep: `Kept`, the queue of commands and the invariant of memory and error state. -/

namespace Sys2Proof.Machine

set_option linter.unusedTactic false
set_option linter.unreachableTactic false
set_option linter.unusedVariables false

theorem changeLanes_kept {q₀ : List Instr} (pn : Nat) (f : Port → Port) (s : State) (hk : Kept q₀ s) :
    Kept q₀ (changeLanes pn f s) := by
  unfold changeLanes
  try dsimp only
  repeat' first
    | with_reducible assumption
    | simp only [Kept_mk, Kept_fold]
    | with_reducible apply settleCredit_kept
    | with_reducible apply updPort_kept
    | (intro x s hs)
    | dsimp only

theorem lctl_kept {q₀ : List Instr} (pn cmd lane : Nat) (s : State) (hk : Kept q₀ s) :
    Kept q₀ (lctl pn cmd lane s) := by
  unfold lctl
  try dsimp only
  repeat' first
    | with_reducible assumption
    | simp only [Kept_mk, Kept_fold]
    | with_reducible apply emit_kept
    | dsimp only

theorem sendTrain_kept {q₀ : List Instr} (pn : Nat) (s : State) (hk : Kept q₀ s) :
    Kept q₀ (sendTrain pn s) := by
  unfold sendTrain
  try dsimp only
  repeat' first
    | with_reducible assumption
    | simp only [Kept_mk, Kept_fold]
    | with_reducible apply emit_kept
    | (with_reducible refine foldl_kept _ _ (fun s a h => ?_) _ ?_)
    | (with_reducible refine foldl2_kept _ _ (fun s a h => ?_) _ ?_)
    | (intro x s hs)
    | dsimp only

theorem laneFault_kept {q₀ : List Instr} (pn l : Nat) (s : State) (hk : Kept q₀ s) :
    Kept q₀ (laneFault pn l s) := by
  unfold laneFault
  try dsimp only
  repeat' first
    | with_reducible assumption
    | simp only [Kept_mk, Kept_fold]
    | with_reducible apply report_kept
    | dsimp only

theorem clearFgood_kept {q₀ : List Instr} (lane : Nat) (s : State) (hk : Kept q₀ s) :
    Kept q₀ (clearFgood lane s) := by
  unfold clearFgood
  try dsimp only
  repeat' first
    | with_reducible assumption
    | simp only [Kept_mk, Kept_fold]
    | with_reducible apply fenceCode_kept
    | (intro x s hs)
    | dsimp only
    | (with_reducible refine ite_kept ?_ ?_)
    | split

theorem fencePort_kept {q₀ : List Instr} (pn fault : Nat) (s : State) (hk : Kept q₀ s) :
    Kept q₀ (fencePort pn fault s) := by
  unfold fencePort
  try dsimp only
  repeat' first
    | with_reducible assumption
    | simp only [Kept_mk, Kept_fold]
    | with_reducible apply changeLanes_kept
    | with_reducible apply laneFault_kept
    | (intro x s hs)
    | dsimp only

theorem retrainPort_kept {q₀ : List Instr} (pn fault : Nat) (s : State) (hk : Kept q₀ s) :
    Kept q₀ (retrainPort pn fault s) := by
  unfold retrainPort
  try dsimp only
  repeat' first
    | with_reducible assumption
    | simp only [Kept_mk, Kept_fold]
    | with_reducible apply changeLanes_kept
    | with_reducible apply sendTrain_kept
    | (intro x s hs)
    | dsimp only

theorem enablePort_kept {q₀ : List Instr} (pn : Nat) (s : State) (hk : Kept q₀ s) :
    Kept q₀ (enablePort pn s) := by
  unfold enablePort
  try dsimp only
  repeat' first
    | with_reducible assumption
    | simp only [Kept_mk, Kept_fold]
    | with_reducible apply updPort_kept
    | with_reducible apply sendTrain_kept
    | (intro x s hs)
    | dsimp only
    | (with_reducible refine ite_kept ?_ ?_)
    | split

theorem drainPort_kept {q₀ : List Instr} (pn : Nat) : ∀ n s, Kept q₀ s → Kept q₀ (drainPort pn n s) := by
  intro n
  induction n with
  | zero => intro s hk; exact hk
  | succ n ih =>
    intro s hk
    unfold drainPort
    split
    · next s1 e => exact ih _ (execEgressNextFrame_kept pn s hk _ e)
    · exact hk

theorem disablePort_kept {q₀ : List Instr} (pn : Nat) (s : State) (hk : Kept q₀ s) :
    Kept q₀ (disablePort pn s) := by
  unfold disablePort
  try dsimp only
  repeat' first
    | with_reducible assumption
    | simp only [Kept_mk, Kept_fold]
    | with_reducible apply updPort_kept
    | with_reducible apply drainPort_kept
    | (intro x s hs)
    | dsimp only
    | (with_reducible refine ite_kept ?_ ?_)
    | split

theorem lanesTrained_kept {q₀ : List Instr} (pn : Nat) (lanes : List LaneSeen) (s : State) (hk : Kept q₀ s) :
    Kept q₀ (lanesTrained pn lanes s) := by
  unfold lanesTrained
  try dsimp only
  repeat' first
    | with_reducible assumption
    | simp only [Kept_mk, Kept_fold]
    | with_reducible apply updPort_kept
    | with_reducible apply laneFault_kept
    | with_reducible apply clearFgood_kept
    | (with_reducible refine foldl_kept _ _ (fun s a h => ?_) _ ?_)
    | (with_reducible refine foldl2_kept _ _ (fun s a h => ?_) _ ?_)
    | (intro x s hs)
    | dsimp only
    | (with_reducible refine ite_kept ?_ ?_)
    | split

theorem hear_kept {q₀ : List Instr} (pn : Nat) (b : IdBlock) (s : State) (hk : Kept q₀ s) :
    Kept q₀ (hear pn b s) := by
  unfold hear
  try dsimp only
  repeat' first
    | with_reducible assumption
    | simp only [Kept_mk, Kept_fold]
    | with_reducible apply updPort_kept
    | (intro x s hs)
    | dsimp only

theorem checkIdentity_kept {q₀ : List Instr} (pn : Nat) (b : IdBlock) (s : State) (hk : Kept q₀ s) :
    Kept q₀ (checkIdentity pn b s) := by
  unfold checkIdentity
  try dsimp only
  repeat' first
    | with_reducible assumption
    | simp only [Kept_mk, Kept_fold]
    | with_reducible apply changeLanes_kept
    | with_reducible apply hear_kept
    | with_reducible apply fencePort_kept
    | with_reducible apply sendTrain_kept
    | (intro x s hs)
    | dsimp only
    | (with_reducible refine ite_kept ?_ ?_)
    | split

theorem fenceLane_kept {q₀ : List Instr} (pn lane : Nat) (s : State) (hk : Kept q₀ s) :
    Kept q₀ (fenceLane pn lane s) := by
  unfold fenceLane
  try dsimp only
  repeat' first
    | with_reducible assumption
    | simp only [Kept_mk, Kept_fold]
    | with_reducible apply changeLanes_kept
    | with_reducible apply clearFgood_kept
    | (intro x s hs)
    | dsimp only

theorem countLane_kept {q₀ : List Instr} (pn : Nat) (cause : LaneCause) (s : State) (hk : Kept q₀ s) :
    Kept q₀ (countLane pn cause s) := by
  unfold countLane
  try dsimp only
  repeat' first
    | with_reducible assumption
    | simp only [Kept_mk, Kept_fold]
    | with_reducible apply bumpBy_kept
    | dsimp only
    | split

end Sys2Proof.Machine
end

