-- ==== Sys2Proof/Laws/KeptCmdWq.lean ====
section
/-! SUPPORT. What the operations of Machine/CmdWq keep: `Kept`, the queue of commands and the invariant of memory and error state. -/

namespace Sys2Proof.Machine

set_option linter.unusedTactic false
set_option linter.unreachableTactic false
set_option linter.unusedVariables false

theorem wqAnswer_kept {q₀ : List Instr} (ch q idx status tag rlen : Nat) (s : State) (hk : Kept q₀ s) :
    Kept q₀ (wqAnswer ch q idx status tag rlen s) := by
  unfold wqAnswer
  try dsimp only
  repeat' first
    | with_reducible assumption
    | simp only [Kept_mk, Kept_fold]
    | with_reducible apply updWq_kept
    | (intro x s hs)
    | dsimp only

theorem wqNext_kept {q₀ : List Instr} (ch q : Nat) (s : State) (hk : Kept q₀ s) :
    Kept q₀ (wqNext ch q s) := by
  unfold wqNext
  try dsimp only
  repeat' first
    | with_reducible assumption
    | simp only [Kept_mk, Kept_fold]
    | with_reducible apply updWq_kept
    | with_reducible apply dmaOut_kept
    | (intro x s hs)
    | dsimp only
    | (with_reducible refine ite_kept ?_ ?_)
    | split

theorem wqGoOn_kept {q₀ : List Instr} (ch q : Nat) (s : State) (hk : Kept q₀ s) :
    Kept q₀ (wqGoOn ch q s) := by
  unfold wqGoOn
  try dsimp only
  repeat' first
    | with_reducible assumption
    | simp only [Kept_mk, Kept_fold]
    | with_reducible apply wqNext_kept
    | with_reducible apply updWq_kept
    | (intro x s hs)
    | dsimp only

theorem wqFailed_kept {q₀ : List Instr} (ch q idx : Nat) (s : State) (hk : Kept q₀ s) :
    Kept q₀ (wqFailed ch q idx s) := by
  unfold wqFailed
  try dsimp only
  repeat' first
    | with_reducible assumption
    | simp only [Kept_mk, Kept_fold]
    | with_reducible apply wqAnswer_kept
    | with_reducible apply mbxEvent_kept
    | with_reducible apply wqGoOn_kept
    | dsimp only

theorem readDescriptor_kept {q₀ : List Instr} (ch : Nat) (u : DmaUse) (bs : List Byte) (s : State) (hk : Kept q₀ s) :
    Kept q₀ (readDescriptor ch u bs s) := by
  unfold readDescriptor
  try dsimp only
  repeat' first
    | with_reducible assumption
    | simp only [Kept_mk, Kept_fold]
    | with_reducible apply dmaOut_kept
    | dsimp only

theorem wqEntryRead_kept {q₀ : List Instr} (ch q idx : Nat) (bs : List Byte) (s : State) (hk : Kept q₀ s) :
    Kept q₀ (wqEntryRead ch q idx bs s) := by
  unfold wqEntryRead
  try dsimp only
  repeat' first
    | with_reducible assumption
    | simp only [Kept_mk, Kept_fold]
    | with_reducible apply readDescriptor_kept
    | with_reducible apply wqAnswer_kept
    | with_reducible apply wqGoOn_kept
    | dsimp only
    | (with_reducible refine ite_kept ?_ ?_)
    | split

theorem goneEntryRead_kept {q₀ : List Instr} (ch : Nat) (bs : List Byte) (s : State) (hk : Kept q₀ s) :
    Kept q₀ (goneEntryRead ch bs s) := by
  unfold goneEntryRead
  try dsimp only
  repeat' first
    | with_reducible assumption
    | simp only [Kept_mk, Kept_fold]
    | with_reducible apply readDescriptor_kept
    | dsimp only
    | (with_reducible refine ite_kept ?_ ?_)
    | split

theorem wqGone_kept {q₀ : List Instr} (ch q : Nat) (s : State) (hk : Kept q₀ s) :
    Kept q₀ (wqGone ch q s) := by
  unfold wqGone
  try dsimp only
  repeat' first
    | with_reducible assumption
    | simp only [Kept_mk, Kept_fold]
    | with_reducible apply finishOk_kept
    | with_reducible apply updChan_kept
    | (intro x s hs)
    | dsimp only
    | (with_reducible refine ite_kept ?_ ?_)
    | split

end Sys2Proof.Machine
end

