-- ==== Sys2Proof/Laws/KeptMailbox.lean ====
section
/-! SUPPORT. What the operations of Machine/Mailbox keep: `Kept`, the queue of commands and the invariant of memory and error state. -/

namespace Sys2Proof.Machine

set_option linter.unusedTactic false
set_option linter.unreachableTactic false
set_option linter.unusedVariables false

theorem takeMessage_kept {q₀ : List Instr} (c : Nat) (m : Msg) (msn src port : Nat) (s : State) (hk : Kept q₀ s) :
    Kept q₀ (takeMessage c m msn src port s) := by
  unfold takeMessage
  try dsimp only
  repeat' first
    | with_reducible assumption
    | simp only [Kept_mk, Kept_fold]
    | dsimp only
    | (with_reducible refine ite_kept ?_ ?_)
    | split

theorem mgmtRsp_kept {q₀ : List Instr} (dst msn : Nat) (bs : List Byte) (s : State) (hk : Kept q₀ s) :
    Kept q₀ (mgmtRsp dst msn bs s) := by
  unfold mgmtRsp
  try dsimp only
  repeat' first
    | with_reducible assumption
    | simp only [Kept_mk, Kept_fold]
    | with_reducible apply sendFrame_kept
    | dsimp only

theorem abortCmd_kept {q₀ : List Instr} (c : Cmd) (s : State) (hk : Kept q₀ s) :
    Kept q₀ (abortCmd c s) := by
  unfold abortCmd
  try dsimp only
  repeat' first
    | with_reducible assumption
    | simp only [Kept_mk, Kept_fold]
    | with_reducible apply backToOwn_kept
    | with_reducible apply abortPublications_kept
    | with_reducible apply sendAbort_kept
    | with_reducible apply abortExport_kept
    | with_reducible apply failImport_kept
    | with_reducible apply dropOps_kept
    | with_reducible apply settleWork_kept
    | with_reducible apply finishErr_kept
    | with_reducible apply updCmd_kept
    | (intro x s hs)
    | dsimp only
    | (with_reducible refine ite_kept ?_ ?_)
    | split

theorem takeAbort_kept {q₀ : List Instr} (ch : Nat) (s : State) (hk : Kept q₀ s) :
    Kept q₀ (takeAbort ch s) := by
  unfold takeAbort
  try dsimp only
  repeat' first
    | with_reducible assumption
    | simp only [Kept_mk, Kept_fold]
    | with_reducible apply setDb_kept
    | with_reducible apply abortCmd_kept
    | (intro x s hs)
    | dsimp only
    | (with_reducible refine ite_kept ?_ ?_)
    | split

theorem writeMask_kept {q₀ : List Instr} (ch : Nat) (v : W32) (s : State) (hk : Kept q₀ s) :
    Kept q₀ (writeMask ch v s) := by
  unfold writeMask
  try dsimp only
  repeat' first
    | with_reducible assumption
    | simp only [Kept_mk, Kept_fold]
    | with_reducible apply takeAbort_kept
    | with_reducible apply updChan_kept
    | with_reducible apply takeReset_kept
    | with_reducible apply takeRack_kept
    | (intro x s hs)
    | dsimp only

end Sys2Proof.Machine
end

