-- ==== Sys2Proof/Laws/KeptRegs.lean ====
section
/-! SUPPORT. What the operations of Machine/Regs keep: `Kept`, the queue of commands and the invariant of memory and error state. -/

namespace Sys2Proof.Machine

set_option linter.unusedTactic false
set_option linter.unreachableTactic false
set_option linter.unusedVariables false

theorem writeNodeid_kept {q₀ : List Instr} (v : W32) (s : State) (hk : Kept q₀ s) :
    Kept q₀ (writeNodeid v s) := by
  unfold writeNodeid
  try dsimp only
  repeat' first
    | with_reducible assumption
    | simp only [Kept_mk, Kept_fold]
    | with_reducible apply retrainPort_kept
    | (with_reducible refine foldl_kept _ _ (fun s a h => ?_) _ ?_)
    | (with_reducible refine foldl2_kept _ _ (fun s a h => ?_) _ ?_)
    | (intro x s hs)
    | dsimp only
    | (with_reducible refine ite_kept ?_ ?_)
    | split

theorem writeNbr_kept {q₀ : List Instr} (p : Nat) (v : W64) (s : State) (hk : Kept q₀ s) :
    Kept q₀ (writeNbr p v s) := by
  unfold writeNbr
  try dsimp only
  repeat' first
    | with_reducible assumption
    | simp only [Kept_mk, Kept_fold]
    | with_reducible apply updPort_kept
    | (intro x s hs)
    | dsimp only

theorem dropQueued_kept {q₀ : List Instr} (s : State) (hk : Kept q₀ s) : Kept q₀ (dropQueued s) := by
  unfold dropQueued
  exact foldl_kept (fun s p => updPort p _ s) _ (fun s a h => updPort_kept _ _ _ h) _ hk

theorem writeSchCtl_kept {q₀ : List Instr} (v : W32) (s : State) (hk : Kept q₀ s) :
    Kept q₀ (writeSchCtl v s) := by
  unfold writeSchCtl
  try dsimp only
  repeat' first
    | with_reducible assumption
    | simp only [Kept_mk, Kept_fold]
    | dsimp only

theorem writePol_kept {q₀ : List Instr} (h : Nat) (v : W64) (s : State) (hk : Kept q₀ s) :
    Kept q₀ (writePol h v s) := by
  unfold writePol
  try dsimp only
  repeat' first
    | with_reducible assumption
    | simp only [Kept_mk, Kept_fold]
    | with_reducible apply meter_kept
    | (refine meter_keptE (by assumption) ?_)
    | dsimp only

theorem writeBud_kept {q₀ : List Instr} (h : Nat) (v : W32) (s : State) (hk : Kept q₀ s) :
    Kept q₀ (writeBud h v s) := by
  unfold writeBud
  try dsimp only
  repeat' first
    | with_reducible assumption
    | simp only [Kept_mk, Kept_fold]
    | dsimp only

theorem writeEpoch_kept {q₀ : List Instr} (v : W32) (s : State) (hk : Kept q₀ s) :
    Kept q₀ (writeEpoch v s) := by
  unfold writeEpoch
  try dsimp only
  repeat' first
    | with_reducible assumption
    | simp only [Kept_mk, Kept_fold]
    | dsimp only

theorem writeSpare_kept {q₀ : List Instr} (cluster : Bool) (i : Nat) (v : W64) (s : State) (hk : Kept q₀ s) :
    Kept q₀ (writeSpare cluster i v s) := by
  unfold writeSpare
  try dsimp only
  repeat' first
    | with_reducible assumption
    | simp only [Kept_mk, Kept_fold]
    | dsimp only
    | (with_reducible refine ite_kept ?_ ?_)
    | split

theorem applySub_kept {q₀ : List Instr} (h : Nat) (s : State) (hk : Kept q₀ s) :
    Kept q₀ (applySub h s) := by
  unfold applySub
  try dsimp only
  repeat' first
    | with_reducible assumption
    | simp only [Kept_mk, Kept_fold]
    | with_reducible apply newRound_kept
    | dsimp only
    | (with_reducible refine ite_kept ?_ ?_)
    | split

theorem applyTdw_kept {q₀ : List Instr} (n : Nat) (s : State) (hk : Kept q₀ s) :
    Kept q₀ (applyTdw n s) := by
  unfold applyTdw
  try dsimp only
  repeat' first
    | with_reducible assumption
    | simp only [Kept_mk, Kept_fold]
    | dsimp only
    | (with_reducible refine ite_kept ?_ ?_)
    | split

theorem applyShift_kept {q₀ : List Instr} (s : State) (hk : Kept q₀ s) :
    Kept q₀ (applyShift s) := by
  unfold applyShift
  try dsimp only
  repeat' first
    | with_reducible assumption
    | simp only [Kept_mk, Kept_fold]
    | dsimp only

theorem writeLul_kept {q₀ : List Instr} (v : W32) (s : State) (hk : Kept q₀ s) :
    Kept q₀ (writeLul v s) := by
  unfold writeLul
  try dsimp only
  repeat' first
    | with_reducible assumption
    | simp only [Kept_mk, Kept_fold]
    | with_reducible apply lullOff_kept
    | with_reducible apply applyShift_kept
    | dsimp only
    | (with_reducible refine ite_kept ?_ ?_)
    | split

theorem writePctl_kept {q₀ : List Instr} (p : Nat) (v : W32) (s : State) (hk : Kept q₀ s) :
    Kept q₀ (writePctl p v s) := by
  unfold writePctl
  try dsimp only
  repeat' first
    | with_reducible assumption
    | simp only [Kept_mk, Kept_fold]
    | with_reducible apply updPort_kept
    | with_reducible apply disablePort_kept
    | with_reducible apply enablePort_kept
    | (intro x s hs)
    | dsimp only
    | (with_reducible refine ite_kept ?_ ?_)
    | split

theorem ackEvt_kept {q₀ : List Instr} (c : Nat) (v : W32) (s : State) (hk : Kept q₀ s) :
    Kept q₀ (ackEvt c v s) := by
  unfold ackEvt
  try dsimp only
  repeat' first
    | with_reducible assumption
    | simp only [Kept_mk, Kept_fold]
    | with_reducible apply updChan_kept
    | (intro x s hs)
    | dsimp only
    | (with_reducible refine ite_kept ?_ ?_)
    | split

theorem ackReg_kept {q₀ : List Instr} (view : View) (off : Nat) (v : W32) (s : State) (hk : Kept q₀ s) :
    Kept q₀ (ackReg view off v s) := by
  unfold ackReg
  try dsimp only
  repeat' first
    | with_reducible assumption
    | simp only [Kept_mk, Kept_fold]
    | with_reducible apply updPort_kept
    | with_reducible apply updDom_kept
    | with_reducible apply ackEvt_kept
    | (intro x s hs)
    | dsimp only
    | (with_reducible refine ite_kept ?_ ?_)
    | split

theorem snapGo_kept {q₀ : List Instr} (n : Nat) (s : State) (hk : Kept q₀ s) :
    Kept q₀ (snapGo n s) := by
  unfold snapGo
  try dsimp only
  repeat' first
    | with_reducible assumption
    | simp only [Kept_mk, Kept_fold]
    | dsimp only
    | (with_reducible refine ite_kept ?_ ?_)
    | split

theorem latchNow_kept {q₀ : List Instr} (r : ViewRead) (s : State) (hk : Kept q₀ s) :
    Kept q₀ (latchNow r s) := by
  unfold latchNow
  try dsimp only
  repeat' first
    | with_reducible assumption
    | simp only [Kept_mk, Kept_fold]
    | dsimp only
    | (with_reducible refine ite_kept ?_ ?_)
    | split

theorem ringDb_kept {q₀ : List Instr} (c : Nat) (v : W32) (s : State) (hk : Kept q₀ s) :
    Kept q₀ (ringDb c v s) := by
  unfold ringDb
  try dsimp only
  repeat' first
    | with_reducible assumption
    | simp only [Kept_mk, Kept_fold]
    | with_reducible apply takeAbort_kept
    | with_reducible apply updChan_kept
    | with_reducible apply takeReset_kept
    | with_reducible apply takeRack_kept
    | (intro x s hs)
    | dsimp only

theorem writeReqBuf_kept {q₀ : List Instr} (c off : Nat) (bs : List Byte) (s : State) (hk : Kept q₀ s) :
    Kept q₀ (writeReqBuf c off bs s) := by
  unfold writeReqBuf
  try dsimp only
  repeat' first
    | with_reducible assumption
    | simp only [Kept_mk, Kept_fold]
    | with_reducible apply mbxEvent_kept
    | with_reducible apply updChan_kept
    | (with_reducible refine foldl_kept _ _ (fun s a h => ?_) _ ?_)
    | (with_reducible refine foldl2_kept _ _ (fun s a h => ?_) _ ?_)
    | (intro x s hs)
    | dsimp only
    | (with_reducible refine ite_kept ?_ ?_)
    | split

theorem writeWindow_kept {q₀ : List Instr} (c off : Nat) (v : W32) (s : State) (hk : Kept q₀ s) :
    Kept q₀ (writeWindow c off v s) := by
  unfold writeWindow
  try dsimp only
  repeat' first
    | with_reducible assumption
    | simp only [Kept_mk, Kept_fold]
    | with_reducible apply ringDb_kept
    | with_reducible apply writeReqBuf_kept
    | with_reducible apply ackEvt_kept
    | with_reducible apply updChan_kept
    | with_reducible apply writeMask_kept
    | (intro x s hs)
    | dsimp only
    | (with_reducible refine ite_kept ?_ ?_)
    | split

theorem writeWq_kept {q₀ : List Instr} (c q : Nat) (v : W64) (s : State) (hk : Kept q₀ s) :
    Kept q₀ (writeWq c q v s) := by
  unfold writeWq
  try dsimp only
  repeat' first
    | with_reducible assumption
    | simp only [Kept_mk, Kept_fold]
    | with_reducible apply updWq_kept
    | with_reducible apply updChan_kept
    | (intro x s hs)
    | dsimp only
    | (with_reducible refine ite_kept ?_ ?_)
    | split

theorem writeWide_kept {q₀ : List Instr} (view : View) (off : Nat) (v : W64) (s : State) (hk : Kept q₀ s) :
    Kept q₀ (writeWide view off v s) := by
  unfold writeWide
  try dsimp only
  repeat' first
    | with_reducible assumption
    | simp only [Kept_mk, Kept_fold]
    | with_reducible apply writeWq_kept
    | with_reducible apply writeSpare_kept
    | with_reducible apply writePol_kept
    | with_reducible apply writeNbr_kept
    | dsimp only
    | (with_reducible refine ite_kept ?_ ?_)
    | split

theorem writeFab4_kept {q₀ : List Instr} (off : Nat) (v : W32) (s : State) (hk : Kept q₀ s) : Kept q₀ (writeFab4 off v s) := by
  unfold writeFab4
  split
  · exact writeNodeid_kept _ _ hk
  split
  · exact writePctl_kept _ _ _ hk
  split
  · simpa only [Kept_mk, Kept_fold] using hk
  split
  · exact writeSchCtl_kept _ _ (ite_kept hk (dropQueued_kept _ hk))
  split
  · refine applyTdw_kept _ _ ?_
    simpa only [Kept_mk, Kept_fold] using hk
  split
  · dsimp only
    refine ite_kept hk ?_
    have := settleCredit_kept ((off - 0x20200) / 4 / 4) _ hk
    simpa only [Kept_mk, Kept_fold] using this
  split
  · simpa only [Kept_mk, Kept_fold] using hk
  split
  · refine applySub_kept _ _ ?_
    simpa only [Kept_mk, Kept_fold] using hk
  split
  · exact writeBud_kept _ _ _ hk
  · exact hk

theorem writeIctl_kept {q₀ : List Instr} (v : W32) (s : State) (hk : Kept q₀ s) :
    Kept q₀ (writeIctl v s) := by
  unfold writeIctl
  try dsimp only
  repeat' first
    | with_reducible assumption
    | simp only [Kept_mk, Kept_fold]
    | with_reducible apply autoCleared_kept
    | (refine keptP_mem (by assumption) ?_)
    | with_reducible apply zeroFrame_ok
    | with_reducible apply loadFrame_ok
    | with_reducible apply wrPage_ok
    | with_reducible apply wrEach_ok
    | (with_reducible apply Kept.mem)
    | dsimp only
    | (with_reducible refine ite_kept ?_ ?_)
    | split

theorem writePf4_kept {q₀ : List Instr} (off : Nat) (v : W32) (s : State) (hk : Kept q₀ s) :
    Kept q₀ (writePf4 off v s) := by
  unfold writePf4
  try dsimp only
  repeat' first
    | with_reducible assumption
    | simp only [Kept_mk, Kept_fold]
    | with_reducible apply snapGo_kept
    | with_reducible apply writeLul_kept
    | with_reducible apply writeIctl_kept
    | with_reducible apply writeFab4_kept
    | with_reducible apply writeEpoch_kept
    | with_reducible apply ackReg_kept
    | (refine keptP_mem (by assumption) ?_)
    | with_reducible apply zeroFrame_ok
    | with_reducible apply loadFrame_ok
    | with_reducible apply wrPage_ok
    | with_reducible apply wrEach_ok
    | (with_reducible apply Kept.mem)
    | dsimp only
    | (with_reducible refine ite_kept ?_ ?_)
    | split

theorem write4_kept {q₀ : List Instr} (view : View) (off : Nat) (v : W32) (s : State) (hk : Kept q₀ s) :
    Kept q₀ (write4 view off v s) := by
  unfold write4
  try dsimp only
  repeat' first
    | with_reducible assumption
    | simp only [Kept_mk, Kept_fold]
    | with_reducible apply snapGo_kept
    | with_reducible apply writeWindow_kept
    | with_reducible apply writePf4_kept
    | with_reducible apply writeWide_kept
    | with_reducible apply ackReg_kept
    | dsimp only
    | (with_reducible refine ite_kept ?_ ?_)
    | split

theorem regWrite_kept {q₀ : List Instr} (view : View) (off size : Nat) (v : W64) (s : State) (hk : Kept q₀ s) :
    Kept q₀ (regWrite view off size v s) := by
  unfold regWrite
  try dsimp only
  repeat' first
    | with_reducible assumption
    | simp only [Kept_mk, Kept_fold]
    | with_reducible apply writeReqBuf_kept
    | with_reducible apply write4_kept
    | with_reducible apply writeWide_kept
    | dsimp only
    | (with_reducible refine ite_kept ?_ ?_)
    | split

end Sys2Proof.Machine
end

