-- ==== Sys2Proof/Laws/KeptSideband.lean ====
section
/-! SUPPORT. What the operations of Machine/Sideband keep: `Kept`, the queue of commands and the invariant of memory and error state. -/

namespace Sys2Proof.Machine

set_option linter.unusedTactic false
set_option linter.unreachableTactic false
set_option linter.unusedVariables false

theorem sbReject_kept {q₀ : List Instr} (s : State) (hk : Kept q₀ s) :
    Kept q₀ (sbReject s) := by
  unfold sbReject
  try dsimp only
  repeat' first
    | with_reducible assumption
    | simp only [Kept_mk, Kept_fold]
    | with_reducible apply emit_kept
    | dsimp only
    | (with_reducible refine ite_kept ?_ ?_)
    | split

theorem sbWords_kept {q₀ : List Instr} (n : Nat) : ∀ (off : Nat) (bs : List Byte) (s : State), Kept q₀ s → Kept q₀ (sbWords off bs n s) := by
  induction n with
  | zero => intro off bs s hk; exact hk
  | succ n ih =>
    intro off bs s hk
    exact ih _ _ _ (ite_kept hk (writeWindow_kept _ _ _ _ hk))

theorem ccc_kept {q₀ : List Instr} (f : State → State) (s : State) (ff : ∀  s, Kept q₀ s → Kept q₀ (f  s)) (hk : Kept q₀ s) :
    Kept q₀ (ccc f s) := by
  unfold ccc
  try dsimp only
  repeat' first
    | with_reducible assumption
    | simp only [Kept_mk, Kept_fold]
     | (apply ff)
    | dsimp only
    | (with_reducible refine ite_kept ?_ ?_)
    | split

theorem cccGet_kept {q₀ : List Instr} (v n : Nat) (s : State) (hk : Kept q₀ s) :
    Kept q₀ (cccGet v n s) := by
  unfold cccGet
  try dsimp only
  repeat' first
    | with_reducible assumption
    | simp only [Kept_mk, Kept_fold]
    | with_reducible apply emit_kept
    | dsimp only

theorem dropAlert_kept {q₀ : List Instr} (s : State) (hk : Kept q₀ s) :
    Kept q₀ (dropAlert s) := by
  unfold dropAlert
  try dsimp only
  repeat' first
    | with_reducible assumption
    | simp only [Kept_mk, Kept_fold]
    | dsimp only

theorem tapLoad_kept {q₀ : List Instr} (n data : Nat) (s : State) (hk : Kept q₀ s) :
    Kept q₀ (tapLoad n data s) := by
  unfold tapLoad
  try dsimp only
  repeat' first
    | with_reducible assumption
    | simp only [Kept_mk, Kept_fold]
    | with_reducible apply emit_kept
    | dsimp only
    | (with_reducible refine ite_kept ?_ ?_)
    | split

theorem tapSample_kept {q₀ : List Instr} (n : Nat) (s : State) (hk : Kept q₀ s) :
    Kept q₀ (tapSample n s) := by
  unfold tapSample
  try dsimp only
  repeat' first
    | with_reducible assumption
    | simp only [Kept_mk, Kept_fold]
    | with_reducible apply tapLoad_kept
    | with_reducible apply takeFree_kept
    | (refine takeFree_keptE (by assumption) ?_)
    | dsimp only
    | (with_reducible refine ite_kept ?_ ?_)
    | split

theorem tapSecond_kept {q₀ : List Instr} (load : State → State) (s : State) (fload : ∀  s, Kept q₀ s → Kept q₀ (load  s)) (hk : Kept q₀ s) :
    Kept q₀ (tapSecond load s) := by
  unfold tapSecond
  try dsimp only
  repeat' first
    | with_reducible assumption
    | simp only [Kept_mk, Kept_fold]
    | with_reducible apply emit_kept
    | (apply fload)
    | dsimp only
    | (with_reducible refine ite_kept ?_ ?_)
    | split

end Sys2Proof.Machine
end

