-- ==== Sys2Proof/Laws/KeptTime.lean ====
section
/-! SUPPORT. What the operations of Machine/Time keep: `Kept`, the queue of commands and the invariant of memory and error state. -/

namespace Sys2Proof.Machine

set_option linter.unusedTactic false
set_option linter.unreachableTactic false
set_option linter.unusedVariables false

theorem serveExtents_kept {q₀ : List Instr} (s : State) (hk : Kept q₀ s) :
    Kept q₀ (serveExtents s) := by
  unfold serveExtents
  try dsimp only
  repeat' first
    | with_reducible assumption
    | simp only [Kept_mk, Kept_fold]
    | with_reducible apply bump_kept
    | (with_reducible refine foldl_kept _ _ (fun s a h => ?_) _ ?_)
    | (with_reducible refine foldl2_kept _ _ (fun s a h => ?_) _ ?_)
    | (intro x s hs)
    | dsimp only
    | (with_reducible refine ite_kept ?_ ?_)
    | split

theorem idle_kept {q₀ : List Instr} (s : State) (hk : Kept q₀ s) :
    Kept q₀ (idle s) := by
  unfold idle
  try dsimp only
  repeat' first
    | with_reducible assumption
    | simp only [Kept_mk, Kept_fold]
    | with_reducible apply tick_kept
    | with_reducible apply serveExtents_kept
    | dsimp only

end Sys2Proof.Machine
end

