-- ==== Sys2Proof/WellFormed.lean ====
section
/-! DEFINITION. Which terms of `Instr` a sender can form: every number names a thing that exists (R9, R33, R392, R539, R599)
and every field fits its width. A command that is not well formed has no counterpart at the part's pins; exec is total on it
all the same. -/

namespace Sys2Proof

/-- Header fields of a frame at their widths (R392), payload of at most 4,096 B and a tag. -/
def Frame.wf (f : Frame) : Bool :=
  decide (f.uver < 16 ∧ f.ftype < 16 ∧ f.td < 64 ∧ f.src < 2 ^ 24 ∧ f.dst < 2 ^ 24 ∧ f.qpn < 2 ^ 24 ∧ f.psn < 2 ^ 24 ∧
    f.rsv1 < 8 ∧ f.plen < 2 ^ 13 ∧ f.tstamp < 2 ^ 32 ∧ f.msn < 2 ^ 24 ∧ f.gust < 16 ∧ f.rsv2 < 4 ∧ f.fcnt < 2 ^ 64 ∧
    f.addr < 2 ^ 64 ∧ f.rkey < 2 ^ 32 ∧ f.alen < 2 ^ 32)

def View.wf : View → Bool
  | .vf n => decide (n < 64)
  | _ => true

def Instr.chan? : Instr → Option Nat
  | .req c | .messageTaken c | .rack c | .responseWritten c | .mbxAbort c | .mbxChannelReset c | .mbxMaskWrite c _
  | .wqTake c _ | .wqCompletion c _ _ _ => some c
  | .flpRead c | .errRead c | .crashRead c | .tdConfig c | .tdTable c | .tdAdmkey c | .tdSeal c | .tdUnseal c
  | .seqCreate c | .seqRelease c | .seqCommit c | .seqTruncate c | .seqFence c | .seqStage c | .seqQuery c
  | .fill (.raw c) | .copy (.raw c) | .scale c | .add c | .mul c | .rmsSumsq c | .rmsApply c | .score c
  | .pfxLookup c | .seqPublish c | .publishPageComplete c | .seqAttach c | .pfxUnpublish c
  | .qpCreate c | .qpDestroy c | .qpTable c | .wqCreate c | .wqDestroy c
  | .extSet c | .extGet c | .extRevoke c | .seqMigrate c | .seqExport ⟨c, _⟩ | .seqImport c | .importRecord c _
  | .sesReport c | .sesPeer c | .sesRead c | .sesWrite c | .sesCerts c | .sesOpen c | .sesClose c | .secMgmtkey c
  | .secZeroise c => some c
  | _ => none

def Instr.port? : Instr → Option Nat
  | .attend p _ | .write p _ | .readReq p _ | .readResp p _ | .ack p _ | .nak p _ | .offer p _ | .accept p _ | .copied p _
  | .handoff p _ | .taken p _ | .abort p _ | .resolve p _ | .resolveSet p _ | .mgmtCmd p _ | .undefinedFrameType p _
  | .unknownControlBlock p _ | .egressNextFrame p | .egressQueueRoom p | .portEnable p | .portDisable p
  | .portTrainingComplete p _ _ | .laneRetry p _ _ | .laneDegrade p _ _ | .liveRetrainingComplete p _ | .identitySend p
  | .lctlIdentity p _ | .lctlLaneOut p _ | .lctlLaneIn p _ | .lctlLaneInAck p _ | .fabNbrWrite p _ => some p
  | _ => none

def Instr.frame? : Instr → Option Frame
  | .attend _ f | .write _ f | .readReq _ f | .readResp _ f | .ack _ f | .nak _ f | .offer _ f | .accept _ f | .copied _ f
  | .handoff _ f | .taken _ f | .abort _ f | .resolve _ f | .resolveSet _ f | .mgmtCmd _ f | .undefinedFrameType _ f => some f
  | _ => none

def Instr.td? : Instr → Option Nat
  | .groupBackgroundFree td _ | .evacuationMove td _ _ | .exportComplete td _ | .oldSessionKeyExpiry td _ | .handoffSend td _
  | .migrationTimer td _ | .fwdholdTimer td _ | .backgroundDemotion td | .forcedDemotion td | .stagingReadIssue td
  | .stagingReadComplete td _ _ | .wakeMinresExpiry td _ | .heatDecayTick td | .holdoffElapsed td | .rebalanceMoveStart td => some td
  | .vfFunctionLevelReset n | .lockInterfaceRequest n | .tdispMessage n _ => some n
  | _ => none

def Instr.unit? : Instr → Option Nat
  | .bankAttend u | .bankAppend u | .refresh u _ | .correctedWriteback u | .lullMemoryTest u _ _ | .unitFence u _ => some u
  | _ => none

def Instr.cluster? : Instr → Option Nat
  | .clusterPageFetch c | .clusterPageCompute ⟨c, _⟩ | .clusterHandover c | .clusterZeroFill c | .clusterFence c _ => some c
  | _ => none

def Instr.stackChan? : Instr → Option Nat
  | .channelZeroFill c | .channelRetraining c | .retrainingResult c _ | .patrolScrub c _ => some c
  | _ => none

def Instr.die? : Instr → Option Nat
  | .groupMerge d _ | .zephyrPass ⟨d, _⟩ | .lullSampleStep d | .sampleRetry d | .sampleAgeExpiry d _ | .lullZephyrCheck d _ => some d
  | _ => none

def Instr.flashTarget? : Instr → Option (Nat × Nat)
  | .flashOperationIssue c t _ | .idleCollection c ⟨t, _⟩ | .forcedCollection c ⟨t, _⟩ | .readDisturbRelocation c t _ _
  | .wearRelocation c t _ _ | .onfiTargetTimeout c t => some (c, t)
  | _ => none

def Instr.view? : Instr → Option View
  | .registerWrite v _ _ _ _ | .statusAck v _ _ | .timNowRead ⟨v, _, _, _⟩ | .timSnapGo v | .snapshotComplete v => some v
  | _ => none

def below (o : Option Nat) (n : Nat) : Bool := match o with | some k => decide (k < n) | none => true

/-- Every number of the command names a thing the node has. -/
def Instr.wf (i : Instr) : Bool :=
  below i.chan? 77 && below i.port? 4 && below i.td? 64 && below i.unit? 6912 && below i.cluster? 208 && below i.stackChan? 768
    && below i.die? 2
    && (match i.frame? with | some f => f.wf | none => true)
    && (match i.flashTarget? with | some (c, t) => decide (c < 32 ∧ t < 8) | none => true)
    && (match i.view? with | some v => v.wf | none => true)

end Sys2Proof
end

