-- ==== Sys2Proof/Tests/Slice0.lean ====
section
/-! SUPPORT. Tests of the model's own: an ill-formed command for each check of `Instr.wf`, a few values worked out by hand from the spec,
and for each clause of the statements a state and operands that meet its hypotheses together (`witness_<statement>_<clause>`). -/

namespace Sys2Proof.Tests
open Sys2Proof Sys2Proof.Machine
set_option linter.unusedVariables false
set_option Elab.async false

def pwrUp : Pwr := { Pwr.reset with powered := true, orderOk := true, pwrOk := true, perst := false, nodeRst := false, sbReady := true }

/-- A node that is released and serves. -/
def up0 : State := { State.reset with clk := 10 ^ 10, now := 10 ^ 10, pwr := pwrUp, boot := { Boot.reset with phase := .released } }

/-- A node that brings itself up, in one phase of it. -/
def boot0 (p : Phase) : State := { State.reset with clk := 10 ^ 10, pwr := pwrUp, boot := { Boot.reset with phase := p, running := true } }
def ext0 : Ext :=
  { state := .active, td := 1, host := 3, epoch := 0, flash := 16, qpq := 4, deadline := 0, tdl := 0, chan := [0], clus := [0] }

/-- A command of a channel that waits. -/
def mc (ch code td : Nat) (body : List Byte) : Cmd :=
  { id := 0, ch := ch, code := code, fence := false, td := td, tag := 0, body := body, msn := 0, src := 0, port := 0, stage := .waiting, status := 0
    rekeyed := false, rsp := [], discard := false, abortReq := false, todo := [], part := [], obj := 0 }
def wc (s : State) (c : Cmd) : State := { s with mbx := { s.mbx with cmds := [c] } }
def uc (ch : Nat) (x : Chan) : State := { up0 with mbx := { Mbx.reset with chans := [(ch, x)] } }
def ud (td : Nat) (d : Dom) : State := { up0 with doms := [(td, d)] }
def wq0 : Wq :=
  { sqaddr := 0, cqaddr := 4096, log2n := 4, tail := 1, cqhead := 0, head := 0, cq := 0, stopped := false, destroying := none, taken := []
    armed := false, reading := false, ready := [] }

/-- A page in DRAM of a sequence of domain 1, held in the extent 7. -/
def leaf0 : Leaf := { tier := .dram, tdc := 1, gen := 0, heat := 0, cmp := 0, shr := false, psn := false, frame := 0 }
def tab0 : TabE := { tier := .dram, tdc := 1, gen := 0, len := 0, cmp := 0, psn := false, frame := 0 }
def sq0 : SeqD :=
  { td := 1, seqn := 5, state := .own, nlayer := 0, nhead := 0, sgen := 2, kbase := 0, kidx := 1, mgen := 0, len := 256, base := 0
    hend := 0xFFFFFFFF, tfront := 256, tlast := 0, ckep := 0, ext := 7, tchan := 0, root := tab0, l1 := [(0, tab0)], l2 := [(0, tab0)], leaves := [(0, leaf0)]
    wake := Wake.idle, mig := none, chgMig := [], chgExp := [], exp := none }
def wsq (d : SeqD) : State :=
  { up0 with cmp := { Cmp.reset with exts := [(7, ext0)] }, seqs := [(seqKey 1 5, d)], mem := { Mem.reset with frames := [(0, .used)] } }
def w0 : State := wsq sq0
def sref : List Byte := leBytes (svaOf 1 5 0) 8 ++ leBytes 0x10002 4
def sref16 (n : Nat) : List Byte := sref ++ zeros 4 ++ leBytes n 4

/-- A codeword of an empty memory reads clean. -/
theorem cwAt_empty (m : Mem) (a : Nat) (hd : m.dram = []) (hc : m.chk = []) : cwAt m a = (zeros 32, .clean) := by
  simp [cwAt, hd, hc]
theorem rdPage_empty (m : Mem) (f off n : Nat) (hd : m.dram = []) (hc : m.chk = []) : (rdPage m f off n).bad = [] := by
  have key : ∀ (l : List Nat) (g : Nat → Nat) (acc : PRead), acc.bad = [] →
      (l.foldl (fun (acc : PRead) i =>
        { bytes := acc.bytes ++ (if (cwAt m (g i)).2 = .bad then zeros 32 else (cwAt m (g i)).1)
          corr := if (cwAt m (g i)).2 = .corrected then acc.corr ++ [g i] else acc.corr
          bad := if (cwAt m (g i)).2 = .bad then acc.bad ++ [g i] else acc.bad }) acc).bad = [] := by
    intro l g
    induction l with
    | nil => intro acc h; exact h
    | cons i l ih => intro acc h; exact ih _ (by simp [cwAt_empty m _ hd hc, h])
  exact key _ (fun i => pageAddr f + 32 * (off / 32 + i)) _ rfl

theorem place_some (s : State) (td seqn pix : Nat) (ex : Option Nat) (c : Nat) (hl : placeChans s td = [c]) (hs : ∀ k < 9, (slotIn s (9 * c + k)).isSome = true)
    (he : ex ≠ some c := by decide) : ∃ f, place s td seqn pix ex = some f := by
  unfold place
  dsimp only
  split
  · exact ⟨_, rfl⟩
  · generalize hb : Config.placeHash (dom s td).place.key (svaOf td seqn pix) % 2 ^ 64 % 2 ^ 16 % 9 = b0
    generalize nbits (Config.placeHash (dom s td).place.key (svaOf td seqn pix) % 2 ^ 64) 63 32 * (placeChans s td).length / 2 ^ 32 = i
    refine Option.isSome_iff_exists.mp ?_
    rw [List.findSome?_isSome_iff]
    have h9 : b0 % 9 < 9 := Nat.mod_lt _ (by decide)
    refine ⟨9 * c + b0 % 9, ?_, ?_⟩
    · rw [List.mem_flatMap]
      refine ⟨0, by simp [nats, hl], ?_⟩
      have hc : (placeChans s td).getD ((i + 0) % (placeChans s td).length) 0 = c := by simp [hl, Nat.mod_one]
      rw [hc, if_neg he]
      exact List.mem_map.mpr ⟨0, by simp [nats], by simp⟩
    · simpa using hs _ h9

/-! ### Well-formedness -/

def wfFrame : Frame :=
  { uver := 1, ftype := 1, td := 63, mgmt := false, final := true, src := 2 ^ 24 - 1, dst := 2 ^ 24 - 1, qpn := 2 ^ 24 - 1, psn := 2 ^ 24 - 1, rsv1 := 0
    plen := 0, tstamp := 0, msn := 0, gust := 15, fence := false, solicit := false, rsv2 := 0, fcnt := 2 ^ 64 - 1, addr := 0, rkey := 0, alen := 0
    payload := [], tag := 0, sof := 56 }

theorem test_wf_accepts : [Instr.req 76, .attend 3 wfFrame, .backgroundDemotion 63, .bankAttend 6911, .clusterPageFetch 207, .channelZeroFill 767,
    .zephyrPass ⟨1, false⟩, .onfiTargetTimeout 31 7, .timNowRead ⟨.vf 63, true, 0x20000, 4⟩].all Instr.wf = true := by decide
theorem test_wf_channel : (Instr.req 77).wf = false := by decide
theorem test_wf_port : (Instr.portEnable 4).wf = false := by decide
theorem test_wf_domain : (Instr.backgroundDemotion 64).wf = false := by decide
theorem test_wf_unit : (Instr.bankAttend 6912).wf = false := by decide
theorem test_wf_cluster : (Instr.clusterPageFetch 208).wf = false := by decide
theorem test_wf_stack_channel : (Instr.channelZeroFill 768).wf = false := by decide
theorem test_wf_die : (Instr.zephyrPass ⟨2, false⟩).wf = false := by decide
theorem test_wf_frame : (Instr.attend 3 { wfFrame with psn := 2 ^ 24 }).wf = false := by decide
theorem test_wf_flash_channel : (Instr.onfiTargetTimeout 32 0).wf = false := by decide
theorem test_wf_flash_target : (Instr.onfiTargetTimeout 0 8).wf = false := by decide
theorem test_wf_view : (Instr.timNowRead ⟨.vf 64, true, 0x20000, 4⟩).wf = false := by decide

/-! ### Values worked out by hand from the spec -/

/-- The check value of the CRC-32 of IEEE 802.3: that of the nine characters 1 to 9 (R584). -/
theorem test_crc32 : crc32 [0x31, 0x32, 0x33, 0x34, 0x35, 0x36, 0x37, 0x38, 0x39] = 0xCBF43926#32 := by decide +kernel
/-- SHA3-384 of nothing (FIPS 202, R509). -/
theorem test_sha3 : sha3_384 [] =
    0x0c63a75b845e4f7d01107d852e4c2485c51a50aaaa94fc61995e71bbee983a2ac3713831264adb47fb6bd1e058d5f004#384 := by decide +kernel
/-- The first bytes of SHAKE256 of nothing (FIPS 202, R515). -/
theorem test_shake : shake256 [] 8 = [0x46, 0xb9, 0xdd, 0x2b, 0x0b, 0xa8, 0x8d, 0x13] := by decide +kernel
/-- The tag of nothing under the key zero with the IV zero: the first AES-256 case of the GCM specification (R396). -/
theorem test_gcm : gcmTag 0 0 [] [] = 0x530f8afbc74536b9a963b4f1c4cb738b#128 := by decide +kernel
/-- The first block of vector 10 of IEEE 1619 (R306, R307). -/
theorem test_xts : xts 0x27182818284590452353602874713526624977572470936999595749669676273141592653589793238462643383279502884197169399375105820974944592#512
    ([0xff#8] ++ zeros 15) ((nats 16).map (fun i => BitVec.ofNat 8 i))
    = [0x1c, 0x3b, 0x3a, 0x10, 0x2f, 0x77, 0x03, 0x86, 0xe4, 0x83, 0x6c, 0x99, 0xe3, 0x70, 0xcf, 0x9b] := by decide +kernel
/-- The fields of an SVA (R33): domain 1, sequence 5, layer 2, head 3, token page 4, offset 6. -/
theorem test_sva : Sva.ofNat 0x040005020C040006 = { td := 1, seqn := 5, layer := 2, head := 3, tpage := 4, off := 6 } := by decide +kernel
/-- FRAME (R49): stack 23, local channel 31, bank pair 8, frame slot 2,559. -/
theorem test_frame_code : (frChan 0x2FF809FF, frUnit 0x2FF809FF, frSlot 0x2FF809FF) = (767, 6911, 2559) := by decide +kernel
/-- The table gives no row bits. -/
theorem test_decode_none : decodeTableWord 8 0 = none := rfl
theorem test_reset_queue : State.reset.pending = [] := rfl

/-! ### Witnesses, part 1 -/

def fuses0 : Fuses := 
  { correctable := true, defClus := [], defUnit := [], defChan := [], stackSpares := [], d2dSpares := 2, sbI3c := true, widths := [4, 8], trim := [],
    frefKhz := 156250, crefKhz := 100000, uds := 1, rooth := 2, svnf := 0 }
def rec0 : Rec := 
  { eseq := 1, cls := 1, fatal := false, esc := false, qfull := false, audit := false, tdv := true, code := 0x10, time := 0, sva := 2 ^ 58,
    lkind := 0, loc := 0, tag := 0, cnt := 1, rel := 0, epoch := 0, info := 0, at_ := 10 ^ 10 }
def boardRest : List Byte := zeros 36
def boardHead : List Byte := leBytes 0 2 ++ leBytes 1 2 ++ leBytes 0x42445343 4 ++ leBytes (4 * 2 ^ 52) 8 ++ leBytes 100000 4 ++ leBytes 156250 4
def board0 : List Byte := boardHead ++ leBytes (crc32 (boardHead ++ boardRest)).toNat 4 ++ boardRest
def dev0 : BootDevice := { sfdpOk := true, runs := [(0, zeros 20 ++ leBytes 64 4 ++ zeros 8), (64, board0)] }

theorem le_crc (v : BitVec 32) : le (boardHead ++ leBytes v.toNat 4 ++ boardRest) 24 4 = v.toNat := by
  have h : le (boardHead ++ leBytes v.toNat 4 ++ boardRest) 24 4 = v.toNat % 256 + 256 * (v.toNat / 256 % 256 + 256 * (v.toNat / 256 / 256 % 256
      + 256 * (v.toNat / 256 / 256 / 256 % 256 + 256 * 0))) := rfl
  have := v.isLt
  omega
theorem board0_ok : boardOk board0 = true := by
  have h := le_crc (crc32 (boardHead ++ boardRest))
  have a : slice board0 0 24 = boardHead := rfl
  have b : slice board0 28 36 = boardRest := rfl
  unfold boardOk
  rw [a, b, show le board0 24 4 = (crc32 (boardHead ++ boardRest)).toNat from h]
  simp only [beq_self_eq_true, Bool.and_true, Bool.and_eq_true]
  refine ⟨⟨⟨⟨?_, ?_⟩, ?_⟩, ?_⟩, ?_⟩ <;> rfl

theorem dev0_board : bootBoard dev0 = board0 := rfl

theorem witness_StepRunsFront_1 : ∃ (s : State) (c : _) (q : _), s.pending = c :: q :=
  ⟨{ up0 with pending := [.bypass, .idcode] }, .bypass, [.idcode],
    by decide +kernel⟩

theorem witness_IdleStep_1 : ∃ (s : State), s.pending = [] :=
  ⟨up0,
    by decide +kernel⟩

theorem witness_IdleStep_2 : ∃ (s : State) (e : _) (x : _), s.pending = [] ∧ s.boot.phase = .released ∧ s.cmp.exts = [(e, x)] ∧ x.state = .active :=
  by
  refine ⟨{ up0 with cmp := { Cmp.reset with exts := [(7, ext0)] } }, 7, ext0,
    ?_, ?_, ?_, ?_⟩ <;> decide +kernel

theorem witness_StepKeepsInv_1 : ∃ (s : State) (t : State), s.Inv ∧ step s = .next t :=
  ⟨State.reset, State.reset, ⟨by decide, by decide, by decide⟩, rfl⟩

theorem witness_CommandsKeepQueue_1 : ∃ (c : _) (s : State) (t : _), exec c s = .next t :=
  ⟨.bypass, State.reset, State.reset, rfl⟩

theorem witness_SeqSaturation_1 : ∃ (n : _), n ≤ 0xFFFF :=
  ⟨0xFFFF,
    by decide +kernel⟩

theorem witness_SeqSaturation_2 : ∃ (n : _), seqRead n = 0xFFFF :=
  ⟨0x10000,
    by decide +kernel⟩

theorem witness_SeqSaturation_3 : ∃ (s : State) (c : Nat) (view : View) (off : Nat) (v : W32), viewServed s view = true ∧ (view, off, c) ∈ ((List.range 8).map (fun k => (View.pf, 0x3200C + 0x4000 * k, k)) ++ (List.range 64).map (fun n => (View.vf n, 0x200C, 8 + n)) ++ [(View.sb, 0x200C, 72)]) ∧ seqRead (chan s c).evtSeq = 0xFFFF ∧ v.toNat / 2 ^ 16 = 0xFFFF :=
  by
  refine ⟨{ up0 with mbx := { Mbx.reset with chans := [(71, { Chan.reset with evtSeq := 0xFFFF })] } }, 71, .vf 63, 0x200C, 0xFFFF0001#32,
    ?_, ?_, ?_, ?_⟩ <;> decide +kernel

theorem witness_SeqSaturation_4 : ∃ (s : State) (v : W32), s.up = true ∧ v.toNat / 2 ^ 16 = 0xFFFF ∧ seqRead s.boot.seq.pf = 0xFFFF :=
  by
  refine ⟨{ up0 with boot := { up0.boot with seq := { pf := 0x10000, alt := 3 } } }, 0xFFFF0000#32,
    ?_, ?_, ?_⟩ <;> decide +kernel

theorem witness_SeqSaturation_5 : ∃ (s : State) (v : W32), s.up = true ∧ v.toNat / 2 ^ 16 = 0xFFFF ∧ seqRead s.err.seq.pf = 0xFFFF :=
  by
  refine ⟨{ up0 with err := { Err.reset with seq := { pf := 0xFFFF, alt := 3 } } }, 0xFFFF0000#32,
    ?_, ?_, ?_⟩ <;> decide +kernel

theorem witness_SeqSaturation_6 : ∃ (s : State) (v : W32), s.up = true ∧ v.toNat / 2 ^ 16 = 0xFFFF ∧ seqRead s.att.zph0.seq.pf = 0xFFFF :=
  by
  refine ⟨{ up0 with att := { Att.reset with zph0 := { Zph.reset with seq := { pf := 0xFFFF, alt := 3 } } } }, 0xFFFF0000#32,
    ?_, ?_, ?_⟩ <;> decide +kernel

theorem witness_SeqSaturation_7 : ∃ (s : State) (v : W32), s.up = true ∧ v.toNat / 2 ^ 16 = 0xFFFF ∧ seqRead s.att.zph1.seq.pf = 0xFFFF :=
  by
  refine ⟨{ up0 with att := { Att.reset with zph1 := { Zph.reset with seq := { pf := 0xFFFF, alt := 3 } } } }, 0xFFFF0000#32,
    ?_, ?_, ?_⟩ <;> decide +kernel

theorem witness_SeqSaturation_8 : ∃ (s : State) (v : W32) (p : Nat), s.up = true ∧ v.toNat / 2 ^ 16 = 0xFFFF ∧ p < 4 ∧ seqRead (port s p).seq.pf = 0xFFFF :=
  by
  refine ⟨{ up0 with fab := { Fab.reset with ports := [(3, { Port.reset with seq := { pf := 0xFFFF, alt := 0 } })] } }, 0xFFFF0000#32, 3,
    ?_, ?_, ?_, ?_⟩ <;> decide +kernel

theorem witness_SeqSaturation_9 : ∃ (s : State) (v : W32) (td : Nat), s.up = true ∧ v.toNat / 2 ^ 16 = 0xFFFF ∧ td < 64 ∧ seqRead (dom s td).tdstSeq.pf = 0xFFFF :=
  by
  refine ⟨{ up0 with doms := [(63, { Dom.reset with tdstSeq := { pf := 0xFFFF, alt := 0 } })] }, 0xFFFF0000#32, 63,
    ?_, ?_, ?_, ?_⟩ <;> decide +kernel

theorem witness_SeqSaturation_10 : ∃ (s : State) (v : W32) (td : Nat), s.up = true ∧ v.toNat / 2 ^ 16 = 0xFFFF ∧ td < 64 ∧ seqRead (dom s td).tdstSeq.alt = 0xFFFF :=
  by
  refine ⟨{ up0 with doms := [(63, { Dom.reset with tdstSeq := { pf := 0, alt := 0x10000 } })] }, 0xFFFF0000#32, 63,
    ?_, ?_, ?_, ?_⟩ <;> decide +kernel

theorem witness_AccessSizes_1 : ∃ (s : State) (view : View) (off : Nat) (v w : BitVec 64), s.up = true ∧ view ≠ .sb ∧ wide view off = true ∧ off % 8 = 0 :=
  by
  refine ⟨up0, .vf 63, 0x2038, 1, 2,
    ?_, ?_, ?_, ?_⟩ <;> decide +kernel

theorem witness_AccessSizes_2 : ∃ (s : State) (view : View) (off : Nat) (w : BitVec 64), s.up = true ∧ view ≠ .sb ∧ wide view off = true ∧ off % 8 = 0 ∧ look s.regs.low (viewNum view * 2 ^ 28 + off) = none :=
  by
  refine ⟨up0, .pf, 0x2BFF8, 1,
    ?_, ?_, ?_, ?_, ?_⟩ <;> decide +kernel

theorem witness_AccessSizes_3 : ∃ (s : State) (view : View) (off size : Nat) (v : BitVec 64), s.boot.phase ≠ .failed ∧ (¬(size = 4 ∧ off % 4 = 0)) ∧ (¬(size = 8 ∧ off % 8 = 0 ∧ wide view off = true)) ∧ (¬(size = 8 ∧ off % 8 = 0 ∧ inBuffer view off = true)) :=
  by
  refine ⟨up0, .pf, 0x10001, 4, 1,
    ?_, ?_, ?_, ?_⟩ <;> decide +kernel

theorem witness_AccessSizes_4 : ∃ (s : State) (view : View) (off size : Nat), s.boot.phase ≠ .failed ∧ (¬(size = 4 ∧ off % 4 = 0)) ∧ (¬(size = 8 ∧ off % 8 = 0 ∧ wide view off = true)) ∧ ((∀ c o, windowAt view off = some (c, o) → 0x1000 ≤ o)) :=
  by
  refine ⟨up0, .pf, 0xC000, 8,
    ?_, ?_, ?_, (by intro c o h; rw [show windowAt .pf 0xC000 = none by decide +kernel] at h; cases h)⟩ <;> decide +kernel

theorem witness_AccessSizes_5 : ∃ (s : State) (view : _) (off : _), (wide view off = true ∨ inBuffer view off = true) ∧ off % 8 = 0 ∧ s.boot.phase ≠ .failed ∧ ((view ≠ .sb → off ∉ [0x2000, 0x20000])) :=
  by
  refine ⟨up0, .sb, 0x3008,
    ?_, ?_, ?_, ?_⟩ <;> decide +kernel

theorem witness_RecordsCoalesced_1 : ∃ (s : State) (e : _) (r : _), s.err.fatal = false ∧ e.cls ≤ 2 ∧ s.err.log.reverse.find? (fun x => x.code == e.code && x.sva == (mkRec s e false false false 0).sva && x.loc == e.loc) = some r ∧ s.clk < r.at_ + 1000000 :=
  by
  refine ⟨{ up0 with err := { Err.reset with log := [rec0] } }, { err0 1 0x10 0 with td := some 1 }, rec0,
    ?_, ?_, ?_, ?_⟩ <;> decide +kernel

theorem witness_RecordsCoalesced_2 : ∃ (s : State) (e : _), s.err.fatal = false ∧ (3 ≤ e.cls ∨ (∀ r, s.err.log.reverse.find? (fun x => x.code == e.code && x.sva == (mkRec s e false false false 0).sva && x.loc == e.loc) = some r → r.at_ + 1000000 ≤ s.clk)) :=
  ⟨up0, err0 3 0x31 0, by decide, Or.inl (by decide)⟩

theorem witness_PowerOnAndResetPins_1 : ∃ (s : State), s.pwr.powered = false :=
  ⟨State.reset,
    by decide +kernel⟩

theorem witness_PowerOnAndResetPins_2 : ∃ (s : State) (groups : _), s.pwr.powered = false ∧ groups ≠ [1, 2, 3, 4, 5] :=
  ⟨State.reset, [2, 1, 3, 4, 5],
    by decide +kernel,
    by decide +kernel⟩

theorem witness_PowerOnAndResetPins_3 : ∃ (s : State) (_sel _addr : Nat), s.pwr.powered = true ∧ s.pwr.pwrOk = false ∧ s.pwr.thermTrip = false ∧ s.pwr.orderOk = true ∧ s.side.boundary = false :=
  by
  refine ⟨{ up0 with pwr := { pwrUp with pwrOk := false } }, 0, 7,
    ?_, ?_, ?_, ?_, ?_⟩ <;> decide +kernel

theorem witness_PowerOnAndResetPins_4 : ∃ (s : State) (_sel _addr : Nat), s.pwr.pwrOk = true ∧ (s.pwr.perst = true ∨ s.pwr.nodeRst = true) ∧ s.pwr.thermTrip = false ∧ s.pwr.orderOk = true ∧ s.side.boundary = false :=
  by
  refine ⟨{ up0 with pwr := { pwrUp with perst := true } }, 0, 7,
    ?_, ?_, ?_, ?_, ?_⟩ <;> decide +kernel

theorem witness_PowerOnAndResetPins_5 : ∃ (s : State) (i : Instr), (i = .nodeRstN ∨ i = .perst) ∧ s.pwr.powered = true ∧ s.pwr.orderOk = true :=
  by
  refine ⟨up0, .perst,
    ?_, ?_, ?_⟩ <;> decide +kernel

theorem witness_RailsClocksTemperatures_1 : ∃ (s : State), s.pwr.powered = true :=
  ⟨up0,
    by decide +kernel⟩

theorem witness_RailsClocksTemperatures_2 : ∃ (s : State) (sensor : _) (temp : _), s.outOfReset = true ∧ ((if sensor < 24 then 105 else 115) ≤ temp) :=
  ⟨up0, 24, 115,
    by decide +kernel,
    by decide +kernel⟩

theorem witness_RailsClocksTemperatures_3 : ∃ (s : State) (sensor : _) (temp : _), s.outOfReset = true ∧ ((if sensor < 24 then 95 else 100) < temp) :=
  ⟨up0, 23, 96,
    by decide +kernel,
    by decide +kernel⟩

theorem witness_RailsClocksTemperatures_4 : ∃ (s : State) (sensor : _) (temp : _), s.outOfReset = true ∧ (temp ≤ (if sensor < 24 then 95 else 100)) :=
  ⟨up0, 24, 100,
    by decide +kernel,
    by decide +kernel⟩

theorem witness_RailsClocksTemperatures_5 : ∃ (s : State) (_power : Nat) (_temps : List Nat), s.outOfReset = true :=
  ⟨up0, 65536, [85, 86],
    by decide +kernel⟩

theorem witness_RailsClocksTemperatures_6 : ∃ (s : State), s.pwr.powered = true ∧ 1000000 ≤ s.clk :=
  ⟨{ up0 with clk := 1000000 },
    by decide +kernel,
    by decide +kernel⟩

theorem witness_RailsClocksTemperatures_7 : ∃ (s : State) (i : Instr) (cause code : Nat), ((∃ n, i = .clockLockLoss n) ∧ cause = 4 ∧ code = 0x0051 ∨ (∃ n, i = .d2dLinkFailure n) ∧ cause = 5 ∧ code = 0x0052) ∧ s.outOfReset = true ∧ s.boot.portsTrained = true ∧ s.err.fatal = false :=
  ⟨{ up0 with boot := { up0.boot with portsTrained := true } }, .clockLockLoss 3, 4, 0x51, Or.inl ⟨⟨3, rfl⟩, rfl, rfl⟩, by decide +kernel⟩

theorem witness_BringupToKeys_1 : ∃ (s : State) (f : Fuses), bringingUp s .rails = true ∧ f.correctable = true :=
  ⟨boot0 .rails, fuses0,
    by decide +kernel,
    by decide +kernel⟩

theorem witness_BringupToKeys_2 : ∃ (s : State) (f : Fuses) (d : BootDevice), bringingUp s .fuses = true ∧ s.boot.fuses = some f ∧ boardOk (bootBoard d) = true ∧ s.err.fatal = false :=
  by
  refine ⟨{ boot0 .fuses with boot := { (boot0 .fuses).boot with fuses := some fuses0 } }, fuses0, dev0,
    ?_, ?_, by rw [dev0_board]; exact board0_ok, ?_⟩ <;> decide +kernel

theorem witness_BringupToKeys_3 : ∃ (s : State) (f : _), bringingUp s .bootImage = true ∧ s.boot.imageOk = true ∧ s.boot.fuses = some f ∧ s.sec.debug = false ∧ s.err.fatal = false :=
  by
  refine ⟨{ boot0 .bootImage with boot := { (boot0 .bootImage).boot with fuses := some fuses0, imageOk := true } }, fuses0,
    ?_, ?_, ?_, ?_, ?_⟩ <;> decide +kernel

theorem witness_BringupToKeys_4 : ∃ (s : State), controlRuns s = true ∧ s.boot.aliasSigned = false :=
  ⟨boot0 .controlStart,
    by decide +kernel,
    by decide +kernel⟩

theorem witness_BringupToKeys_5 : ∃ (s : State) (w : BootWatch), s.err.fatal = false ∧ ((w = .heartbeat ∧ controlRuns s = true ∨ w = .timeout ∧ s.outOfReset = true ∧ s.boot.running = true ∧ 24000000000 ≤ s.boot.t)) :=
  ⟨boot0 .waiting, .heartbeat,
    by decide +kernel,
    by decide +kernel⟩

theorem witness_BringupToRelease_1 : ∃ (s : State) (_l : List FlashTarget), controlRuns s = true ∧ s.boot.flashDone = false :=
  ⟨boot0 .waves, [],
    by decide +kernel,
    by decide +kernel⟩

theorem witness_BringupToRelease_2 : ∃ (s : State), (bringingUp s .controlStart = true ∨ bringingUp s .waves = true) ∧ s.boot.stackWaves < 6 :=
  ⟨boot0 .controlStart,
    by decide +kernel,
    by decide +kernel⟩

theorem witness_BringupToRelease_3 : ∃ (s : State), (bringingUp s .controlStart = true ∨ bringingUp s .waves = true) ∧ s.boot.stackWaves = 6 ∧ s.boot.clusWaves < 13 :=
  by
  refine ⟨{ boot0 .waves with boot := { (boot0 .waves).boot with stackWaves := 6, clusWaves := 12 } },
    ?_, ?_, ?_⟩ <;> decide +kernel

theorem witness_BringupToRelease_4 : ∃ (s : State) (f : Fuses) (_failed : List Nat) (d2d _k : Nat), bringingUp s .waves = true ∧ s.boot.stackWaves = 6 ∧ s.boot.clusWaves = 13 ∧ s.boot.fuses = some f ∧ ((nats 64).filter (fun i => d2d.testBit i)).length ≤ f.d2dSpares :=
  by
  refine ⟨{ boot0 .waves with boot := { (boot0 .waves).boot with stackWaves := 6, clusWaves := 13, fuses := some fuses0 } }, fuses0, [], 3, 0,
    ?_, ?_, ?_, ?_, ?_⟩ <;> decide +kernel

theorem witness_BringupToRelease_5 : ∃ (s : State) (f : Fuses) (_failed : List Nat) (d2d : Nat), bringingUp s .waves = true ∧ s.boot.stackWaves = 6 ∧ s.boot.clusWaves = 13 ∧ s.boot.fuses = some f ∧ s.err.fatal = false ∧ f.d2dSpares < ((nats 64).filter (fun i => d2d.testBit i)).length :=
  by
  refine ⟨{ boot0 .waves with boot := { (boot0 .waves).boot with stackWaves := 6, clusWaves := 13, fuses := some fuses0 } }, fuses0, [], 7,
    ?_, ?_, ?_, ?_, ?_, ?_⟩ <;> decide +kernel

theorem witness_BringupToRelease_6 : ∃ (s : State) (_a _b _k : Nat), bringingUp s .training = true ∧ s.boot.portsTrained = true :=
  ⟨{ boot0 .training with boot := { (boot0 .training).boot with portsTrained := true } }, 0, 0, 0,
    by decide +kernel,
    by decide +kernel⟩

theorem witness_BringupToRelease_7 : ∃ (s : State) (_a : Nat), bringingUp s .training = true ∧ s.boot.chansTrained = true :=
  ⟨{ boot0 .training with boot := { (boot0 .training).boot with chansTrained := true } }, 0,
    by decide +kernel,
    by decide +kernel⟩

theorem witness_BringupToRelease_8 : ∃ (s : State), bringingUp s .clearing = true :=
  ⟨boot0 .clearing,
    by decide +kernel⟩

theorem witness_BringupToRelease_9 : ∃ (s : State), bringingUp s .broadcast = true ∧ (s.boot.aliasSigned = false ∨ s.boot.flashDone = false) :=
  ⟨boot0 .broadcast,
    by decide +kernel,
    by decide +kernel⟩

theorem witness_BringupToRelease_10 : ∃ (s : State) (zs : List Nat), bringingUp s .broadcast = true ∧ 0 ∈ zs ∧ 1 ∈ zs ∧ s.err.fatal = false :=
  by
  refine ⟨boot0 .broadcast, [0, 1],
    ?_, ?_, ?_, ?_⟩ <;> decide +kernel

theorem witness_BringupToRelease_11 : ∃ (s : State), (bringingUp s .qualification = true ∨ bringingUp s .waiting = true) ∧ s.boot.aliasSigned = true ∧ s.boot.flashDone = true :=
  by
  refine ⟨{ boot0 .waiting with boot := { (boot0 .waiting).boot with aliasSigned := true, flashDone := true } },
    ?_, ?_, ?_⟩ <;> decide +kernel

theorem witness_PcieAndHostResets_1 : ∃ (s : State), s.outOfReset = true ∧ (s.boot.board.pciw = 0 ∨ s.boot.board.pciw = 8) ∧ ((∀ f, s.boot.fuses = some f → 4 ∈ f.widths ∧ 8 ∈ f.widths)) :=
  ⟨{ up0 with boot := { up0.boot with fuses := some fuses0 } },
    by decide +kernel,
    by decide +kernel,
    (by intro f h; cases h; decide)⟩

theorem witness_PcieAndHostResets_2 : ∃ (s : State), s.outOfReset = true ∧ s.boot.board.pciw = 4 ∧ ((∀ f, s.boot.fuses = some f → 4 ∈ f.widths)) :=
  ⟨{ up0 with boot := { up0.boot with fuses := some fuses0, board := { Board.reset with pciw := 4 } } },
    by decide +kernel,
    by decide +kernel,
    (by intro f h; cases h; decide)⟩

theorem witness_PcieAndHostResets_3 : ∃ (s : State), s.outOfReset = true :=
  ⟨up0,
    by decide +kernel⟩

theorem witness_PcieAndHostResets_4 : ∃ (s : State), s.outOfReset = true ∧ s.boot.pcieUp = true ∧ s.boot.phase ≠ .released ∧ s.boot.phase ≠ .failed :=
  by
  refine ⟨{ boot0 .waves with boot := { (boot0 .waves).boot with pcieUp := true } },
    ?_, ?_, ?_, ?_⟩ <;> decide +kernel

theorem witness_PcieAndHostResets_5 : ∃ (s : State), s.outOfReset = true ∧ s.boot.pcieUp = true ∧ (s.boot.phase = .released ∨ s.boot.phase = .failed) :=
  by
  refine ⟨{ up0 with boot := { up0.boot with pcieUp := true } },
    ?_, ?_, ?_⟩ <;> decide +kernel

theorem witness_PcieAndHostResets_6 : ∃ (s : State), s.outOfReset = true ∧ s.boot.phase ≠ .released :=
  ⟨boot0 .rails,
    by decide +kernel,
    by decide +kernel⟩

theorem witness_PcieAndHostResets_7 : ∃ (s : State), s.outOfReset = true ∧ s.boot.phase = .released :=
  ⟨up0,
    by decide +kernel,
    by decide +kernel⟩

theorem witness_PcieAndHostResets_8 : ∃ (s : State) (vf : Nat), s.up = true ∧ vf < 64 :=
  ⟨up0, 63,
    by decide +kernel,
    by decide +kernel⟩


/-! ### Witnesses, part 2 -/

def key0 : BitVec 256 := 1
def sessM : Sess := { td := 0, peer := 5, mgmt := true, frameKey := key0, exportKey := 2, fcnt := 0, xid := 0, old := none }
def sess1 : Sess := { td := 1, peer := 9, mgmt := false, frameKey := key0, exportKey := 2, fcnt := 0, xid := 0, old := none }
def portUp : Port := { Port.reset with state := .up, pctl := 0x80044000 }
/-- A node 7 whose port 0 carries, with a management peer 5 and a peer 9 of domain 1. -/
def net0 : State :=
  { w0 with
    fab := { Fab.reset with nodeid := 7, ports := [(0, portUp)], route := [(0, 1)] }
    net := { Net.reset with sess := [sessM, sess1] }
    mbx := { Mbx.reset with fmpeer := [(0, 5)] } }
def fr0 : Frame :=
  { uver := 1, ftype := 8, td := 0, mgmt := true, final := true, src := 5, dst := 7, qpn := 0, psn := 0, rsv1 := 0, plen := 0, tstamp := 0, msn := 0
    gust := 0, fence := false, solicit := false, rsv2 := 0, fcnt := 1, addr := 0, rkey := 0, alen := 0, payload := [], tag := 0, sof := 56 }
/-- A frame with the tag of the session key. -/
def tagged (f : Frame) : Frame := { f with tag := frameTag key0 f }
theorem tagged_tag (f : Frame) : frameTag key0 (tagged f) = (tagged f).tag := by
  simp only [tagged, frameTag, headerBytes]
theorem check_ok (p : Nat) (f : Frame) (s : State) (x : Sess) (h1 : (port s p).carries = true) (h2 : frameOk f = true) (h3 : f.dst = nodeId s)
    (h4 : mgmtOk s f = true) (h5 : sess? s f.mgmt f.td f.src = some x) (h6 : frameTag x.frameKey f = f.tag) :
    checkFrame p f s = (true, bump (ctrPort p 1) s) := by
  simp [checkFrame, tagOk, h1, h2, h3, h4, h5, h6]
def rawBody (opc efmt ncw : Nat) (src : Bool) (imm1 rlen : Nat) : List Byte :=
  leBytes (opc * 2 ^ 56 + 2 ^ 52 + efmt * 2 ^ 44) 8 ++ leBytes (svaOf 1 5 0) 8 ++ leBytes (if src then svaOf 1 5 0 else 0) 8
    ++ leBytes (ncw * 256) 8 ++ leBytes (0x3F800000 * 2 ^ 32 + imm1) 8 ++ leBytes (0x10002 * 2 ^ 32) 8 ++ leBytes 0 8 ++ leBytes (rlen * 2 ^ 32) 8

theorem witness_MailboxDoorbells_1 : ∃ (s : State) (ch : _), reachable s ch = true :=
  ⟨up0, 71,
    by decide +kernel⟩

theorem witness_MailboxDoorbells_2 : ∃ (s : State) (ch : _), reachable s ch = true ∧ (chan s ch).mask.getLsbD 1 = false :=
  ⟨up0, 0,
    by decide +kernel,
    by decide +kernel⟩

theorem witness_MailboxDoorbells_3 : ∃ (s : State) (ch : _), reachable s ch = true ∧ (chan s ch).db.getLsbD 1 = false ∧ (chan s ch).db.getLsbD 30 = false ∧ (chan s ch).db.getLsbD 31 = false :=
  by
  refine ⟨up0, 72,
    ?_, ?_, ?_, ?_⟩ <;> decide +kernel

theorem witness_MailboxDoorbells_4 : ∃ (s : State) (ch : _), takesMessages s ch = true ∧ dbTaken (chan s ch) 0 = true ∧ nout s ch < 16 :=
  by
  refine ⟨uc 8 { Chan.reset with db := 1 }, 8,
    ?_, ?_, ?_⟩ <;> decide +kernel

theorem witness_MailboxDoorbells_5 : ∃ (s : State) (ch : _) (x : _), s.mbx.cmds.find? (fun y => y.ch == ch && y.stage == .done) = some x ∧ ch < 73 ∧ (chan s ch).rfull = false ∧ reachable s ch = true :=
  by
  refine ⟨wc up0 { mc 8 0x101 0 [] with stage := .done }, 8, { mc 8 0x101 0 [] with stage := .done },
    ?_, ?_, ?_, ?_⟩ <;> decide +kernel

theorem witness_MailboxDoorbells_6 : ∃ (s : State) (ch : _) (x : _), s.mbx.cmds.find? (fun y => y.ch == ch && y.stage == .done) = some x ∧ 73 ≤ ch ∧ builderWaits s true x.src 0 = false :=
  by
  refine ⟨wc up0 { mc 73 0x101 0 [] with stage := .done }, 73, { mc 73 0x101 0 [] with stage := .done },
    ?_, ?_, ?_⟩ <;> decide +kernel

theorem witness_MailboxDoorbells_7 : ∃ (s : State) (ch : _) (c : _), reachable s ch = true ∧ (chan s ch).mask.getLsbD 31 = false ∧ s.mbx.cmds.find? (fun x => x.ch == ch && !x.discard && x.tag == (chan s ch).atag.toNat) = some c ∧ cmd? s c.id = some c ∧ c.stage = .waiting :=
  by
  refine ⟨wc up0 (mc 8 0x301 0 []), 8, mc 8 0x301 0 [],
    ?_, ?_, ?_, ?_, ?_⟩ <;> decide +kernel

theorem witness_MailboxDoorbells_8 : ∃ (s : State) (ch : _), reachable s ch = true ∧ (chan s ch).mask.getLsbD 30 = false :=
  ⟨up0, 5,
    by decide +kernel,
    by decide +kernel⟩

theorem witness_MailboxDoorbells_9 : ∃ (s s1 : State) (port : Nat) (f : Frame) (i : Nat), f.ftype = 8 ∧ checkFrame port f s = (true, s1) ∧ fmPeer s1 f.src = some i ∧ lookD [] s1.mbx.kept (73 + i) = [] ∧ s1.mbx.cmds.all (fun x => x.ch != 73 + i) = true ∧ s1.up = true ∧ (chan s1 (73 + i)).rfull = false :=
  by
  refine ⟨net0, bump (ctrPort 0 1) net0, 0, tagged fr0, 0,
    ?_, check_ok 0 (tagged fr0) net0 sessM (by decide +kernel) (by decide +kernel) (by decide +kernel) (by decide +kernel) (by decide +kernel) (tagged_tag fr0), ?_, ?_, ?_, ?_, ?_⟩ <;> decide +kernel

theorem witness_WorkQueues_1 : ∃ (s : State) (ch : _) (c : _), Starts s ch 0x0504 c ∧ byteAt c.body 0 ≤ 3 ∧ 4 ≤ byteAt c.body 1 ∧ byteAt c.body 1 ≤ 12 ∧ wq? s ch (byteAt c.body 0) = none :=
  by
  refine ⟨wc up0 (mc 8 0x504 0 [3, 4]), 8, mc 8 0x504 0 [3, 4],
    by unfold Starts; decide +kernel, ?_, ?_, ?_, ?_⟩ <;> decide +kernel

theorem witness_WorkQueues_2 : ∃ (s : State) (ch : _) (c : _) (w : _), Starts s ch 0x0505 c ∧ wq? s ch (byteAt c.body 0) = some w ∧ w.destroying = none ∧ w.taken = [] :=
  by
  refine ⟨wc (uc 8 { Chan.reset with wq := [(3, wq0)] }) (mc 8 0x505 0 [3]), 8, mc 8 0x505 0 [3], wq0,
    by unfold Starts; decide +kernel, ?_, ?_, ?_⟩ <;> decide +kernel

theorem witness_WorkQueues_3 : ∃ (s : State) (ch : _) (q : _) (w : _), s.up = true ∧ ch < 72 ∧ q < 4 ∧ dbTaken (chan s ch) (8 + q) = true ∧ wq? s ch q = some w ∧ w.reading = false ∧ w.stopped = false ∧ w.destroying = none ∧ w.head ≠ w.tail ∧ (w.head + 2 ^ 16 - w.cqhead) % 2 ^ 16 < 2 ^ w.log2n ∧ dmaStopped s (chanFn ch) = false :=
  by
  refine ⟨uc 71 { Chan.reset with wq := [(3, wq0)], db := 0x800 }, 71, 3, wq0,
    ?_, ?_, ?_, ?_, ?_, ?_, ?_, ?_, ?_, ?_, ?_⟩ <;> decide +kernel

theorem witness_WorkQueues_4 : ∃ (s : State) (ch : _) (q : _) (idx : _) (w : _) (st : _) (tag : _) (rlen : _), wq? s ch q = some w ∧ look w.ready idx = some (st, tag, rlen) ∧ w.destroying = none ∧ dmaStopped s (chanFn ch) = false :=
  by
  refine ⟨uc 8 { Chan.reset with wq := [(0, { wq0 with ready := [(5, (0, 7, 64))] })] }, 8, 0, 5, { wq0 with ready := [(5, (0, 7, 64))] }, 0, 7, 64,
    ?_, ?_, ?_, ?_⟩ <;> decide +kernel

theorem witness_WorkQueues_5 : ∃ (s : State) (ch : _) (q : _) (idx : _) (w : _) (st : _) (tag : _) (rlen : _), wq? s ch q = some w ∧ look w.ready idx = some (st, tag, rlen) ∧ w.destroying = none ∧ dmaStopped s (chanFn ch) = false ∧ rlen ≠ 0 :=
  by
  refine ⟨uc 8 { Chan.reset with wq := [(0, { wq0 with ready := [(5, (0, 7, 64))] })] }, 8, 0, 5, { wq0 with ready := [(5, (0, 7, 64))] }, 0, 7, 64,
    ?_, ?_, ?_, ?_, ?_⟩ <;> decide +kernel

theorem witness_WorkQueues_6 : ∃ (s : State) (did : _) (ch : _) (q : _) (idx : _) (bs : _), look s.mbx.dma did = some (.wqEntry ch q idx) ∧ 8 ≤ ch ∧ nbits (le bs 8 8) 5 0 = ch - 8 ∧ dmaStopped s (chanFn ch) = false :=
  by
  refine ⟨{ up0 with mbx := { Mbx.reset with dma := [(2, .wqEntry 8 0 0)] } }, 2, 8, 0, 0, zeros 64,
    ?_, ?_, ?_, ?_⟩ <;> decide +kernel

theorem witness_WorkQueues_7 : ∃ (s : State) (did : _) (ch : _) (q : _) (idx : _) (w : _), look s.mbx.dma did = some (.wqEntry ch q idx) ∧ wq? s ch q = some w :=
  ⟨{ up0 with mbx := { Mbx.reset with dma := [(2, .wqEntry 8 0 0)], chans := [(8, { Chan.reset with wq := [(0, wq0)] })] } }, 2, 8, 0, 0, wq0,
    by decide +kernel,
    by decide +kernel⟩

theorem witness_NodeReads_1 : ∃ (s : State) (ch : _) (c : _), Starts s ch 0x0101 c ∧ le c.body 4 4 ≤ 4064 :=
  ⟨wc up0 (mc 0 0x101 0 (zeros 8)), 0, mc 0 0x101 0 (zeros 8),
    by unfold Starts; decide +kernel,
    by decide +kernel⟩

theorem witness_NodeReads_2 : ∃ (s : State) (ch : _) (c : _), Starts s ch 0x0102 c :=
  ⟨wc up0 (mc 0 0x102 0 []), 0, mc 0 0x102 0 [],
    by unfold Starts; decide +kernel⟩

theorem witness_NodeReads_3 : ∃ (s : State) (ch : _) (c : _), Starts s ch 0x0103 c ∧ le c.body 4 4 ≤ 4064 :=
  ⟨wc up0 (mc 72 0x103 0 (leBytes 0 4 ++ leBytes 4064 4)), 72, mc 72 0x103 0 (leBytes 0 4 ++ leBytes 4064 4),
    by unfold Starts; decide +kernel,
    by decide +kernel⟩

theorem witness_NodeReads_4 : ∃ (s : State) (ch : _) (i : Instr) (code : _) (c : _), (i = .flpRead ch ∧ code = 0x0101 ∨ i = .crashRead ch ∧ code = 0x0103) ∧ Starts s ch code c ∧ 4064 < le c.body 4 4 :=
  ⟨wc up0 (mc 0 0x101 0 (leBytes 0 4 ++ leBytes 4065 4)), 0, .flpRead 0, 0x101, mc 0 0x101 0 (leBytes 0 4 ++ leBytes 4065 4),
    by decide +kernel,
    by unfold Starts; decide +kernel,
    by decide +kernel⟩

theorem witness_DomainCommands_1 : ∃ (s : State) (ch : _) (c : _), Starts s ch 0x0201 c ∧ (dom s c.td).sealed = false ∧ holdsSeq s c.td = false ∧ let g := if (byteAt c.body 0).testBit 0 then BitVec.ofNat 64 (le c.body 8 8 &&& 0xF0FF0F0F) else (dom s c.td).geom; let f := if (byteAt c.body 0).testBit 1 then wordsOf c.body 16 fmtMasks else (dom s c.td).fmt; let w := if (byteAt c.body 0).testBit 2 then wordsOf c.body 80 tierMasks else (dom s c.td).tier; let p := if (byteAt c.body 0).testBit 3 then BitVec.ofNat 64 (le c.body 112 8 &&& 0x83) else (dom s c.td).policy; geomOk g f = true ∧ fmtOk g f = true ∧ tierOk w = true ∧ fld p 1 0 < 2 :=
  ⟨wc up0 (mc 8 0x201 0 [0]), 8, mc 8 0x201 0 [0],
    by unfold Starts; decide +kernel,
    by decide +kernel,
    by decide +kernel,
    by dsimp only; decide +kernel⟩

theorem witness_DomainCommands_2 : ∃ (s : State) (ch : _) (c : _), Starts s ch 0x0202 c ∧ byteAt c.body 0 = 0x10 ∧ le c.body 4 4 ≠ 0 ∧ 16 + 4 * le c.body 4 4 ≤ c.body.length ∧ (dom s c.td).sealed = false ∧ holdsSeq s c.td = false ∧ le c.body 4 4 = fmtRdim (dom s c.td).fmt / 2 :=
  by
  refine ⟨wc (ud 0 { Dom.reset with fmt := [0x3F8000003F800000, 0x0002000080000000] }) (mc 8 0x202 0 ([0x10, 0, 0, 0] ++ leBytes 1 4 ++ zeros 12)), 8, mc 8 0x202 0 ([0x10, 0, 0, 0] ++ leBytes 1 4 ++ zeros 12),
    by unfold Starts; decide +kernel, ?_, ?_, ?_, ?_, ?_, ?_⟩ <;> decide +kernel

theorem witness_DomainCommands_3 : ∃ (s : State) (ch : _) (c : _), Starts s ch 0x0202 c ∧ byteAt c.body 0 = 0x10 ∧ le c.body 4 4 = 0 ∧ (dom s c.td).sealed = false ∧ holdsSeq s c.td = false :=
  by
  refine ⟨wc up0 (mc 8 0x202 0 [0x10]), 8, mc 8 0x202 0 [0x10],
    by unfold Starts; decide +kernel, ?_, ?_, ?_, ?_⟩ <;> decide +kernel

theorem witness_DomainCommands_4 : ∃ (s : State) (ch : _) (c : _), Starts s ch 0x0203 c ∧ (dom s c.td).sealed = false :=
  ⟨wc up0 (mc 8 0x203 0 []), 8, mc 8 0x203 0 [],
    by unfold Starts; decide +kernel,
    by decide +kernel⟩

theorem witness_DomainCommands_5 : ∃ (s : State) (ch : _) (c : _), Starts s ch 0x0204 c ∧ (dom s c.td).sealed = false ∧ (dom s c.td).rotary.length = fmtRdim (dom s c.td).fmt / 2 :=
  ⟨wc up0 (mc 8 0x204 0 []), 8, mc 8 0x204 0 [],
    by unfold Starts; decide +kernel,
    by decide +kernel,
    by decide +kernel⟩

theorem witness_DomainCommands_6 : ∃ (s : State) (ch : _) (c : _), Starts s ch 0x0204 c ∧ (dom s c.td).sealed = true :=
  ⟨wc (ud 63 { Dom.reset with sealed := true }) (mc 71 0x204 63 []), 71, mc 71 0x204 63 [],
    by unfold Starts; decide +kernel,
    by decide +kernel⟩

theorem witness_DomainCommands_7 : ∃ (s : State) (ch : _) (c : _), Starts s ch 0x0205 c ∧ (dom s c.td).sealed = true :=
  ⟨wc (ud 63 { Dom.reset with sealed := true }) (mc 71 0x205 63 []), 71, mc 71 0x205 63 [],
    by unfold Starts; decide +kernel,
    by decide +kernel⟩

theorem witness_DomainCommands_8 : ∃ (s : State) (ch : _) (i : Instr) (code : _) (c : _), (i = .tdConfig ch ∧ code = 0x0201 ∨ i = .tdAdmkey ch ∧ code = 0x0203) ∧ Starts s ch code c ∧ (dom s c.td).sealed = true :=
  ⟨wc (ud 63 { Dom.reset with sealed := true }) (mc 71 0x203 63 []), 71, .tdAdmkey 71, 0x203, mc 71 0x203 63 [],
    by decide +kernel,
    by unfold Starts; decide +kernel,
    by decide +kernel⟩

theorem witness_RawBankCommands_1 : ∃ (s : State) (ch : Nat) (c : Cmd) (r : RawD) (d : SeqD) (dp sp : Nat) (l ls : Leaf) (i : Instr), (i, r.opc) ∈ [(Instr.fill (.raw ch), 1), (.copy (.raw ch), 2), (.scale ch, 3), (.add ch, 4), (.mul ch, 5), (.rmsApply ch, 7)] ∧ RawReady s ch c r d dp sp l ls :=
  by
  refine ⟨wc w0 (mc 9 0x308 1 (rawBody 1 0 0 false 0 0)), 9, mc 9 0x308 1 (rawBody 1 0 0 false 0 0), RawD.ofBytes (rawBody 1 0 0 false 0 0), sq0, 0, 0, leaf0, leaf0, .fill (.raw 9),
    ?_, ⟨by unfold Starts; decide +kernel, ?_, ?_, ?_, ?_, ?_, ?_, ?_, ?_, ?_, ?_, ?_, ?_, ?_, ?_, ?_, by unfold Settled; decide +kernel, ⟨rdPage_empty _ _ _ _ rfl rfl, rdPage_empty _ _ _ _ rfl rfl⟩, ?_, ?_⟩⟩ <;> decide +kernel

theorem witness_RawBankCommands_2 : ∃ (s : State) (ch : Nat) (c : Cmd) (r : RawD) (d : SeqD) (dp sp : Nat) (l ls : Leaf), r.opc = 6 ∧ RawReady s ch c r d dp sp l ls :=
  by
  refine ⟨wc w0 (mc 9 0x308 1 (rawBody 6 8 1 false 32 4)), 9, mc 9 0x308 1 (rawBody 6 8 1 false 32 4), RawD.ofBytes (rawBody 6 8 1 false 32 4), sq0, 0, 0, leaf0, leaf0,
    ?_, ⟨by unfold Starts; decide +kernel, ?_, ?_, ?_, ?_, ?_, ?_, ?_, ?_, ?_, ?_, ?_, ?_, ?_, ?_, ?_, by unfold Settled; decide +kernel, ⟨rdPage_empty _ _ _ _ rfl rfl, rdPage_empty _ _ _ _ rfl rfl⟩, ?_, ?_⟩⟩ <;> decide +kernel

theorem witness_RawBankCommands_3 : ∃ (s : State) (ch : Nat) (c : Cmd) (r : RawD) (d : SeqD) (dp sp : Nat) (l ls : Leaf), r.opc = 8 ∧ RawReady s ch c r d dp sp l ls :=
  by
  refine ⟨wc w0 (mc 9 0x308 1 (rawBody 8 0 0 true 0 1024)), 9, mc 9 0x308 1 (rawBody 8 0 0 true 0 1024), RawD.ofBytes (rawBody 8 0 0 true 0 1024), sq0, 0, 0, leaf0, leaf0,
    ?_, ⟨by unfold Starts; decide +kernel, ?_, ?_, ?_, ?_, ?_, ?_, ?_, ?_, ?_, ?_, ?_, ?_, ?_, ?_, ?_, by unfold Settled; decide +kernel, ⟨rdPage_empty _ _ _ _ rfl rfl, rdPage_empty _ _ _ _ rfl rfl⟩, ?_, ?_⟩⟩ <;> decide +kernel

theorem witness_RawBankCommands_4 : ∃ (s : State) (f : _), look s.mem.frames (frameIx f) = some .dirty ∧ pairRuns s (frUnit f) = true ∧ Settled s ∧ ((lookD [] s.att.units (frUnit f) = [] ∨ nextOp s (frUnit f) = some (.zero f))) :=
  by
  refine ⟨{ up0 with mem := { Mem.reset with frames := [(5, .dirty)] } }, 5,
    ?_, ?_, by unfold Settled; decide +kernel, ?_⟩ <;> decide +kernel


/-! ### Witnesses, part 3 -/

def key1 : BitVec 128 := BitVec.ofNat 128 (2 ^ 122)
def keyB : List Byte := leBytes (2 ^ 58) 8 ++ leBytes 0 8
def dirE1 : DirE := { key := key1, st := .live, ver := 3, ref := 2, rtn := true, psn := false, sidx := 0, nlayer := 0, nhead := 0 }
def grp1 : Group := { td := 1, sidx := 0, key := key1, last := 0, nlayer := 0, nhead := 0, recs := [(2, { leaf := leaf0, ref := 0, bad := false })], freeing := false }
def withDir (s : State) : State := { s with pfx := { Pfx.reset with banks := [(0, [(0, dirE1)])], copies := [(1, [dirE1])], groups := [grp1] } }
def pubBody : List Byte := sref ++ zeros 4 ++ leBytes 0 4 ++ [1, 0] ++ leBytes 3 2 ++ zeros 8 ++ keyB
def req0 : Req :=
  { id := 3, td := 1, seqn := 5, layer := 0, sender := .gone, host := 3, home := 0, tag := 0, mask := 0, path := 0, fin := false, fence := false
    rot := false, c := 1, g := 1, hmask := 1, tree := 0, rstart := 0, rend := 256, qpos := 256, sscale := 0, qscale := 0, rows := []
    ykey := 0, yqpn := 0, yaddr := 0, app := false, apos := 0, napp := 0, afmt := 0, appd := [], len := 256, stage := .accepted
    issueNo := 0, after := [], appLeft := [], bankHeld := [], unitLeft := [], grpLeft := [], zphLeft := [], zphRows := [], stackParts := [], homeParts := [], zephyr := false
    tcheck := false, recomputed := false }
def reqs (s : State) (l : List Req) : State := { s with att := { s.att with reqs := l } }
def qp1 : Qp := { newQp w0 1 16385 9 77 0 32 0 7 with lastQperr := none }
def qps (s : State) (l : List Qp) : State := { s with net := { s.net with qps := l } }
def extB (id td host flash qpq : Nat) : List Byte :=
  leBytes (id * 2 ^ 52 + td * 2 ^ 44 + host * 2 ^ 34) 8 ++ leBytes (flash * 2 ^ 32 + qpq * 2 ^ 16) 8
def pend (s : State) (e cid : Nat) (rv : Bool) : State := { s with cmp := { s.cmp with pendingExt := some (e, cid, rv) } }
def exts (s : State) (x : Ext) : State := { s with cmp := { s.cmp with exts := [(7, x)] } }

theorem witness_SequenceCommands_1 : ∃ (s : State) (ch : _) (c : _) (x : _), Starts s ch 0x0301 c ∧ let a := Sva.ofNat (le c.body 0 8); let f := freeKey s (seqKey c.td a.seqn); let k := nextKey f.kidx f.sgen f.kbase; le c.body 0 8 % 2 ^ 40 = 0 ∧ a.td = c.td ∧ ext? s (le c.body 8 2) = some x ∧ x.td = c.td ∧ x.state = .active ∧ byteAt c.body 11 ≤ 63 ∧ le c.body 16 4 < le c.body 20 4 ∧ seq? s c.td a.seqn = none ∧ descRoom s c.td (seqKey c.td a.seqn) = true :=
  ⟨wc w0 (mc 9 0x301 1 (leBytes (svaOf 1 6 0) 8 ++ leBytes 7 2 ++ [255, 63] ++ zeros 4 ++ leBytes 0 4 ++ leBytes 0xFFFFFFFF 4)), 9, mc 9 0x301 1 (leBytes (svaOf 1 6 0) 8 ++ leBytes 7 2 ++ [255, 63] ++ zeros 4 ++ leBytes 0 4 ++ leBytes 0xFFFFFFFF 4), ext0,
    by unfold Starts; decide +kernel,
    by dsimp only; decide +kernel⟩

theorem witness_SequenceCommands_2 : ∃ (s : State) (ch : _) (c : _) (d : _), Starts s ch 0x0302 c ∧ Names s c d ∧ d.state = .own ∧ seqBusy s d = false :=
  ⟨wc w0 (mc 9 0x302 1 sref), 9, mc 9 0x302 1 sref, sq0,
    by unfold Starts; decide +kernel,
    by unfold Names; decide +kernel,
    by decide +kernel,
    by decide +kernel⟩

theorem witness_SequenceCommands_3 : ∃ (s : State) (ch : _) (c : _) (d : _), Starts s ch 0x0303 c ∧ Names s c d ∧ d.here = true ∧ d.len + le c.body 16 4 ≤ d.tfront :=
  ⟨wc w0 (mc 9 0x303 1 (sref16 0)), 9, mc 9 0x303 1 (sref16 0), sq0,
    by unfold Starts; decide +kernel,
    by unfold Names; decide +kernel,
    by decide +kernel,
    by decide +kernel⟩

theorem witness_SequenceCommands_4 : ∃ (s : State) (ch : _) (c : _) (d : _), Starts s ch 0x0303 c ∧ Names s c d ∧ d.here = true ∧ d.tfront < d.len + le c.body 16 4 :=
  ⟨wc w0 (mc 9 0x303 1 (sref16 1)), 9, mc 9 0x303 1 (sref16 1), sq0,
    by unfold Starts; decide +kernel,
    by unfold Names; decide +kernel,
    by decide +kernel,
    by decide +kernel⟩

theorem witness_SequenceCommands_5 : ∃ (s : State) (ch : _) (c : _) (d : _), Starts s ch 0x0304 c ∧ Names s c d ∧ d.here = true ∧ d.base ≤ le c.body 16 4 ∧ le c.body 16 4 ≤ d.len ∧ truncPages s d (le c.body 16 4) = [] ∧ Settled s :=
  by
  refine ⟨wc w0 (mc 9 0x304 1 (sref16 256)), 9, mc 9 0x304 1 (sref16 256), sq0,
    by unfold Starts; decide +kernel, by unfold Names; decide +kernel, ?_, ?_, ?_, ?_, by unfold Settled; decide +kernel⟩ <;> decide +kernel

theorem witness_SequenceCommands_6 : ∃ (s : State) (ch : _) (c : _) (d : _), Starts s ch 0x0304 c ∧ Names s c d ∧ d.here = true ∧ d.base ≤ le c.body 16 4 ∧ le c.body 16 4 ≤ d.len ∧ truncPages s d (le c.body 16 4) ≠ [] ∧ seqBusy s d = false ∧ Settled s :=
  by
  refine ⟨wc w0 (mc 9 0x304 1 (sref16 0)), 9, mc 9 0x304 1 (sref16 0), sq0,
    by unfold Starts; decide +kernel, by unfold Names; decide +kernel, ?_, ?_, ?_, ?_, ?_, by unfold Settled; decide +kernel⟩ <;> decide +kernel

theorem witness_SequenceCommands_7 : ∃ (s : State) (ch : _) (c : _) (d : _), Starts s ch 0x0305 c ∧ Names s c d ∧ d.here = true ∧ openAppends s d.td d.seqn = [] :=
  ⟨wc w0 (mc 9 0x305 1 sref), 9, mc 9 0x305 1 sref, sq0,
    by unfold Starts; decide +kernel,
    by unfold Names; decide +kernel,
    by decide +kernel,
    by decide +kernel⟩

theorem witness_SequenceCommands_8 : ∃ (s : State) (ch : _) (c : _) (d : _), Starts s ch 0x0305 c ∧ Names s c d ∧ d.here = true ∧ openAppends s d.td d.seqn ≠ [] :=
  ⟨wc (reqs w0 [{ req0 with app := true, appLeft := [(0, 0)] }]) (mc 9 0x305 1 sref), 9, mc 9 0x305 1 sref, sq0,
    by unfold Starts; decide +kernel,
    by unfold Names; decide +kernel,
    by decide +kernel,
    by decide +kernel⟩

theorem witness_SequenceCommands_9 : ∃ (s : State) (ch : _) (c : _) (d : _), Starts s ch 0x0306 c ∧ Names s c d ∧ d.here = true ∧ byteAt c.body 16 ≤ d.nlayer :=
  ⟨wc w0 (mc 9 0x306 1 (sref16 0)), 9, mc 9 0x306 1 (sref16 0), sq0,
    by unfold Starts; decide +kernel,
    by unfold Names; decide +kernel,
    by decide +kernel,
    by decide +kernel⟩

theorem witness_SequenceCommands_10 : ∃ (s : State) (ch : _) (c : _) (d : _), Starts s ch 0x0307 c ∧ Names s c d :=
  ⟨wc w0 (mc 9 0x307 1 sref), 9, mc 9 0x307 1 sref, sq0,
    by unfold Starts; decide +kernel,
    by unfold Names; decide +kernel⟩

theorem witness_PrefixCommands_1 : ∃ (s : State) (ch : _) (c : _) (x : _), Starts s ch 0x0401 c ∧ byteAt c.body 0 = 1 ∧ keysCheck c 1 16 = 0 ∧ (bankTab s (bankOf (keyAt c.body 16 0))).find? (fun x => x.2.key == keyAt c.body 16 0) = some x ∧ headerOk s c.td x.2 = true ∧ x.2.st = .live :=
  by
  refine ⟨wc (withDir w0) (mc 9 0x401 1 ([1] ++ zeros 15 ++ keyB)), 9, mc 9 0x401 1 ([1] ++ zeros 15 ++ keyB), (0, dirE1),
    by unfold Starts; decide +kernel, ?_, ?_, ?_, ?_, ?_⟩ <;> decide +kernel

theorem witness_PrefixCommands_2 : ∃ (s : State) (ch : _) (c : _), Starts s ch 0x0401 c ∧ byteAt c.body 0 = 1 ∧ keysCheck c 1 16 = 0 ∧ (bankTab s (bankOf (keyAt c.body 16 0))).find? (fun x => x.2.key == keyAt c.body 16 0) = none :=
  by
  refine ⟨wc w0 (mc 9 0x401 1 ([1] ++ zeros 15 ++ keyB)), 9, mc 9 0x401 1 ([1] ++ zeros 15 ++ keyB),
    by unfold Starts; decide +kernel, ?_, ?_, ?_⟩ <;> decide +kernel

theorem witness_PrefixCommands_3 : ∃ (s : State) (ch : Nat) (c : Cmd) (d : SeqD) (ix : Nat) (s1 : State), Starts s ch 0x0402 c ∧ byteAt c.body 20 = 1 ∧ keysCheck c 1 32 = 0 ∧ Names s c d ∧ d.here = true ∧ let key := keyAt c.body 32 0; let tp := le c.body 16 4; let e : DirE := { key := key, st := .reserved, ver := le c.body 22 2, ref := 0, rtn := (byteAt c.body 21).testBit 0, psn := false, sidx := ix, nlayer := d.nlayer, nhead := d.nhead }; (tp + 1) * tokT s d.td ≤ d.len ∧ d.base ≤ tp * tokT s d.td ∧ tp < 1024 ∧ c.abortReq = false ∧ (bankTab s (bankOf key)).find? (fun x => x.2.key == key) = none ∧ pageLeaves s d (tokenPages d tp) = 0 ∧ pagesQuiet s d (tokenPages d tp) = true ∧ (lookD [] s.pfx.copies d.td).length < (lookD 0x4000#32 s.pfx.quota d.td).toNat ∧ tableRoom s d.td (16 * (2 + (tokenPages d tp).length) + 32) = true ∧ freeSidx s d.td (2 + (tokenPages d tp).length) = some ix ∧ insertEntry d.td e s = some s1 :=
  by
  refine ⟨wc w0 (mc 9 0x402 1 pubBody), 9, mc 9 0x402 1 pubBody, sq0, 0, (insertEntry 1 { key := key1, st := .reserved, ver := 3, ref := 0, rtn := false, psn := false, sidx := 0, nlayer := 0, nhead := 0 } (wc w0 (mc 9 0x402 1 pubBody))).getD w0,
    by unfold Starts; decide +kernel, ?_, ?_, by unfold Names; decide +kernel, ?_, (by
      dsimp only
      refine ⟨?_, ?_, ?_, rfl, ?_, ?_, ?_, ?_, ?_, ?sidx, rfl⟩
      case sidx =>
        simp only [freeSidx, show (wc w0 (mc 9 0x402 1 pubBody)).pfx.groups = [] from rfl, List.filter_nil, List.map_nil, List.mergeSort_nil]
        decide +kernel
      all_goals decide +kernel)⟩ <;> decide +kernel

theorem witness_PrefixCommands_4 : ∃ (s : State) (ch : Nat) (c : Cmd) (d : SeqD) (i : Nat) (e : DirE), s.mbx.cmds.find? (fun c => c.ch == ch && c.stage == .running && c.code == 0x0402 && !publishBlocked s c) = some c ∧ cmd? s c.id = some c ∧ c.discard = false ∧ c.abortReq = false ∧ c.todo = [i] ∧ 0 < c.obj ∧ Names s c d ∧ Settled s ∧ let ps := tokenPages d (le c.body 16 4 + i); pagesQuiet s d ps = true ∧ pageLeaves s d ps = 0 ∧ (∀ p ∈ ps, ∃ l, walk s d p = .page l l ∧ l.tier = .dram) ∧ entryCopy? s d.td (keyAt c.body 32 i) = some e :=
  by
  refine ⟨{ wc (withDir w0) { mc 9 0x402 1 pubBody with stage := .running, todo := [0], obj := 1 } with seqs := [(seqKey 1 5, sq0)] }, 9, { mc 9 0x402 1 pubBody with stage := .running, todo := [0], obj := 1 }, sq0, 0, dirE1,
    ?_, ?_, ?_, ?_, ?_, ?_, by unfold Names; decide +kernel, by unfold Settled; decide +kernel, (by
      dsimp only
      refine ⟨by decide +kernel, by decide +kernel, ?_, by decide +kernel⟩
      intro p hp
      have : p = 0 := by have h : tokenPages sq0 0 = [0] := by decide
                         exact List.mem_singleton.mp (h ▸ hp)
      subst this
      exact ⟨leaf0, by decide +kernel, rfl⟩)⟩ <;> decide +kernel

theorem witness_PrefixCommands_5 : ∃ (s : State) (ch : _) (c : _) (d : _) (x : _), Starts s ch 0x0403 c ∧ byteAt c.body 16 = 1 ∧ keysCheck c 1 32 = 0 ∧ Names s c d ∧ d.here = true ∧ let tt := tokT s d.td; let j := d.len / tt; d.len = j * tt ∧ d.tfront = d.len ∧ (j + 1) * tt ≤ d.hend ∧ j < 1024 ∧ (bankTab s (bankOf (keyAt c.body 32 0))).find? (fun x => x.2.key == keyAt c.body 32 0) = some x ∧ headerOk s c.td x.2 = true ∧ x.2.st = .live ∧ x.2.ver = le c.body 18 2 ∧ x.2.psn = false ∧ x.2.nlayer = d.nlayer ∧ x.2.nhead = d.nhead ∧ (∀ p ∈ tokenPages d j, leafOf d p = none) ∧ tcheckPage s d (tokenPages d j) = none ∧ tableRoom s d.td (growthOf d (tokenPages d j)) = true :=
  by
  refine ⟨wc (withDir (wsq { sq0 with len := 0, tfront := 0, l1 := [], l2 := [], leaves := [] })) (mc 9 0x403 1 (sref ++ zeros 4 ++ [1, 0] ++ leBytes 3 2 ++ zeros 12 ++ keyB)), 9, mc 9 0x403 1 (sref ++ zeros 4 ++ [1, 0] ++ leBytes 3 2 ++ zeros 12 ++ keyB), { sq0 with len := 0, tfront := 0, l1 := [], l2 := [], leaves := [] }, (0, dirE1),
    by unfold Starts; decide +kernel, ?_, ?_, by unfold Names; decide +kernel, ?_, by dsimp only; decide +kernel⟩ <;> decide +kernel

theorem witness_PrefixCommands_6 : ∃ (s : State) (ch : _) (c : _) (x : _) (g : _) (e : _), Starts s ch 0x0404 c ∧ keyTd (keyAt c.body 0 0) = c.td ∧ (bankTab s (bankOf (keyAt c.body 0 0))).find? (fun x => x.2.key == keyAt c.body 0 0) = some x ∧ headerOk s c.td x.2 = true ∧ x.2.st = .live ∧ x.2.rtn = true ∧ groupOfEntry s c.td x.2 = some g ∧ g.key = keyAt c.body 0 0 ∧ entryCopy? s c.td (keyAt c.body 0 0) = some e ∧ e.sidx = g.sidx ∧ 2 ≤ e.ref :=
  by
  refine ⟨wc (withDir w0) (mc 9 0x404 1 keyB), 9, mc 9 0x404 1 keyB, (0, dirE1), grp1, dirE1,
    by unfold Starts; decide +kernel, ?_, ?_, ?_, ?_, ?_, ?_, ?_, ?_, ?_, ?_⟩ <;> decide +kernel

theorem witness_PrefixCommands_7 : ∃ (s : State) (td : _) (sidx : _) (g : _), s.pfx.groups.find? (fun g => g.td == td && g.sidx == sidx) = some g ∧ g.freeing = true ∧ (∀ r ∈ g.recs, r.2.ref = 0) ∧ s.mem.chgs = [] ∧ Settled s ∧ ((∀ r ∈ g.recs, r.2.leaf.tier = .dram → frameUsers s r.2.leaf.frame = [] ∧ codeChan s (frChan r.2.leaf.frame) = .good)) :=
  by
  refine ⟨{ withDir w0 with pfx := { (withDir w0).pfx with groups := [{ grp1 with freeing := true }] } }, 1, 0, { grp1 with freeing := true },
    ?_, ?_, ?_, ?_, by unfold Settled; decide +kernel, ?_⟩ <;> decide +kernel

theorem witness_QueuePairCommands_1 : ∃ (s : State) (ch : _) (c : _) (n : _), Starts s ch 0x0501 c ∧ le c.body 16 2 ≤ 0x3FF ∧ qpnOf c.td n = true ∧ qpnFree s n = true ∧ (le c.body 0 4 = n ∨ le c.body 0 4 = 0 ∧ (∀ m, m < n → qpnOf c.td m = true → qpnFree s m = false)) ∧ (onNode s c.td < slotsOf s c.td ∨ (dom s c.td).qpTab.isSome = true) :=
  by
  refine ⟨wc w0 (mc 9 0x501 1 (leBytes 16385 4 ++ leBytes 9 4 ++ leBytes 77 4 ++ leBytes 0 4 ++ leBytes 0x3FF 2)), 9, mc 9 0x501 1 (leBytes 16385 4 ++ leBytes 9 4 ++ leBytes 77 4 ++ leBytes 0 4 ++ leBytes 0x3FF 2), 16385,
    by unfold Starts; decide +kernel, ?_, ?_, ?_, Or.inl (by decide +kernel), ?_⟩ <;> decide +kernel

theorem witness_QueuePairCommands_2 : ∃ (s : State) (ch : _) (c : _) (st : _), Starts s ch 0x0501 c ∧ let n := le c.body 0 4; let own := fun m => qpnOf c.td m = true ∧ qpnFree s m = true; (st = 1 ∧ 0x3FF < le c.body 16 2 ∨ le c.body 16 2 ≤ 0x3FF ∧ (st = 3 ∧ n ≠ 0 ∧ qpnOf c.td n = false ∨ st = 0x61 ∧ qpnOf c.td n = true ∧ qpnFree s n = false ∨ st = 0x61 ∧ n = 0 ∧ (∀ m, ¬ own m) ∨ st = 0x43 ∧ (own n ∨ n = 0 ∧ ∃ m, own m) ∧ slotsOf s c.td ≤ onNode s c.td ∧ (dom s c.td).qpTab = none)) :=
  ⟨wc (qps w0 [qp1]) (mc 9 0x501 1 (leBytes 16385 4 ++ leBytes 9 4 ++ leBytes 77 4 ++ leBytes 0 4 ++ leBytes 0x3FF 2)), 9, mc 9 0x501 1 (leBytes 16385 4 ++ leBytes 9 4 ++ leBytes 77 4 ++ leBytes 0 4 ++ leBytes 0x3FF 2), 0x61,
    by unfold Starts; decide +kernel,
    Or.inr ⟨by decide +kernel, Or.inr (Or.inl ⟨rfl, by decide +kernel, by decide +kernel⟩)⟩⟩

theorem witness_QueuePairCommands_3 : ∃ (s : State) (ch : _) (c : _) (q : _), Starts s ch 0x0502 c ∧ qp? s (le c.body 0 4) = some q ∧ qpnOf c.td (le c.body 0 4) = true ∧ q.td = c.td :=
  by
  refine ⟨wc (qps w0 [qp1]) (mc 9 0x502 1 (leBytes 16385 4)), 9, mc 9 0x502 1 (leBytes 16385 4), qp1,
    by unfold Starts; decide +kernel, ?_, ?_, ?_⟩ <;> decide +kernel

theorem witness_QueuePairCommands_4 : ∃ (s : State) (ch : _) (c : _), Starts s ch 0x0502 c ∧ (qp? s (le c.body 0 4) = none ∨ qpnOf c.td (le c.body 0 4) = false) :=
  ⟨wc w0 (mc 9 0x502 1 (leBytes 16385 4)), 9, mc 9 0x502 1 (leBytes 16385 4),
    by unfold Starts; decide +kernel,
    by decide +kernel⟩

theorem witness_QueuePairCommands_5 : ∃ (s : State) (ch : _) (c : _), Starts s ch 0x0503 c ∧ le c.body 0 8 % 4096 = 0 ∧ le c.body 8 4 = 16384 :=
  ⟨wc w0 (mc 9 0x503 1 (leBytes 4096 8 ++ leBytes 16384 4)), 9, mc 9 0x503 1 (leBytes 4096 8 ++ leBytes 16384 4),
    by unfold Starts; decide +kernel,
    by decide +kernel,
    by decide +kernel⟩

theorem witness_QueuePairCommands_6 : ∃ (s : State) (ch : _) (c : _), Starts s ch 0x0503 c ∧ le c.body 0 8 % 4096 = 0 ∧ le c.body 8 4 = 0 ∧ ((∀ q ∈ s.net.qps, q.td = c.td → q.onNode = true)) :=
  by
  refine ⟨wc (qps w0 [qp1]) (mc 9 0x503 1 (zeros 12)), 9, mc 9 0x503 1 (zeros 12),
    by unfold Starts; decide +kernel, ?_, ?_, ?_⟩ <;> decide +kernel

theorem witness_QueuePairCommands_7 : ∃ (s : State) (ch : _) (c : _) (st : _), Starts s ch 0x0503 c ∧ (st = 1 ∧ (le c.body 0 8 % 4096 ≠ 0 ∨ le c.body 8 4 ≠ 0 ∧ le c.body 8 4 ≠ 16384) ∨ st = 0x42 ∧ le c.body 0 8 % 4096 = 0 ∧ le c.body 8 4 = 0 ∧ (∃ q ∈ s.net.qps, q.td = c.td ∧ q.onNode = false)) :=
  ⟨wc w0 (mc 9 0x503 1 (leBytes 4096 8 ++ leBytes 16383 4)), 9, mc 9 0x503 1 (leBytes 4096 8 ++ leBytes 16383 4), 1,
    by unfold Starts; decide +kernel,
    by decide +kernel⟩

theorem witness_ExtentCommands_1 : ∃ (s : State) (ch : _) (c : _), Starts s ch 0x0601 c ∧ extSetCheck s (ExtD.ofBytes c.body) = 0 ∧ ext? s (ExtD.ofBytes c.body).id = none :=
  ⟨wc up0 (mc 0 0x601 0 (extB 4095 1 3 0 4 ++ [1])), 0, mc 0 0x601 0 (extB 4095 1 3 0 4 ++ [1]),
    by unfold Starts; decide +kernel,
    by decide +kernel,
    by decide +kernel⟩

theorem witness_ExtentCommands_2 : ∃ (s : State) (ch : _) (c : _) (st : _), Starts s ch 0x0601 c ∧ extSetCheck s (ExtD.ofBytes c.body) = st ∧ st ≠ 0 :=
  ⟨wc up0 (mc 0 0x601 0 (extB 7 1 3 0 0x7FFF)), 0, mc 0 0x601 0 (extB 7 1 3 0 0x7FFF), 1,
    by unfold Starts; decide +kernel,
    by decide +kernel,
    by decide +kernel⟩

theorem witness_ExtentCommands_3 : ∃ (s : State) (e : _) (x : _) (cid : _) (c : _), s.cmp.pendingExt = some (e, cid, false) ∧ ext? s e = some x ∧ handedOver s = true ∧ ((∀ k ∈ x.clus, codeClus s k = .good → (clus s k).dirty = false ∧ (clus s k).joining = false)) ∧ onNode s x.td ≤ slotsOf s x.td ∧ cmd? s cid = some c ∧ c.discard = false ∧ s.cmp.substWait = [] :=
  by
  refine ⟨wc (pend w0 7 0 false) { mc 0 0x601 0 [] with stage := .running }, 7, ext0, 0, { mc 0 0x601 0 [] with stage := .running },
    ?_, ?_, ?_, ?_, ?_, ?_, ?_, ?_⟩ <;> decide +kernel

theorem witness_ExtentCommands_4 : ∃ (s : State) (ch : _) (c : _), Starts s ch 0x0602 c ∧ le c.body 0 2 ≤ 4095 ∧ ((∀ x, ext? s (le c.body 0 2) = some x → 8 ≤ ch → ch < 72 → x.td = c.td)) :=
  ⟨wc w0 (mc 9 0x602 1 (leBytes 7 2)), 9, mc 9 0x602 1 (leBytes 7 2),
    by unfold Starts; decide +kernel,
    by decide +kernel,
    (by intro x h _ _; cases h; rfl)⟩

theorem witness_ExtentCommands_5 : ∃ (s : State) (n : _) (c : _) (x : _), Starts s n 0x0603 c ∧ le c.body 2 2 ≠ 0 ∧ le c.body 0 2 ≤ 4095 ∧ ext? s (le c.body 0 2) = some x ∧ x.state = .active ∧ s.cmp.pendingExt = none ∧ tablesFit s x.td (chansAfter s (le c.body 0 2) x.td []) = true ∧ pagesFit s x.td (le c.body 0 2) (flashShare s x.td) true (chansAfter s (le c.body 0 2) x.td []) x.chan = true :=
  by
  refine ⟨wc { w0 with cmp := { Cmp.reset with exts := [(6, { ext0 with chan := [1] }), (7, ext0)] } } (mc 0 0x603 0 (leBytes 7 2 ++ leBytes 100 2)), 0, mc 0 0x603 0 (leBytes 7 2 ++ leBytes 100 2), ext0,
    by unfold Starts; decide +kernel, ?_, ?_, ?_, ?_, ?_, ?_, ?_⟩ <;> decide +kernel

theorem witness_ExtentCommands_6 : ∃ (s : State) (ch : _) (c : _) (x : _), Starts s ch 0x0603 c ∧ le c.body 2 2 ≠ 0 ∧ le c.body 0 2 ≤ 4095 ∧ ext? s (le c.body 0 2) = some x ∧ x.state = .draining ∧ s.cmp.pendingExt = none ∧ tablesFit s x.td (chansAfter s (le c.body 0 2) x.td []) = true ∧ pagesFit s x.td (le c.body 0 2) (flashShare s x.td) true (chansAfter s (le c.body 0 2) x.td []) x.chan = true ∧ s.now + le c.body 2 2 * 1000000 < x.tdl :=
  by
  refine ⟨wc { w0 with cmp := { Cmp.reset with exts := [(6, { ext0 with chan := [1] }), (7, { ext0 with state := .draining, tdl := 10 ^ 12 })] } } (mc 0 0x603 0 (leBytes 7 2 ++ leBytes 100 2)), 0, mc 0 0x603 0 (leBytes 7 2 ++ leBytes 100 2), { ext0 with state := .draining, tdl := 10 ^ 12 },
    by unfold Starts; decide +kernel, ?_, ?_, ?_, ?_, ?_, ?_, ?_, ?_⟩ <;> decide +kernel

theorem witness_ExtentCommands_7 : ∃ (s : State) (e : _) (cid : _) (c : _) (x : _), s.cmp.pendingExt = some (e, cid, true) ∧ handedOver s = true ∧ ext? s e = some x ∧ cmd? s cid = some c ∧ c.discard = false ∧ s.cmp.substWait = [] :=
  by
  refine ⟨wc (pend w0 7 0 true) { mc 0 0x603 0 [] with stage := .running }, 7, 0, { mc 0 0x603 0 [] with stage := .running }, ext0,
    ?_, ?_, ?_, ?_, ?_, ?_⟩ <;> decide +kernel

theorem witness_ExtentRelease_1 : ∃ (s : State) (e : _) (x : _), ext? s e = some x ∧ x.state = .draining ∧ x.tdl ≤ s.now ∧ (∀ d ∈ s.seqs, d.2.ext ≠ e) ∧ ((∀ q ∈ s.net.qps, q.td = x.td → hostOf s q.peer ≠ x.host)) ∧ onNode s x.td ≤ sumOthers s e (fun y => y.td == x.td) (·.qpq) :=
  by
  refine ⟨{ exts w0 { ext0 with state := .draining, tdl := 5 } with seqs := [] }, 7, { ext0 with state := .draining, tdl := 5 },
    ?_, ?_, ?_, ?_, ?_, ?_⟩ <;> decide +kernel

theorem witness_ExtentRelease_2 : ∃ (s : State) (td : Nat) (seqn : Nat) (page : Nat) (p : PageLoc) (d : SeqD) (x : Ext) (f : Nat), evacLoc s td seqn page = some p ∧ p.record = none ∧ seq? s td seqn = some d ∧ ext? s d.ext = some x ∧ x.state = .active ∧ (ch s (frChan p.leaf.frame)).releasing = some td ∧ locMoving s td p = false ∧ placeLoc s td p none = some f :=
  by
  obtain ⟨f, hf⟩ := place_some { w0 with cmp := { Cmp.reset with exts := [(7, { ext0 with chan := [1] })] }, mem := { w0.mem with chans := [(0, { Ch.idle with releasing := some 1 })] } } 1 5 0 none 1
    (by simp [placeChans, w0, wsq, ext0, codeChan, lookD, look, up0, State.reset, Floor.reset]) (by decide +kernel)
  refine ⟨_, 1, 5, 0, { seqn := 5, pix := 0, record := none, leaf := leaf0 }, sq0, { ext0 with chan := [1] }, f, ?_, ?_, ?_, ?_, ?_, ?_, ?_, hf⟩ <;> decide +kernel

theorem witness_ExtentRelease_3 : ∃ (s : State) (c : _) (td : _), (ch s c).releasing = some td ∧ (∀ p ∈ domPages s td, frChan p.leaf.frame ≠ c) ∧ (∀ g ∈ s.mem.chgs, c ∉ chgChans g) ∧ ((∀ e ∈ s.cmp.exts, e.2.state = .draining → c ∉ e.2.chan)) :=
  by
  refine ⟨{ w0 with seqs := [], mem := { w0.mem with chans := [(0, { Ch.idle with releasing := some 1 })] } }, 0, 1,
    ?_, ?_, ?_, ?_⟩ <;> decide +kernel

theorem witness_ExtentRelease_4 : ∃ (s : State) (e : _) (x : _), ext? s e = some x ∧ x.state = .revoked ∧ (∀ c ∈ x.chan, (ch s c).releasing = none) ∧ (∀ k ∈ x.clus, (clus s k).leaving = false ∧ (clus s k).dirty = false) ∧ s.cmp.pendingExt = none :=
  by
  refine ⟨{ exts w0 { ext0 with state := .revoked } with seqs := [] }, 7, { ext0 with state := .revoked },
    ?_, ?_, ?_, ?_, ?_⟩ <;> decide +kernel


/-! ### Witnesses, part 4 -/

def migOut : Mig := { Mig.fresh false 9 16385 0 (some 0) with tfwd := 0 }
def sqM (st : SeqState) (m : Option Mig) : SeqD := { sq0 with state := st, mig := m }
def sqE : SeqD := { sq0 with l1 := [], l2 := [], leaves := [] }
def withSess (s : State) : State := { s with net := { s.net with sess := [sess1] } }
def exp0 : Exp :=
  { cmd := 0, since := 0, newep := 1, xid := 0, speer := 9, hostDma := true, qpn := 0, key := 0, addr := 0, cleared := [], records := 2, bytes := 232
    written := true }
def expBody : List Byte := sref ++ zeros 4 ++ leBytes 0 4 ++ leBytes 1 4 ++ leBytes 9 4 ++ [1] ++ zeros 19 ++ leBytes 232 8
def impBody : List Byte := leBytes (svaOf 1 6 0) 8 ++ leBytes 7 2 ++ zeros 14 ++ leBytes 9 4 ++ [1] ++ zeros 19 ++ leBytes 1 8
def impBody5 : List Byte := leBytes (svaOf 1 5 0) 8 ++ leBytes 7 2 ++ zeros 14 ++ leBytes 9 4 ++ [1] ++ zeros 19 ++ leBytes 232 8
def recHdr (rtype blen index : Nat) : List Byte :=
  leBytes (rtype * 2 ^ 56 + 2 ^ 52 + blen) 8 ++ leBytes (svaOf 1 5 0) 8 ++ leBytes (1 * 2 ^ 32) 8 ++ leBytes 0 8 ++ leBytes index 8 ++ leBytes 0 8
    ++ leBytes 0xFFFFFFFF 8 ++ leBytes 0x20040000 8
/-- A record with a right tag over a body of zeros. -/
def recOf (rtype blen index : Nat) : List Byte :=
  recHdr rtype blen index ++ zeros blen ++ beBytes (gcmTag 2 (recIv 0 index) (recHdr rtype blen index) (zeros blen)).toNat 16
def impCmd (index : Nat) (part : List Byte) : Cmd :=
  { mc 9 0x606 1 impBody5 with stage := .running, todo := [0, 0, index, 1, 0], part := part }
def impState (c : Cmd) : State := withSess (wc (wsq sqE) c)
def slot0' : Slot := Slot.fresh 1 0
def slots (s : State) (x : Slot) : State := { s with sec := { s.sec with slots := [(0, x)] } }
def sec0 (f : Sec → Sec) : State := { up0 with sec := f { Sec.reset with identity := true }, boot := { up0.boot with pcieUp := true } }
def secD (td : Nat) (d : Dom) (f : Sec → Sec) : State := { sec0 f with doms := [(td, d)] }
def ide0 : Ide := { txKeys := [(1, 5)], rxKeys := [], txSet := none, rxSet := none }

theorem witness_MigrationAtSource_1 : ∃ (s : State) (ch : _) (c : _) (d : _) (q : _), Starts s ch 0x0604 c ∧ Names s c d ∧ d.state = .own ∧ qp? s (le c.body 20 4) = some q ∧ q.td = d.td ∧ q.peer = le c.body 16 4 ∧ q.state = .ready ∧ tcheckPage s d (mappedPages d) = none :=
  by
  refine ⟨wc (qps w0 [qp1]) (mc 9 0x604 1 (sref ++ zeros 4 ++ leBytes 9 4 ++ leBytes 16385 4)), 9, mc 9 0x604 1 (sref ++ zeros 4 ++ leBytes 9 4 ++ leBytes 16385 4), sq0, qp1,
    by unfold Starts; decide +kernel, by unfold Names; decide +kernel, ?_, ?_, ?_, ?_, ?_, ?_⟩ <;> decide +kernel

theorem witness_MigrationAtSource_2 : ∃ (s : State) (td : _) (seqn : _) (d : _) (m : _) (q : _), seq? s td seqn = some d ∧ d.mig = some m ∧ d.state = .handoff ∧ m.handoffSent = false ∧ busySeq s td seqn = false ∧ openAppends s td seqn = [] ∧ qp? s m.qpn = some q ∧ q.state = .ready ∧ tcheckPage s d (mappedPages d) = none :=
  by
  refine ⟨qps (wsq (sqM .handoff (some migOut))) [qp1], 1, 5, sqM .handoff (some migOut), migOut, qp1,
    ?_, ?_, ?_, ?_, ?_, ?_, ?_, ?_, ?_⟩ <;> decide +kernel

theorem witness_MigrationAtSource_3 : ∃ (s : State) (td : _) (seqn : _) (d : _) (m : _) (c : _), seq? s td seqn = some d ∧ d.td = td ∧ d.seqn = seqn ∧ d.mig = some m ∧ d.state = .migrating ∧ m.incoming = false ∧ m.progress + cmpMtime s ≤ s.now ∧ claimQuiet s m = true ∧ m.cmd = some c.id ∧ cmd? s c.id = some c ∧ c.discard = false ∧ ((∀ h ∈ s.att.handoffHeld, ¬(h.td = td ∧ h.seqn = seqn))) :=
  by
  refine ⟨wc (wsq (sqM .migrating (some migOut))) { mc 9 0x604 1 [] with stage := .running }, 1, 5, sqM .migrating (some migOut), migOut, { mc 9 0x604 1 [] with stage := .running },
    ?_, ?_, ?_, ?_, ?_, ?_, ?_, ?_, ?_, ?_, ?_, (by intro h hh; cases hh)⟩ <;> decide +kernel

theorem witness_MigrationAtSource_4 : ∃ (s : State) (td : _) (seqn : _) (d : _) (m : _), seq? s td seqn = some d ∧ d.td = td ∧ d.seqn = seqn ∧ d.mig = some m ∧ d.state = .forwarded ∧ m.tfwd + cmpFwdhold s ≤ s.now ∧ claimQuiet s m = true ∧ d.exp = none ∧ m.cmd = none ∧ mappedPages d = [] ∧ Settled s :=
  by
  refine ⟨{ wsq { sqE with state := .forwarded, mig := some { migOut with cmd := none } } with now := 10 ^ 12 }, 1, 5, { sqE with state := .forwarded, mig := some { migOut with cmd := none } }, { migOut with cmd := none },
    ?_, ?_, ?_, ?_, ?_, ?_, ?_, ?_, ?_, ?_, by unfold Settled; decide +kernel⟩ <;> decide +kernel

theorem witness_ExportAndImport_1 : ∃ (s : State) (ch : _) (c : _) (d : _) (x : _) (bad : _), Starts s ch 0x0605 c ∧ Settled s ∧ Names s c d ∧ byteAt c.body 28 = 1 ∧ 8 ≤ ch ∧ ch < 72 ∧ d.state = .own ∧ d.exp = none ∧ le c.body 16 4 = 0 ∧ sess? s false d.td (le c.body 24 4) = some x ∧ (∀ p ∈ mappedPages d, (exportPage s d bad p).1 ≠ 3 ∧ ∀ k, walk s d p ≠ .tcheck k) ∧ let bs := (exportRecords s d bad x.exportKey x.xid (le c.body 20 4) 0).1; bs.length ≤ le c.body 48 8 ∧ dmaStopped s (chanFn ch) = false :=
  by
  refine ⟨withSess (wc (wsq sqE) (mc 9 0x605 1 expBody)), 9, mc 9 0x605 1 expBody, sqE, sess1, [],
    by unfold Starts; decide +kernel, by unfold Settled; decide +kernel, by unfold Names; decide +kernel, ?_, ?_, ?_, ?_, ?_, ?_, ?_, (by intro p hp; cases hp), (by
      refine ⟨?_, by decide +kernel⟩
      have h : ∀ (key : BitVec 256) (iv i : Nat) (hd b : List Byte), (sealRecord key iv i hd b).length = hd.length + b.length + 16 := by
        intro key iv i hd b
        simp [sealRecord, fit, beBytes, leBytes]
        omega
      have e : exportPages sqE 0 = [] := rfl
      have z : le (mc 9 0x605 1 expBody).body 16 4 = 0 := by decide +kernel
      simp only [exportRecords, e, List.length_append, h, List.zipIdx_nil, List.map_nil, List.flatMap_nil, List.length_nil]
      decide +kernel)⟩ <;> decide +kernel

theorem witness_ExportAndImport_2 : ∃ (s : State) (td : _) (seqn : _) (d : _) (e : _) (c : _), seq? s td seqn = some d ∧ d.exp = some e ∧ e.hostDma = true ∧ cmd? s e.cmd = some c ∧ c.discard = false :=
  by
  refine ⟨wc (wsq { sq0 with exp := some exp0 }) { mc 9 0x605 1 [] with stage := .running }, 1, 5, { sq0 with exp := some exp0 }, exp0, { mc 9 0x605 1 [] with stage := .running },
    ?_, ?_, ?_, ?_, ?_⟩ <;> decide +kernel

theorem witness_ExportAndImport_3 : ∃ (s : State) (td : _) (seqn : _) (ok : _) (d : _) (e : _) (c : _), seq? s td seqn = some d ∧ d.exp = some e ∧ e.written = true ∧ ((e.hostDma = true → ok = true)) ∧ cmd? s e.cmd = some c ∧ c.discard = false :=
  by
  refine ⟨wc (wsq { sq0 with exp := some exp0 }) { mc 9 0x605 1 [] with stage := .running }, 1, 5, true, { sq0 with exp := some exp0 }, exp0, { mc 9 0x605 1 [] with stage := .running },
    ?_, ?_, ?_, ?_, ?_, ?_⟩ <;> decide +kernel

theorem witness_ExportAndImport_4 : ∃ (s : State) (ch : _) (c : _) (x : _), Starts s ch 0x0606 c ∧ le c.body 0 8 % 2 ^ 40 = 0 ∧ byteAt c.body 28 = 1 ∧ 8 ≤ ch ∧ ch < 72 ∧ let a := Sva.ofNat (le c.body 0 8); a.td = c.td ∧ ext? s (le c.body 8 2) = some x ∧ x.td = c.td ∧ x.state = .active ∧ (sess? s false c.td (le c.body 24 4)).isSome = true ∧ seq? s c.td a.seqn = none ∧ le c.body 16 4 = 0 ∧ descRoom s c.td (seqKey c.td a.seqn) = true ∧ le c.body 48 8 ≠ 0 ∧ dmaStopped s (chanFn ch) = false :=
  by
  refine ⟨withSess (wc w0 (mc 9 0x606 1 impBody)), 9, mc 9 0x606 1 impBody, ext0,
    by unfold Starts; decide +kernel, ?_, ?_, ?_, ?_, by dsimp only; decide +kernel⟩ <;> decide +kernel

theorem witness_ExportAndImport_5 : ∃ (s : State) (ch : _) (c : _) (bs : _) (d : _) (x : _), RecordFits s c bs d x ∧ s.mbx.cmds.find? (fun c => c.ch == ch && c.code == 0x0606 && c.stage == .running && (frontRecord c.part == some bs || importDead s c || (Imp.ofCmd c).failed != 0)) = some c ∧ (Imp.ofCmd c).failed = 0 ∧ nbits (le bs 0 8) 63 56 = 0x5A ∧ (Imp.ofCmd c).index ≠ 0 ∧ nbits (le bs 0 8) 31 0 = 8 ∧ d.exp = none ∧ d.mig = none :=
  by
  refine ⟨impState (impCmd 1 (recOf 0x5A 8 1)), 9, impCmd 1 (recOf 0x5A 8 1), recOf 0x5A 8 1, sqE, sess1,
    (by refine ⟨rfl, rfl, ?_, ?_, ?_, ?_, ?_, ?_, ?_, ?_, ?_, ?_, by set_option maxRecDepth 8000 in exact rfl⟩ <;> decide +kernel), (by
      have h : frontRecord (impCmd 1 (recOf 0x5A 8 1)).part = some (recOf 0x5A 8 1) := rfl
      have g : (impState (impCmd 1 (recOf 0x5A 8 1))).mbx.cmds = [impCmd 1 (recOf 0x5A 8 1)] := rfl
      rw [g, List.find?_cons, h]
      simp [impCmd, mc]), ?_, ?_, ?_, ?_, ?_, ?_⟩ <;> decide +kernel

theorem witness_ExportAndImport_6 : ∃ (s : State) (ch : _) (c : _) (bs : _) (d : _) (x : _), RecordFits s c bs d x ∧ s.mbx.cmds.find? (fun c => c.ch == ch && c.code == 0x0606 && c.stage == .running && (frontRecord c.part == some bs || importDead s c || (Imp.ofCmd c).failed != 0)) = some c ∧ (Imp.ofCmd c).failed = 0 ∧ nbits (le bs 0 8) 63 56 = 0x58 ∧ (Imp.ofCmd c).index = 0 ∧ nbits (le bs 0 8) 31 0 = 64 ∧ d.exp = none ∧ d.mig = none ∧ (frontRecord (c.part.drop bs.length)).isSome = true :=
  by
  refine ⟨impState (impCmd 0 (recOf 0x58 64 0 ++ recOf 0x5A 8 1)), 9, impCmd 0 (recOf 0x58 64 0 ++ recOf 0x5A 8 1), recOf 0x58 64 0, sqE, sess1,
    (by refine ⟨rfl, rfl, ?_, ?_, ?_, ?_, ?_, ?_, ?_, ?_, ?_, ?_, by set_option maxRecDepth 8000 in exact rfl⟩ <;> decide +kernel), (by
      have l : (recOf 0x58 64 0).length = 144 := by decide +kernel
      have h : frontRecord (impCmd 0 (recOf 0x58 64 0 ++ recOf 0x5A 8 1)).part = some (recOf 0x58 64 0) := by
        unfold frontRecord
        rw [show recLen (impCmd 0 (recOf 0x58 64 0 ++ recOf 0x5A 8 1)).part = some 144 by decide +kernel]
        exact (if_pos (by decide +kernel)).trans (congrArg some (List.take_left' l))
      have g : (impState (impCmd 0 (recOf 0x58 64 0 ++ recOf 0x5A 8 1))).mbx.cmds = [impCmd 0 (recOf 0x58 64 0 ++ recOf 0x5A 8 1)] := rfl
      rw [g, List.find?_cons, h]
      simp [impCmd, mc]), ?_, ?_, ?_, ?_, ?_, ?_, ?_⟩ <;> decide +kernel

theorem witness_ReportSlots_1 : ∃ (s : State) (ch : _) (c : _) (k : _), Starts s ch 0x0701 c ∧ s.sec.identity = true ∧ ((byteAt c.body 4 % 2 = 1 → ch < 8)) ∧ ((byteAt c.body 4 % 2 = 0 → (dom s c.td).sealed = true)) ∧ freeSlot? s = some k :=
  by
  refine ⟨wc (sec0 id) (mc 0 0x701 0 ([0, 0, 0, 0, 1])), 0, mc 0 0x701 0 ([0, 0, 0, 0, 1]), 0,
    by unfold Starts; decide +kernel, ?_, ?_, ?_, ?_⟩ <;> decide +kernel

theorem witness_ReportSlots_2 : ∃ (s : State) (slot : _) (x : _) (c : _), look s.sec.slots slot = some x ∧ x.signing = some c.id ∧ slot ∈ signingNow s ∧ s.up = true ∧ cmd? s c.id = some c ∧ c.discard = false :=
  by
  refine ⟨wc (slots up0 { slot0' with signing := some 0 }) { mc 8 0x701 0 [] with stage := .running }, 0, { slot0' with signing := some 0 }, { mc 8 0x701 0 [] with stage := .running },
    ?_, ?_, (by
      have h : (wc (slots up0 { slot0' with signing := some 0 }) { mc 8 0x701 0 [] with stage := .running }).sec.slots = [(0, { slot0' with signing := some 0 })] := rfl
      simp [signingNow, h]), ?_, ?_, ?_⟩ <;> decide +kernel

theorem witness_ReportSlots_3 : ∃ (s : State) (ch : _) (c : _) (bs : _), Starts s ch 0x0703 c ∧ (byteAt c.body 4 = 1 ∧ bs = s.boot.certs ∨ byteAt c.body 4 = 2 ∧ bs = s.sec.aliasCert ∨ (∃ x, slot? s (le c.body 0 4) c.td = some x ∧ x.signing = none ∧ (byteAt c.body 4 = 0 ∧ bs = x.report ∨ byteAt c.body 4 = 3 ∧ bs = x.out))) ∧ bs ≠ [] ∧ le c.body 12 4 ≤ 4032 ∧ le c.body 8 4 + le c.body 12 4 ≤ bs.length :=
  by
  refine ⟨wc (slots up0 { slot0' with report := [7, 8] }) (mc 9 0x703 1 (zeros 12 ++ leBytes 2 4)), 9, mc 9 0x703 1 (zeros 12 ++ leBytes 2 4), [7, 8],
    by unfold Starts; decide +kernel, Or.inr (Or.inr ⟨{ slot0' with report := [7, 8] }, by decide +kernel, by decide +kernel, by decide +kernel⟩), ?_, ?_, ?_⟩ <;> decide +kernel

theorem witness_ReportSlots_4 : ∃ (s : State) (ch : _) (c : _) (x : _), Starts s ch 0x0704 c ∧ le c.body 0 4 ≠ 0 ∧ slot? s (le c.body 0 4) c.td = some x ∧ le c.body 12 4 ≤ 4032 ∧ le c.body 8 4 + le c.body 12 4 ≤ 131072 :=
  by
  refine ⟨wc (slots up0 { slot0' with num := 16 }) (mc 9 0x704 1 (leBytes 16 4 ++ zeros 4 ++ leBytes 127040 4 ++ leBytes 4032 4)), 9, mc 9 0x704 1 (leBytes 16 4 ++ zeros 4 ++ leBytes 127040 4 ++ leBytes 4032 4), { slot0' with num := 16 },
    by unfold Starts; decide +kernel, ?_, ?_, ?_, ?_⟩ <;> decide +kernel

theorem witness_ReportSlots_5 : ∃ (s : State) (ch : _) (c : _) (k : _), Starts s ch 0x0704 c ∧ le c.body 0 4 = 0 ∧ freeSlot? s = some k ∧ le c.body 12 4 ≤ 4032 ∧ le c.body 8 4 + le c.body 12 4 ≤ 131072 :=
  by
  refine ⟨wc up0 (mc 9 0x704 1 (zeros 16)), 9, mc 9 0x704 1 (zeros 16), 0,
    by unfold Starts; decide +kernel, ?_, ?_, ?_, ?_⟩ <;> decide +kernel

theorem witness_ReportSlots_6 : ∃ (s : State) (ch : _) (c : _), Starts s ch 0x0705 c ∧ s.sec.identity = true :=
  ⟨wc (sec0 id) (mc 9 0x705 1 []), 9, mc 9 0x705 1 [],
    by unfold Starts; decide +kernel,
    by decide +kernel⟩

theorem witness_ReportSlots_7 : ∃ (s : State) (slot : _) (x : _), look s.sec.slots slot = some x ∧ x.signing = none ∧ s.up = true ∧ x.since + 10000000000 ≤ s.now :=
  by
  refine ⟨{ slots up0 slot0' with now := 10 ^ 10 }, 0, slot0',
    ?_, ?_, ?_, ?_⟩ <;> decide +kernel

theorem witness_SessionKeys_1 : ∃ (s : State) (ch : _) (c : _) (x : _), Starts s ch 0x0702 c ∧ s.sec.identity = true ∧ (dom s c.td).sealed = true ∧ slot? s (le c.body 0 4) c.td = some x ∧ x.signing = none ∧ le c.body 4 4 ≤ 131072 ∧ (∀ d ∈ s.seqs, d.2.exp = none) ∧ let up := slotBytes x.upload (le c.body 4 4); let rep := up.take (reportLen up); let peer := nbits (be rep 16 8) 57 40; let e := Config.kemEncaps (slice rep (rep.length - 49856 - 1568) 1568) (Config.trng 256 s.draws % 2 ^ 256); sessionFull s false c.td peer = false :=
  by
  refine ⟨wc (slots (secD 1 { Dom.reset with sealed := true } id) slot0') (mc 9 0x702 1 (zeros 8)), 9, mc 9 0x702 1 (zeros 8), slot0',
    by unfold Starts; decide +kernel, ?_, ?_, ?_, ?_, ?_, ?_, by dsimp only; decide +kernel⟩ <;> decide +kernel

theorem witness_SessionKeys_2 : ∃ (s : State) (ch : _) (c : _) (x : _), Starts s ch 0x0706 c ∧ byteAt c.body 4 ≤ 2 ∧ slot? s (le c.body 0 4) c.td = some x ∧ ((x.mgmt = true ∧ ch < 8 ∨ x.mgmt = false ∧ (dom s c.td).sealed = true)) ∧ x.report ≠ [] ∧ le c.body 8 4 ≤ 131072 ∧ (∀ d ∈ s.seqs, d.2.exp = none) ∧ let up := slotBytes x.upload (le c.body 8 4); let secret := sessionSecret (Config.kemDecaps x.dk (up.take 1568)) x.report (up.take 1568) (if x.mgmt then 0 else x.td) x.peer; openOk s x (byteAt c.body 4) up = true ∧ sessionFull s x.mgmt x.td x.peer = false ∧ ((∀ e ∈ s.sec.slots, e.1 = le c.body 0 4 / 2 ^ 28 → e.2.signing = none)) :=
  by
  refine ⟨wc (slots (secD 1 { Dom.reset with sealed := true } id) { slot0' with report := [1] }) (mc 9 0x706 1 (zeros 4 ++ [1, 0, 0, 0] ++ leBytes 1568 4)), 9, mc 9 0x706 1 (zeros 4 ++ [1, 0, 0, 0] ++ leBytes 1568 4), { slot0' with report := [1] },
    by unfold Starts; decide +kernel, ?_, ?_, ?_, ?_, ?_, ?_, by dsimp only; decide +kernel⟩ <;> decide +kernel

theorem witness_SessionKeys_3 : ∃ (s : State) (ch : _) (c : _) (x : _), Starts s ch 0x0706 c ∧ byteAt c.body 4 ≤ 2 ∧ slot? s (le c.body 0 4) c.td = some x ∧ ((x.mgmt = true ∧ ch < 8 ∨ x.mgmt = false ∧ (dom s c.td).sealed = true)) ∧ x.report ≠ [] ∧ le c.body 8 4 ≤ 131072 ∧ openOk s x (byteAt c.body 4) (slotBytes x.upload (le c.body 8 4)) = false ∧ ((∀ e ∈ s.sec.slots, e.1 = le c.body 0 4 / 2 ^ 28 → e.2.signing = none)) :=
  by
  refine ⟨wc (slots (secD 1 { Dom.reset with sealed := true } id) { slot0' with td := 0, mgmt := true, report := [1] }) (mc 0 0x706 0 (zeros 4 ++ [1, 0, 0, 0] ++ leBytes 1567 4)), 0, mc 0 0x706 0 (zeros 4 ++ [1, 0, 0, 0] ++ leBytes 1567 4), { slot0' with td := 0, mgmt := true, report := [1] },
    by unfold Starts; decide +kernel, ?_, ?_, ?_, ?_, ?_, ?_, ?_⟩ <;> decide +kernel

theorem witness_SessionKeys_4 : ∃ (s : State) (ch : _) (c : _) (x : _), Starts s ch 0x0706 c ∧ slot? s (le c.body 0 4) c.td = some x ∧ ((∀ e ∈ s.sec.slots, e.1 = le c.body 0 4 / 2 ^ 28 → e.2.signing = none)) ∧ (2 < byteAt c.body 4 ∨ x.mgmt = false ∧ (dom s c.td).sealed = false ∨ (x.mgmt = true ∧ ch < 8 ∨ x.mgmt = false ∧ (dom s c.td).sealed = true) ∧ (x.report = [] ∨ 131072 < le c.body 8 4)) :=
  by
  refine ⟨wc (slots (secD 1 Dom.reset id) { slot0' with report := [1] }) (mc 9 0x706 1 (zeros 4 ++ [2, 0, 0, 0] ++ leBytes 1568 4)), 9, mc 9 0x706 1 (zeros 4 ++ [2, 0, 0, 0] ++ leBytes 1568 4), { slot0' with report := [1] },
    by unfold Starts; decide +kernel, ?_, ?_, ?_⟩ <;> decide +kernel

theorem witness_SessionKeys_5 : ∃ (s : State) (ch : _) (c : _), Starts s ch 0x0707 c ∧ (∀ d ∈ s.seqs, d.2.exp = none) :=
  ⟨wc w0 (mc 9 0x707 1 []), 9, mc 9 0x707 1 [],
    by unfold Starts; decide +kernel,
    by decide +kernel⟩

theorem witness_SessionKeys_6 : ∃ (s : State), s.up = true :=
  ⟨up0,
    by decide +kernel⟩

theorem witness_SessionKeys_7 : ∃ (s : State) (ch : _) (c : _), Starts s ch 0x0708 c :=
  ⟨wc up0 (mc 0 0x708 0 []), 0, mc 0 0x708 0 [],
    by unfold Starts; decide +kernel⟩

theorem witness_SessionKeys_8 : ∃ (s : State) (ch : _) (c : _), Starts s ch 0x0709 c :=
  ⟨wc up0 (mc 0 0x709 0 []), 0, mc 0 0x709 0 [],
    by unfold Starts; decide +kernel⟩

theorem witness_SpdmMessages_1 : ∃ (s : State), spdmReady s = true :=
  ⟨sec0 id,
    by decide +kernel⟩

theorem witness_SpdmMessages_2 : ∃ (s : State), spdmReady s = true ∧ s.sec.spdm = .version :=
  ⟨sec0 (fun x => { x with spdm := .version }),
    by decide +kernel,
    by decide +kernel⟩

theorem witness_SpdmMessages_3 : ∃ (s : State), spdmReady s = true ∧ s.sec.spdm = .capabilities :=
  ⟨sec0 (fun x => { x with spdm := .capabilities }),
    by decide +kernel,
    by decide +kernel⟩

theorem witness_SpdmMessages_4 : ∃ (s : State), spdmReady s = true ∧ s.sec.spdm = .algorithms :=
  ⟨sec0 (fun x => { x with spdm := .algorithms }),
    by decide +kernel,
    by decide +kernel⟩

theorem witness_SpdmMessages_5 : ∃ (s : State), spdmReady s = true ∧ s.sec.spdm = .algorithms :=
  ⟨sec0 (fun x => { x with spdm := .algorithms }),
    by decide +kernel,
    by decide +kernel⟩

theorem witness_SpdmMessages_6 : ∃ (s : State), spdmReady s = true ∧ s.sec.spdm = .algorithms :=
  ⟨sec0 (fun x => { x with spdm := .algorithms }),
    by decide +kernel,
    by decide +kernel⟩

theorem witness_SpdmMessages_7 : ∃ (s : State), spdmReady s = true ∧ s.sec.spdm = .algorithms ∧ s.sec.handshake = true :=
  by
  refine ⟨sec0 (fun x => { x with spdm := .algorithms, handshake := true }),
    ?_, ?_, ?_⟩ <;> decide +kernel

theorem witness_SpdmMessages_8 : ∃ (s : State), spdmReady s = true ∧ s.sec.spdm = .algorithms ∧ s.sec.secured = true :=
  by
  refine ⟨sec0 (fun x => { x with spdm := .algorithms, secured := true }),
    ?_, ?_, ?_⟩ <;> decide +kernel

theorem witness_SpdmMessages_9 : ∃ (s : State) (m : List Byte) (i : Instr), i ∈ [Instr.getDigests m, .getCertificate m, .challenge m, .getMeasurements m, .keyExchange m, .finish m, .endSession m] ∧ spdmReady s = true ∧ s.sec.spdm ≠ .algorithms :=
  by
  refine ⟨sec0 id, [], .endSession [],
    ?_, ?_, ?_⟩ <;> decide +kernel

theorem witness_HostPathSecurity_1 : ∃ (s : State) (stream : _) (set : _), spdmReady s = true ∧ s.sec.secured = true ∧ stream < 65 ∧ set < 2 :=
  by
  refine ⟨sec0 (fun x => { x with secured := true }), 64, 1,
    ?_, ?_, ?_, ?_⟩ <;> decide +kernel

theorem witness_HostPathSecurity_2 : ∃ (s : State) (stream : Nat) (tx : Bool) (set : Nat), spdmReady s = true ∧ s.sec.secured = true ∧ let x := lookD Ide.fresh s.sec.ide stream; ((look (if tx then x.txKeys else x.rxKeys) set).isSome = true) :=
  ⟨sec0 (fun x => { x with secured := true, ide := [(64, ide0)] }), 64, true, 1,
    by decide +kernel,
    by decide +kernel,
    by dsimp only; decide +kernel⟩

theorem witness_HostPathSecurity_3 : ∃ (s : State) (stream : Nat) (tx : Bool) (set : Nat), spdmReady s = true ∧ s.sec.secured = true ∧ (look (if tx then (lookD Ide.fresh s.sec.ide stream).txKeys else (lookD Ide.fresh s.sec.ide stream).rxKeys) set = none) :=
  by
  refine ⟨sec0 (fun x => { x with secured := true, ide := [(64, ide0)] }), 64, false, 1,
    ?_, ?_, ?_⟩ <;> decide +kernel

theorem witness_HostPathSecurity_4 : ∃ (s : State) (vf : _), spdmReady s = true ∧ s.sec.secured = true ∧ vf < 64 ∧ (dom s vf).sealed = true ∧ (dom s vf).tdi = .unlocked :=
  by
  refine ⟨secD 63 { Dom.reset with sealed := true } (fun x => { x with secured := true }), 63,
    ?_, ?_, ?_, ?_, ?_⟩ <;> decide +kernel

theorem witness_HostPathSecurity_5 : ∃ (s : State) (vf : _), spdmReady s = true ∧ s.sec.secured = true ∧ vf < 64 ∧ (dom s vf).sealed = false :=
  by
  refine ⟨sec0 (fun x => { x with secured := true }), 63,
    ?_, ?_, ?_, ?_⟩ <;> decide +kernel

theorem witness_HostPathSecurity_6 : ∃ (s : State) (vf : _), spdmReady s = true ∧ s.sec.secured = true ∧ vf < 64 ∧ (dom s vf).tdi = .locked :=
  by
  refine ⟨secD 63 { Dom.reset with tdi := .locked } (fun x => { x with secured := true }), 63,
    ?_, ?_, ?_, ?_⟩ <;> decide +kernel

theorem witness_HostPathSecurity_7 : ∃ (s : State) (vf : _), spdmReady s = true ∧ s.sec.secured = true ∧ vf < 64 :=
  by
  refine ⟨sec0 (fun x => { x with secured := true }), 63,
    ?_, ?_, ?_⟩ <;> decide +kernel

theorem witness_HostPathSecurity_8 : ∃ (s : State), s.pwr.powered = true :=
  ⟨up0,
    by decide +kernel⟩


/-! ### Witnesses, part 5 -/

def mv0 : Chg := { chgOf .move 1 5 0 0 1 none with id := 4 }
def pr0 : Chg := { chgOf .promote 1 5 0 8 1 none with id := 4, issued := true }
def cw0 : Chg := { chgOf .cow 1 5 0 0 1 none with id := 4 }
def de0 : Chg := { chgOf .demote 1 5 0 0 8 none with id := 4, issued := true }
def fp0 : FPage := { td := 1, data := [], side := none, cmp := 0, units := [], dec := none, bad := false, chan := 1, tgt := 1, block := 0, wseq := 1 }
def ft0 : FTarget :=
  { blocks := 2, perBlock := 200000, blk := [(0, { FBlock.fresh with erases := 1 })], queue := [], sinceLow := 0, timeouts := 0, order := 0, open_ := none }
def chgs (s : State) (l : List Chg) : State := { s with mem := { s.mem with chgs := l } }
def flash (s : State) (p : List (Nat × FPage)) (t : List (Nat × FTarget)) : State := { s with mem := { s.mem with pages := p, targets := t, flsCap := 16 } }
def leafF : Leaf := { leaf0 with tier := .flash, frame := 8 }
def sqS : SeqD := { sq0 with leaves := [(0, { leaf0 with tier := .shared })] }
def sqF : SeqD := { sq0 with leaves := [(0, leafF)] }
def stChan (s : State) (x : Ch) : State := { s with mem := { s.mem with chans := [(0, x)] } }
/-- A domain of one channel with 64 frames, all in use. -/
def full0 (d : SeqD) (x : Ext) : State :=
  { flash (exts (wsq d) x) [] [(9, ft0)] with
    floor := { Floor.reset with retired := [(0, 22976)] }
    mem := { (flash (exts (wsq d) x) [] [(9, ft0)]).mem with frames := (nats 64).map (fun k => (k, .used)) } }
def sqW (st : WakeState) (q i : List Nat) (d : SeqD) : SeqD := { d with wake := { Wake.idle with st := st, queue := q, issued := i } }
/-- The placement procedure on one channel, from the pair that the hash gives. -/
def pl (s : State) (c b0 : Nat) : Option Nat :=
  let pairs := (nats 9).map (fun k => 9 * c + (b0 + k) % 9)
  let try_ := fun (us : List Nat) => us.findSome? (fun u => (slotIn s u).map (frameOf u))
  match try_ (pairs.filter (fun u => codeUnit s u == .good)) with
  | some f => some f
  | none => try_ pairs
theorem place_pl (s : State) (td seqn pix c : Nat) (hl : placeChans s td = [c]) : ∃ b0 < 9, place s td seqn pix none = pl s c b0 := by
  refine ⟨Config.placeHash (dom s td).place.key (svaOf td seqn pix) % 2 ^ 64 % 2 ^ 16 % 9, Nat.mod_lt _ (by decide), ?_⟩
  unfold place pl
  simp only [hl, List.length_singleton, nats, List.range_one, List.flatMap_cons, List.flatMap_nil, List.append_nil, Nat.mod_one, List.getD_cons_zero, reduceCtorEq, if_false]
  all_goals rfl
theorem place_pl2 (s : State) (td seqn pix a c : Nat) (hl : placeChans s td = [a, c]) (hac : a ≠ c) :
    ∃ b0 < 9, place s td seqn pix (some a) = pl s c b0 := by
  refine ⟨Config.placeHash (dom s td).place.key (svaOf td seqn pix) % 2 ^ 64 % 2 ^ 16 % 9, Nat.mod_lt _ (by decide), ?_⟩
  unfold place pl
  simp only [hl, List.length_cons, List.length_nil]
  generalize hi : nbits (Config.placeHash (dom s td).place.key (svaOf td seqn pix) % 2 ^ 64) 63 32 * (0 + 1 + 1) / 2 ^ 32 = i
  have h2 : i % 2 = 0 ∨ i % 2 = 1 := by omega
  rcases h2 with h | h
  · have e1 : (i + 1) % 2 = 1 := by omega
    simp only [show nats (0 + 1 + 1) = [0, 1] from rfl, Nat.zero_add, Nat.reduceAdd, Nat.add_zero, List.flatMap_cons, List.flatMap_nil, List.append_nil, List.nil_append,
      h, e1, List.getD_cons_zero, List.getD_cons_succ, if_true, Option.some.injEq, hac, if_false]
    all_goals rfl
  · have e1 : (i + 1) % 2 = 0 := by omega
    simp only [show nats (0 + 1 + 1) = [0, 1] from rfl, Nat.zero_add, Nat.reduceAdd, Nat.add_zero, List.flatMap_cons, List.flatMap_nil, List.append_nil,
      h, e1, List.getD_cons_zero, List.getD_cons_succ, if_true, Option.some.injEq, hac, if_false]
    all_goals rfl
theorem place_none (s : State) (td seqn pix : Nat) (ex : Option Nat) (hl : placeChans s td = []) : place s td seqn pix ex = none := by
  unfold place
  simp [hl, nats]
def hold0 (streak : Nat) : State :=
  { w0 with doms := [(1, { Dom.reset with place := { Place.reset with state := .hold, holdUntil := 10 ^ 10, streak := streak } })] }
def fencedUnit : State := { w0 with floor := { Floor.reset with unit := [(0, .fenced)] } }
def loc0 : PageLoc := { seqn := 5, pix := 0, record := none, leaf := leaf0 }
theorem fenced_chans : placeChans fencedUnit 1 = [0] := by
  simp [placeChans, fencedUnit, w0, wsq, ext0, codeChan, lookD, look, Floor.reset]
def reb0 : State :=
  { exts w0 { ext0 with chan := [0, 1] } with doms := [(1, { Dom.reset with place := { Place.reset with state := .rebalance, rset := [0] } })] }
theorem reb_chans : placeChans reb0 1 = [0, 1] := by
  have h : (reb0.cmp.exts.flatMap (fun e => if e.2.td = 1 ∧ e.2.state = .active then e.2.chan else [])).filter (fun c => codeChan reb0 c == .good) = [0, 1] := by
    decide +kernel
  unfold placeChans
  dsimp only
  rw [h]
  exact List.mergeSort_of_pairwise (by decide)

theorem witness_LeafChanges_1 : ∃ (s : State) (cid : _) (c : _) (d : _) (l : _), chg? s cid = some c ∧ c.kind = .move ∧ c.rewritten = false ∧ c.record = none ∧ seq? s c.td c.seqn = some d ∧ leafOf d c.page = some l ∧ l.psn = false ∧ chgRetrains s c = false ∧ c.inPair = false ∧ (rdPage s.mem c.src 0 69632).bad = [] :=
  by
  refine ⟨chgs w0 [{ mv0 with dst := 0x10000 }], 4, { mv0 with dst := 0x10000 }, sq0, leaf0,
    ?_, ?_, ?_, ?_, ?_, ?_, ?_, ?_, ?_, rdPage_empty _ _ _ _ rfl rfl⟩ <;> decide +kernel

theorem witness_LeafChanges_2 : ∃ (s : State) (cid : _) (c : _) (d : _) (l : _), chg? s cid = some c ∧ c.kind = .move ∧ c.rewritten = false ∧ c.record = none ∧ seq? s c.td c.seqn = some d ∧ leafOf d c.page = some l ∧ chgRetrains s c = false ∧ ((c.inPair = true → c.issued = true)) ∧ (l.psn = true ∨ c.inPair = true) :=
  by
  refine ⟨chgs (wsq { sq0 with leaves := [(0, { leaf0 with psn := true })] }) [{ mv0 with issued := true }], 4, { mv0 with issued := true }, { sq0 with leaves := [(0, { leaf0 with psn := true })] }, { leaf0 with psn := true },
    ?_, ?_, ?_, ?_, ?_, ?_, ?_, ?_, ?_⟩ <;> decide +kernel

theorem witness_LeafChanges_3 : ∃ (s : State) (cid : _) (c : _) (d : _) (l : _), chg? s cid = some c ∧ c.kind = .cow ∧ c.cmp = 0 ∧ c.rewritten = false ∧ pageUsers s c.td c.seqn c.src = false ∧ chgPoisoned s c = false ∧ chgRetrains s c = false ∧ c.inPair = false ∧ (rdPage s.mem c.src 0 69632).bad = [] ∧ seq? s c.td c.seqn = some d ∧ leafOf d c.page = some l ∧ l.tier = .shared ∧ Settled s :=
  by
  refine ⟨chgs (wsq sqS) [{ cw0 with dst := 0x10000 }], 4, { cw0 with dst := 0x10000 }, sqS, { leaf0 with tier := .shared },
    ?_, ?_, ?_, ?_, ?_, ?_, ?_, ?_, rdPage_empty _ _ _ _ rfl rfl, ?_, ?_, ?_, by unfold Settled; decide +kernel⟩ <;> decide +kernel

theorem witness_LeafChanges_4 : ∃ (s : State) (cid : _) (c : _) (u : _), s.att.units.find? (fun x => x.2.contains (.copy cid)) = some u ∧ nextOp s u.1 = some (.copy cid) ∧ pairRuns s u.1 = true ∧ chg? s cid = some c ∧ chgPoisoned s c = false ∧ (rdPage s.mem c.src 0 69632).bad = [] ∧ Settled s :=
  by
  refine ⟨{ chgs (wsq sqS) [{ cw0 with issued := true }] with att := { Att.reset with units := [(0, [.copy 4])] } }, 4, { cw0 with issued := true }, (0, [.copy 4]),
    ?_, ?_, ?_, ?_, ?_, rdPage_empty _ _ _ _ rfl rfl, by unfold Settled; decide +kernel⟩ <;> decide +kernel

theorem witness_LeafChanges_5 : ∃ (s : State) (cid : _) (c : _), chg? s cid = some c ∧ c.rewritten = true ∧ (c.kind = .move ∨ c.kind = .demote) ∧ frameUsers s c.src = [] ∧ codeChan s (frChan c.src) = .good ∧ Settled s :=
  by
  refine ⟨chgs w0 [{ mv0 with rewritten := true }], 4, { mv0 with rewritten := true },
    ?_, ?_, ?_, ?_, ?_, by unfold Settled; decide +kernel⟩ <;> decide +kernel

theorem witness_LeafChanges_6 : ∃ (s : State) (cid : _) (c : _) (d : _) (l : _) (p : _), chg? s cid = some c ∧ c.kind = .promote ∧ c.issued = true ∧ c.rewritten = false ∧ c.record = none ∧ chgRetrains s c = false ∧ look s.mem.pages c.src = some p ∧ p.bad = false ∧ seq? s c.td c.seqn = some d ∧ leafOf d c.page = some l :=
  by
  refine ⟨flash (chgs (wsq sqF) [pr0]) [(8, fp0)] [], 4, pr0, sqF, leafF, fp0,
    ?_, ?_, ?_, ?_, ?_, ?_, ?_, ?_, ?_, ?_⟩ <;> decide +kernel

theorem witness_LeafChanges_7 : ∃ (s : State) (cid : _) (c : _) (d : _) (l : _) (p : _), chg? s cid = some c ∧ c.kind = .promote ∧ c.issued = true ∧ c.rewritten = false ∧ c.record = none ∧ chgRetrains s c = false ∧ look s.mem.pages c.src = some p ∧ seq? s c.td c.seqn = some d ∧ leafOf d c.page = some l ∧ l.tier = .flash ∧ codeChan s (frChan c.dst) = .good ∧ Settled s :=
  by
  refine ⟨flash (chgs (wsq sqF) [pr0]) [(8, fp0)] [], 4, pr0, sqF, leafF, fp0,
    ?_, ?_, ?_, ?_, ?_, ?_, ?_, ?_, ?_, ?_, ?_, by unfold Settled; decide +kernel⟩ <;> decide +kernel

theorem witness_LeafChanges_8 : ∃ (s : State) (cid : _) (c : _) (d : _) (l : _) (k : _) (x : _), chg? s cid = some c ∧ c.kind = .demote ∧ c.issued = true ∧ c.rewritten = false ∧ c.record = none ∧ programTarget s cid = some k ∧ chgRetrains s c = false ∧ Settled s ∧ seq? s c.td c.seqn = some d ∧ leafOf d c.page = some l ∧ let p := flashCopy (dom s c.td).geom c.td c.cmp c.src s.mem; p.2.bad = [] ∧ target? s (k / 8) (k % 8) = some x ∧ (writeBlock s (k / 8) (k % 8) (storedSize 0 true) x).isSome = true :=
  by
  refine ⟨flash (chgs w0 [de0]) [] [(9, { ft0 with queue := [(0, .program 4)] })], 4, de0, sq0, leaf0, 9, { ft0 with queue := [(0, .program 4)] },
    ?_, ?_, ?_, ?_, ?_, ?_, ?_, by unfold Settled; decide +kernel, ?_, ?_, (by
      dsimp only
      refine ⟨?_, by decide +kernel, ?_⟩
      · have hd : (flash (chgs w0 [de0]) [] [(9, { ft0 with queue := [(0, .program 4)] })]).mem.dram = [] := rfl
        have hc : (flash (chgs w0 [de0]) [] [(9, { ft0 with queue := [(0, .program 4)] })]).mem.chk = [] := rfl
        simp only [flashCopy, rdPage_empty _ _ _ _ hd hc, List.append_nil]
      · exact (by decide +kernel : (bestErased { ft0 with queue := [(0, .program 4)] }).isSome = true))⟩ <;> decide +kernel

theorem witness_LeafChanges_9 : ∃ (s : State) (cid : _) (c : _) (k : _), chg? s cid = some c ∧ c.kind = .demote ∧ c.issued = true ∧ c.rewritten = false ∧ programTarget s cid = some k ∧ chgRetrains s c = false :=
  by
  refine ⟨flash (chgs w0 [de0]) [] [(9, { ft0 with queue := [(0, .program 4)] })], 4, de0, 9,
    ?_, ?_, ?_, ?_, ?_, ?_⟩ <;> decide +kernel

theorem witness_DemotionAndStaging_1 : ∃ (s : State) (td : _) (seqn : _) (p : _) (d : _) (l : _) (e : _) (n : _) (k : _) (x : _), s.up = true ∧ (1024 * freeFrames s td < tierLo s td * poolFrames s td ∨ (dom s td).demoting = true) ∧ 1024 * (freeFrames s td + pendingDemotes s td) < tierHi s td * poolFrames s td ∧ tierHi s td * poolFrames s td ≤ 1024 * (freeFrames s td + pendingDemotes s td + 1) ∧ victim s td true = some (.page td seqn p) ∧ seq? s td seqn = some d ∧ walk s d p = .page l e ∧ l.tier ≠ .shared ∧ chooseLpn s d p = some n ∧ pickTarget s (storedSize 0 true) = some k ∧ look s.mem.targets k = some x :=
  by
  refine ⟨full0 sq0 ext0, 1, 5, 0, sq0, leaf0, leaf0, 0, 9, ft0,
    ?_, ?_, ?_, ?_, ?_, ?_, ?_, ?_, ?_, ?_, ?_⟩ <;> decide +kernel

theorem witness_DemotionAndStaging_2 : ∃ (s : State) (td : _), tierLo s td * poolFrames s td ≤ 1024 * freeFrames s td ∧ (dom s td).demoting = false :=
  ⟨w0, 1,
    by decide +kernel,
    by decide +kernel⟩

theorem witness_DemotionAndStaging_3 : ∃ (s : State) (td : _) (w : _) (seqn : _) (p : _) (d : _) (l : _) (e : _) (n : _) (k : _) (x : _), nextWake s td = some w ∧ seq? s td w.seqn = some w ∧ place s td w.seqn ((nextRead s w).getD 0) none = none ∧ victim s td false = some (.page td seqn p) ∧ seq? s td seqn = some d ∧ walk s d p = .page l e ∧ l.tier ≠ .shared ∧ chooseLpn s d p = some n ∧ pickTarget s (storedSize 0 true) = some k ∧ look s.mem.targets k = some x :=
  by
  refine ⟨full0 (sqW .idle [7] [] sq0) { ext0 with state := .draining }, 1, sqW .idle [7] [] sq0, 5, 0, sqW .idle [7] [] sq0, leaf0, leaf0, 0, 9, ft0,
    ?_, ?_, place_none _ _ _ _ _ (by simp [placeChans, full0, flash, exts, ext0]), ?_, ?_, ?_, ?_, ?_, ?_, ?_⟩ <;> decide +kernel

theorem witness_DemotionAndStaging_4 : ∃ (s : State) (td : Nat) (d : SeqD) (p : Nat) (l e : Leaf) (f : Nat) (fp : FPage) (x : FTarget), nextWake s td = some d ∧ seq? s td d.seqn = some d ∧ nextRead s d = some p ∧ walk s d p = .page l e ∧ e.tier = .flash ∧ e.psn = false ∧ l.tier ≠ .shared ∧ isMoving s td d.seqn p = false ∧ place s td d.seqn p none = some f ∧ look s.mem.pages e.frame = some fp ∧ fp.bad = false ∧ target? s fp.chan fp.tgt = some x ∧ (dom s td).staged < tierFwt s td :=
  by
  obtain ⟨f, hf⟩ := place_some (flash (wsq (sqW .staging [0] [] sqF)) [(8, fp0)] [(9, ft0)]) 1 5 0 none 0
    (by simp [placeChans, flash, wsq, ext0, codeChan, lookD, look, up0, State.reset, Floor.reset]) (by decide +kernel)
  refine ⟨_, 1, sqW .staging [0] [] sqF, 0, leafF, leafF, f, fp0, ft0, ?_, ?_, ?_, ?_, ?_, ?_, ?_, ?_, hf, ?_, ?_, ?_, ?_⟩ <;> decide +kernel

theorem witness_DemotionAndStaging_5 : ∃ (s : State) (td : _) (seqn : _) (page : _) (d : _), seq? s td seqn = some d ∧ d.td = td ∧ d.seqn = seqn ∧ page ∈ d.wake.issued ∧ ((∀ c ∈ s.mem.chgs, c.kind = .promote → c.td = td → c.seqn = seqn → c.page = page → c.rewritten = true)) :=
  by
  refine ⟨wsq (sqW .staging [] [3] sq0), 1, 5, 3, sqW .staging [] [3] sq0,
    ?_, ?_, ?_, ?_, ?_⟩ <;> decide +kernel

theorem witness_DemotionAndStaging_6 : ∃ (s : State) (td : _) (seqn : _) (d : _), seq? s td seqn = some d ∧ d.wake.st = .waiting ∧ d.wake.tstage + tierMinres s td ≤ s.now :=
  by
  refine ⟨wsq (sqW .waiting [] [] sq0), 1, 5, sqW .waiting [] [] sq0,
    ?_, ?_, ?_⟩ <;> decide +kernel

theorem witness_DemotionAndStaging_7 : ∃ (s : State) (td : _), s.up = true ∧ (dom s td).nextDecay ≤ s.now :=
  ⟨up0, 63,
    by decide +kernel,
    by decide +kernel⟩

theorem witness_FlashTargets_1 : ∃ (s : State) (c : _) (k : _) (x : _) (pr : _) (cid : _) (g : _) (p : _), target? s c k = some x ∧ nextFlashOp x = some (pr, .readChg cid) ∧ mayIssue s c pr x = true ∧ chg? s cid = some g ∧ look s.mem.pages g.src = some p ∧ p.chan = c ∧ p.tgt = k :=
  by
  refine ⟨flash (chgs w0 [pr0]) [(8, fp0)] [(9, { ft0 with queue := [(1, .readChg 4)] })], 1, 1, { ft0 with queue := [(1, .readChg 4)] }, 1, 4, pr0, fp0,
    ?_, ?_, ?_, ?_, ?_, ?_, ?_⟩ <;> decide +kernel

theorem witness_FlashTargets_2 : ∃ (s : State) (c : _) (k : _) (x : _) (pr : _) (n : _) (p : _), target? s c k = some x ∧ nextFlashOp x = some (pr, .direct n) ∧ mayIssue s c pr x = true ∧ look s.mem.pages n = some p ∧ p.chan = c ∧ p.tgt = k ∧ n ∉ s.mem.direct :=
  by
  refine ⟨flash w0 [(8, fp0)] [(9, { ft0 with queue := [(1, .direct 8)] })], 1, 1, { ft0 with queue := [(1, .direct 8)] }, 1, 8, fp0,
    ?_, ?_, ?_, ?_, ?_, ?_, ?_⟩ <;> decide +kernel

theorem witness_FlashTargets_3 : ∃ (s : State) (c k : Nat) (x : FTarget) (pr cid : Nat) (g : Chg) (b : Nat) (fd : FlashFound), target? s c k = some x ∧ nextFlashOp x = some (pr, .program cid) ∧ mayIssue s c pr x = true ∧ chg? s cid = some g ∧ writeBlock s c k (storedSize 0 true) x = some b ∧ fd.ok = true :=
  by
  refine ⟨flash (chgs w0 [de0]) [] [(9, { ft0 with queue := [(2, .program 4)] })], 1, 1, { ft0 with queue := [(2, .program 4)] }, 2, 4, de0, 1, ⟨[], [], true⟩,
    ?_, ?_, ?_, ?_, ?_, ?_⟩ <;> decide +kernel

theorem witness_FlashTargets_4 : ∃ (s : State) (c k : Nat) (x : FTarget) (pr cid : Nat) (g : Chg) (b : Nat) (fd : FlashFound), target? s c k = some x ∧ nextFlashOp x = some (pr, .program cid) ∧ mayIssue s c pr x = true ∧ chg? s cid = some g ∧ writeBlock s c k (storedSize 0 true) x = some b ∧ fd.ok = false :=
  by
  refine ⟨flash (chgs w0 [de0]) [] [(9, { ft0 with queue := [(2, .program 4)] })], 1, 1, { ft0 with queue := [(2, .program 4)] }, 2, 4, de0, 1, ⟨[], [], false⟩,
    ?_, ?_, ?_, ?_, ?_, ?_⟩ <;> decide +kernel

theorem witness_FlashTargets_5 : ∃ (s : State) (c : _) (k : _) (x : _) (pr : _) (b : _), target? s c k = some x ∧ nextFlashOp x = some (pr, .relocate b) ∧ mayIssue s c pr x = true ∧ blockPages s c k b = [] ∧ Settled s :=
  by
  refine ⟨flash w0 [] [(9, { ft0 with queue := [(4, .relocate 1)] })], 1, 1, { ft0 with queue := [(4, .relocate 1)] }, 4, 1,
    ?_, ?_, ?_, ?_, by unfold Settled; decide +kernel⟩ <;> decide +kernel

theorem witness_FlashTargets_6 : ∃ (s : State) (c k : Nat) (x : FTarget) (pr : Nat) (op : FlashOp), target? s c k = some x ∧ nextFlashOp x = some (pr, op) ∧ mayIssue s c pr x = false :=
  by
  refine ⟨flash w0 [] [(9, { ft0 with queue := [(4, .relocate 1)] }), (10, { ft0 with queue := [(1, .readChg 4)] })], 1, 1, { ft0 with queue := [(4, .relocate 1)] }, 4, .relocate 1,
    ?_, ?_, ?_⟩ <;> decide +kernel

theorem witness_FlashTargets_7 : ∃ (s : State) (c k : Nat) (x : FTarget) (b : Nat) (i : Instr) (fd : FlashFound), target? s c k = some x ∧ blockPages s c k b = [] ∧ fd.ok = true ∧ Settled s ∧ (i = .idleCollection c ⟨k, fd⟩ ∧ worstBlock x = some b ∧ s.mem.flsCtl.getLsbD 31 = true ∧ x.queue = [] ∧ mayIssue s c 5 x = true ∨ i = .forcedCollection c ⟨k, fd⟩ ∧ worstBlock x = some b ∧ 1024 * (erasedBlocks x).length < max 4 (fld s.mem.flsCtl 23 16) * x.blocks ∧ mayIssue s c 2 x = true ∨ i = .readDisturbRelocation c k b fd ∧ max 10 (fld s.mem.flsCtl 15 0) * 1000 ≤ (blkAt x b).reads ∧ mayIssue s c 4 x = true ∨ i = .wearRelocation c k b fd ∧ wearDue x b = true ∧ mayIssue s c 4 x = true) :=
  by
  refine ⟨flash w0 [] [(9, { ft0 with blk := [(1, { FBlock.fresh with invalid := 4096 })] })], 1, 1, { ft0 with blk := [(1, { FBlock.fresh with invalid := 4096 })] }, 1, .idleCollection 1 ⟨1, [], [], true⟩, ⟨[], [], true⟩,
    ?_, ?_, ?_, by unfold Settled; decide +kernel, Or.inl ⟨rfl, by decide +kernel, by decide +kernel, by decide +kernel, by decide +kernel⟩⟩ <;> decide +kernel

theorem witness_FlashTargets_8 : ∃ (s : State) (i : Instr) (c k b n : Nat) (p : FPage) (fd : FlashFound), i ∈ [Instr.idleCollection c ⟨k, fd⟩, .forcedCollection c ⟨k, fd⟩, .readDisturbRelocation c k b fd, .wearRelocation c k b fd] ∧ fd.badPages = [] ∧ Settled s ∧ (s.mem.pages.map (·.1)).Nodup ∧ look s.mem.pages n = some p :=
  by
  refine ⟨flash w0 [(8, fp0)] [(9, ft0)], .wearRelocation 1 1 0 ⟨[], [], true⟩, 1, 1, 0, 8, fp0, ⟨[], [], true⟩,
    ?_, ?_, by unfold Settled; decide +kernel, ?_, ?_⟩ <;> decide +kernel

theorem witness_FlashTargets_9 : ∃ (s : State) (c : _) (k : _) (x : _), target? s c k = some x ∧ x.timeouts < 2 :=
  ⟨flash w0 [] [(9, { ft0 with timeouts := 1 })], 1, 1, { ft0 with timeouts := 1 },
    by decide +kernel,
    by decide +kernel⟩

theorem witness_FlashTargets_10 : ∃ (s : State) (c : _) (k : _) (x : _), target? s c k = some x ∧ 2 ≤ x.timeouts ∧ Settled s :=
  ⟨flash w0 [] [(9, { ft0 with timeouts := 2 })], 1, 1, { ft0 with timeouts := 2 },
    by decide +kernel,
    by decide +kernel,
    by unfold Settled; decide +kernel⟩

theorem witness_ChannelService_1 : ∃ (s : State) (u : _) (b : _), (streaming s u = true ∨ (ch s (u / 9)).retraining = true) ∧ lookD 0 s.mem.postponed (2 * u + b % 2) < 8 :=
  ⟨{ stChan w0 { Ch.idle with retraining := true } with mem := { (stChan w0 { Ch.idle with retraining := true }).mem with postponed := [(1, 7)] } }, 0, 1,
    by decide +kernel,
    by decide +kernel⟩

theorem witness_ChannelService_2 : ∃ (s : State) (u : _) (b : _), (streaming s u = false ∧ (ch s (u / 9)).retraining = false ∨ 8 ≤ lookD 0 s.mem.postponed (2 * u + b % 2)) :=
  ⟨w0, 6911, 1,
    by decide +kernel⟩

theorem witness_ChannelService_3 : ∃ (s : State) (c : _), c < 768 ∧ codeChan s c = .good ∧ ((∀ k ∈ s.mem.chans, k.1 / 32 = c / 32 → k.2.retraining = false)) :=
  by
  refine ⟨w0, 767,
    ?_, ?_, ?_⟩ <;> decide +kernel

theorem witness_ChannelService_4 : ∃ (s : State) (c : _), (ch s c).retraining = true :=
  ⟨stChan w0 { Ch.idle with retraining := true }, 0,
    by decide +kernel⟩

theorem witness_ChannelService_5 : ∃ (s : State) (c : _), (ch s c).retraining = true ∧ (ch s c).retryDone = false :=
  ⟨stChan w0 { Ch.idle with retraining := true }, 0,
    by decide +kernel,
    by decide +kernel⟩

theorem witness_ChannelService_6 : ∃ (s : State) (c : _), (ch s c).retraining = true ∧ (ch s c).retryDone = true ∧ Settled s :=
  ⟨stChan w0 { Ch.idle with retraining := true, retryDone := true }, 0,
    by decide +kernel,
    by decide +kernel,
    by unfold Settled; decide +kernel⟩

theorem witness_ChannelService_7 : ∃ (s : State) (c : _), codeChan s c = .good ∧ (ch s c).retraining = false ∧ (ch s c).scrub < frameCodewords ∧ (cwAt s.mem (9 * c * 2560 * 69632 + 32 * (ch s c).scrub)).2 = .clean :=
  by
  refine ⟨w0, 767,
    ?_, ?_, ?_, ?_⟩ <;> decide +kernel

theorem witness_ChannelService_8 : ∃ (s : State) (c j : Nat) (b : Byte), codeChan s c = .good ∧ (ch s c).retraining = false ∧ (ch s c).scrub < frameCodewords ∧ j < 32 ∧ let a := 9 * c * 2560 * 69632 + 32 * (ch s c).scrub; (cwAt { s.mem with dram := wr8 s.mem.dram (a + j) (rd8 s.mem.dram (a + j) ^^^ b) } a).2 = .corrected :=
  by
  refine ⟨w0, 0, 31, 0x80,
    ?_, ?_, ?_, ?_, by dsimp only; decide +kernel⟩ <;> decide +kernel

theorem witness_ChannelService_9 : ∃ (s : State) (u : _) (a : _) (bs : _), pairRuns s u = true ∧ s.att.writeback.find? (fun a => a / 69632 / 2560 == u) = some a ∧ cwAt s.mem a = (bs, .corrected) :=
  by
  refine ⟨{ w0 with att := { Att.reset with writeback := [0] }, mem := { w0.mem with dram := [(0, 0x80)] } }, 0, 0, zeros 32,
    ?_, ?_, ?_⟩ <;> decide +kernel

theorem witness_PlacementWindows_1 : ∃ (s : State), s.up = true :=
  ⟨up0,
    by decide +kernel⟩

theorem witness_PlacementWindows_2 : ∃ (s : State) (td : _), s.up = true ∧ td < 64 ∧ (dom s td).place.state = .watch :=
  by
  refine ⟨up0, 63,
    ?_, ?_, ?_⟩ <;> decide +kernel

theorem witness_PlacementWindows_3 : ∃ (s : State) (td : _), (dom s td).place.state = .hold ∧ (dom s td).place.holdUntil ≤ s.now ∧ ((dom s td).place.streak < 50 ∨ icAuto s = false) :=
  by
  refine ⟨hold0 49, 1,
    ?_, ?_, ?_⟩ <;> decide +kernel

theorem witness_PlacementWindows_4 : ∃ (s : State) (td : _), (dom s td).place.state = .hold ∧ (dom s td).place.holdUntil ≤ s.now ∧ 50 ≤ (dom s td).place.streak ∧ icAuto s = true :=
  by
  refine ⟨hold0 50, 1,
    ?_, ?_, ?_, ?_⟩ <;> decide +kernel

theorem witness_PlacementWindows_5 : ∃ (s : State) (td : Nat) (p : PageLoc) (f : Nat), s.up = true ∧ goodMove s td = some (p, f) ∧ movesNow s td < max 1 (rbRate s) :=
  by
  obtain ⟨b, hb, h⟩ := place_pl fencedUnit 1 5 0 0 fenced_chans
  have off : ((domPages fencedUnit 1).filter (fun p => !p.leaf.psn && !locMoving fencedUnit 1 p && codeChan fencedUnit (frChan p.leaf.frame) == .good)) = [loc0] := by decide +kernel
  have hp : placeLoc fencedUnit 1 loc0 none = pl fencedUnit 0 b := h
  have g : ∃ f, pl fencedUnit 0 b = some f ∧ codeUnit fencedUnit (frUnit f) = .good := by
    have a : ∀ b < 9, (match pl fencedUnit 0 b with | some f => codeUnit fencedUnit (frUnit f) == .good | none => false) = true := by decide +kernel
    have := a b hb
    cases e : pl fencedUnit 0 b with
    | none => rw [e] at this; cases this
    | some f => rw [e] at this; exact ⟨f, rfl, by simpa using this⟩
  obtain ⟨f, hf, hg⟩ := g
  refine ⟨fencedUnit, 1, loc0, f, by decide +kernel, ?_, by decide +kernel⟩
  unfold goodMove
  dsimp only
  rw [off, show ([loc0].filter (fun p => codeUnit fencedUnit (frUnit p.leaf.frame) == .fenced)) = [loc0] by decide +kernel]
  simp only [List.cons_append, List.findSome?_cons, hp, hf, hg, if_true]

theorem witness_PlacementWindows_6 : ∃ (s : State) (td : Nat) (p : PageLoc) (f : Nat), s.up = true ∧ goodMove s td = none ∧ (dom s td).place.state = .rebalance ∧ movesNow s td < rbRate s ∧ rebalanceMove s td = some (p, f) :=
  by
  obtain ⟨b, hb, h⟩ := place_pl2 reb0 1 5 0 0 1 reb_chans (by decide)
  have all : ((domPages reb0 1).filter (fun p => !p.leaf.psn && !locMoving reb0 1 p)) = [loc0] := by decide +kernel
  have hp : placeLoc reb0 1 loc0 (some 0) = pl reb0 1 b := h
  have g : ∃ f, pl reb0 1 b = some f := by
    have a : ∀ b < 9, (pl reb0 1 b).isSome = true := by decide +kernel
    exact Option.isSome_iff_exists.mp (a b hb)
  obtain ⟨f, hf⟩ := g
  refine ⟨reb0, 1, loc0, f, by decide +kernel, by decide +kernel, by decide +kernel, by decide +kernel, ?_⟩
  unfold rebalanceMove
  dsimp only
  rw [all, show (dom reb0 1).place.rset = [0] by decide +kernel]
  simp only [List.findSome?_cons, List.filter_cons, hp, hf, Option.isSome_some, Bool.and_true, show (frChan loc0.leaf.frame == 0) = true by decide +kernel, if_true,
    List.filter_nil, hottest, List.foldl_cons, List.foldl_nil, Option.map_some]


/-! ### Witnesses, part 6 -/

def rq6 : Req :=
  { id := 3, td := 1, seqn := 5, layer := 0, sender := .gone, host := 3, home := 0, tag := 0, mask := 0, path := 0, fin := false, fence := false
    rot := false, c := 1, g := 1, hmask := 1, tree := 0, rstart := 0, rend := 1, qpos := 256, sscale := 0, qscale := 0, rows := []
    ykey := 0, yqpn := 0, yaddr := 0, app := false, apos := 0, napp := 0, afmt := 0, appd := [], len := 256, stage := .accepted
    issueNo := 0, after := [], appLeft := [], bankHeld := [], unitLeft := [], grpLeft := [], zphLeft := [], zphRows := [], stackParts := [], homeParts := [], zephyr := false
    tcheck := false, recomputed := false }
def pref0 : PageRef := { rid := 3, k := 0, head := 0, tpage := 0, leaf := some leaf0 }
def part0 : Part := { head := 0, tokens := 5, ptokens := 0, pfirst := 0xFFFFFFFF, poison := false, nonfinite := false, rows := [] }
def gcmd0 : GCmd := { id := 0, rid := 3, td := 1, die := 0, members := [0], share := [], wait := [], fetched := [], done := [], parts := [], arrived := [] }
def clus1 : Clus := { td := some 1, ext := some 7, leaving := false, dirty := false, joining := false, ways := [] }
def work (l : List Req) (u : List (Nat × List UnitOp)) (g : List GCmd) : State :=
  { w0 with att := { Att.reset with reqs := l, units := u, gcmds := g, clus := [(0, clus1)], zph0 := { Zph.reset with good := true }, zph1 := { Zph.reset with good := true } } }
/-- Host 3 has a budget of 1 byte per ns and a bucket below zero. -/
def spent (s : State) : State := { s with fab := { s.fab with bud := [(3, 1)], budget := [(3, (-5, 10 ^ 10))] } }
def samp0 (st : SampState) (n taken : Nat) (z : Option (List ZRow)) : Sample :=
  { state := st, taken := taken, td := 1, page := pref0, key := 77, cluster := none, unit := 0, tag := 0, row0 := 0, copy := part0, req := rq6, steps := n, ref := z }
def lull (ctl : W32) (l : List Sample) (f : Bool) : State :=
  { w0 with att := { Att.reset with lulCtl := ctl, zph0 := { Zph.reset with good := true, samples := l }, zph1 := { Zph.reset with good := true, fenced := f } } }
def dirK : BitVec 128 := BitVec.ofNat 128 (2 ^ 122)
def dirE6 : DirE := { key := dirK, st := .live, ver := 3, ref := 2, rtn := true, psn := false, sidx := 0, nlayer := 0, nhead := 0 }
def grp6 : Group := { td := 1, sidx := 0, key := dirK, last := 0, nlayer := 0, nhead := 0, recs := [(2, { leaf := leaf0, ref := 0, bad := false })], freeing := false }
def dir6 (c : List (Nat × List DirE)) (g : List Group) : State :=
  { lull 0xF8100064 [] false with pfx := { Pfx.reset with banks := [(0, [(0, dirE6)])], copies := c, groups := g } }
def hdl0 (w : List HStep) : Hdl := { rec_ := rec0, suspended := false, work := w }
def hand (h : Hdl) : State := { w0 with err := { Err.reset with active := some h } }
def crash0 : Crash :=
  { eseq := 1, time := 0, bootStat := 0, errStat := 0, fpgen := 0, log := [], hdl := [], islands := [], after := 0 }
def tile0 : Tile := { slot := 0, page := pref0, leaf := leaf0, rd := { bytes := [], corr := [], bad := [] } }
def rqG (l : List PageRef) : Req := { rq6 with stage := .issued, grpLeft := l }
def rqZ (c : Nat) : Req := { rq6 with stage := .issued, c := c, zphLeft := [pref0] }
def prefN : PageRef := { pref0 with leaf := none }
def dirX (c : List (Nat × List DirE)) (g : List Group) : State :=
  { lull 0xF8100064 [] false with pfx := { Pfx.reset with banks := [(0, [(0, { dirE6 with ver := 4 })])], copies := c, groups := g } }
/-- A node whose stack 0 has one spare lane. -/
def spare6 : State :=
  { lull 0xF8100064 [] false with boot := { (lull 0xF8100064 [] false).boot with fuses := some { fuses0 with stackSpares := [1] } } }
theorem fetchRead_empty (g : W64) (fmt : List W64) (f : Nat) (x : PRead) (h : x.bad = []) : (fetchRead g fmt f x).bad = [] := by
  simp [fetchRead, h]

theorem witness_RequestIssue_1 : ∃ (s : State) (rid : _) (r : _), req? s rid = some r ∧ r.stage = .accepted ∧ (budgetOk s r.host = false ∨ heldOf s r.host ≠ []) :=
  by
  refine ⟨spent (work [rq6] [] []), 3, rq6,
    ?_, ?_, ?_⟩ <;> decide +kernel

theorem witness_RequestIssue_2 : ∃ (s : State) (rid : _) (r : _), req? s rid = some r ∧ r.stage = .accepted ∧ budgetOk s r.host = true ∧ heldOf s r.host = [] ∧ groupBusy s r = true :=
  by
  refine ⟨work [{ rq6 with path := 1 }] [] ((nats 64).map (fun i => { gcmd0 with id := i, rid := 100 + i })), 3, { rq6 with path := 1 },
    ?_, ?_, ?_, ?_, ?_⟩ <;> decide +kernel

theorem witness_RequestIssue_3 : ∃ (s : State) (rid : _) (r : _) (h : _) (tp : _) (d : _) (l : _) (e : _), req? s rid = some r ∧ r.stage = .accepted ∧ budgetOk s r.host = true ∧ heldOf s r.host = [] ∧ BankPage s r h tp d l e ∧ mergeFull s (frChan e.frame / 32) rid = false :=
  by
  refine ⟨work [rq6] [] [], 3, rq6, 0, 0, sq0, leaf0, leaf0,
    ?_, ?_, ?_, ?_, by unfold BankPage; decide +kernel, ?_⟩ <;> decide +kernel

theorem witness_RequestIssue_4 : ∃ (s : State) (rid : _) (r : _) (h : _) (tp : _) (d : _) (l : _) (e : _), req? s rid = some r ∧ r.stage = .accepted ∧ budgetOk s r.host = true ∧ heldOf s r.host = [] ∧ BankPage s r h tp d l e ∧ mergeFull s (frChan e.frame / 32) rid = true :=
  by
  refine ⟨work (rq6 :: (nats 512).map (fun i => { rq6 with id := 100 + i, stage := .issued, unitLeft := [pref0] })) [] [], 3, rq6, 0, 0, sq0, leaf0, leaf0,
    ?_, ?_, ?_, ?_, by unfold BankPage; decide +kernel, ?_⟩ <;> decide +kernel

theorem witness_RequestIssue_5 : ∃ (s : State) (rid : _) (r : _) (d : _) (l : _) (k : _) (tp : _), req? s rid = some r ∧ r.stage = .accepted ∧ budgetOk s r.host = true ∧ heldOf s r.host = [] ∧ onBank r = true ∧ r.fence = false ∧ r.appLeft = [(k, tp)] ∧ r.unitLeft = [] ∧ r.grpLeft = [] ∧ r.zphLeft = [] ∧ r.rstart = r.rend ∧ seq? s r.td r.seqn = some d ∧ let pix := pageIx r.layer (headOf r k) tp; walk s d pix = .page l l ∧ l.tier = .dram ∧ isMoving s r.td r.seqn pix = false ∧ appendQueued s rid k tp = false ∧ ((∀ q ∈ s.att.reqs, q.stage = .issued → q.td = r.td → q.seqn = r.seqn → ∀ a ∈ q.appLeft, pageIx q.layer (headOf q a.1) a.2 = pix → appendQueued s q.id a.1 a.2 = true)) :=
  by
  refine ⟨work [{ rq6 with rend := 0, app := true, appLeft := [(0, 0)] }] [] [], 3, { rq6 with rend := 0, app := true, appLeft := [(0, 0)] }, sq0, leaf0, 0, 0,
    ?_, ?_, ?_, ?_, ?_, ?_, ?_, ?_, ?_, ?_, ?_, ?_, by dsimp only; decide +kernel⟩ <;> decide +kernel

theorem witness_RequestIssue_6 : ∃ (s : State) (host : _) (rid : _) (rest : _) (r : _) (h : _) (tp : _) (d : _) (l : _) (e : _), heldOf s host = rid :: rest ∧ budgetOk s host = true ∧ req? s rid = some r ∧ BankPage s r h tp d l e ∧ mergeFull s (frChan e.frame / 32) rid = false :=
  by
  refine ⟨{ work [{ rq6 with stage := .held }] [] [] with fab := { Fab.reset with held := [(3, [3])] } }, 3, 3, [], { rq6 with stage := .held }, 0, 0, sq0, leaf0, leaf0,
    ?_, ?_, ?_, by unfold BankPage; decide +kernel, ?_⟩ <;> decide +kernel

theorem witness_RequestIssue_7 : ∃ (s : State) (host : _), (budgetOk s host = false ∨ (∃ rid rest r, heldOf s host = rid :: rest ∧ req? s rid = some r ∧ groupBusy s r = true)) :=
  ⟨spent w0, 3,
    Or.inl (by decide +kernel)⟩

theorem witness_BankPath_1 : ∃ (s : State) (u : _) (p : _) (r : _) (l : _), pairRuns s u = true ∧ codeUnit s u = .good ∧ nextOp s u = some (.attend p) ∧ req? s p.rid = some r ∧ PageReady s r p l ∧ s.att.lulCtl.getLsbD 31 = false ∧ Settled s :=
  by
  refine ⟨work [{ rq6 with stage := .issued, unitLeft := [pref0] }] [(0, [.attend pref0])] [], 0, pref0, { rq6 with stage := .issued, unitLeft := [pref0] }, leaf0,
    ?_, ?_, ?_, ?_, by unfold PageReady; decide +kernel, ?_, by unfold Settled; decide +kernel⟩ <;> decide +kernel

theorem witness_BankPath_2 : ∃ (s : State) (u : _) (k : _) (tp : _) (r : _) (d : _) (l : _), pairRuns s u = true ∧ nextOp s u = some (.append r.id k tp) ∧ req? s r.id = some r ∧ seq? s r.td r.seqn = some d ∧ let pix := pageIx r.layer (headOf r k) tp; let x := appendIn s r k tp l.frame; walk s d pix = .page l l ∧ l.tier = .dram ∧ frUnit l.frame = u ∧ isMoving s r.td r.seqn pix = false ∧ (k, tp) ∈ r.appLeft ∧ (x.readAll s.mem).bad = [] ∧ (x.store (s.mem, [])).2 = [] ∧ Settled s :=
  by
  refine ⟨work [{ rq6 with stage := .issued, app := true, appLeft := [(0, 0)] }] [(0, [.append 3 0 0])] [], 0, 0, 0, { rq6 with stage := .issued, app := true, appLeft := [(0, 0)] }, sq0, leaf0,
    ?_, ?_, ?_, ?_, by unfold Settled; dsimp only; decide +kernel⟩ <;> decide +kernel

theorem witness_BankPath_3 : ∃ (s : State) (st : _) (rid : _) (r : _), req? s rid = some r ∧ r.stage = .issued ∧ (r.stackParts.filter (fun x => x.1 == st)) ≠ [] ∧ leftFor s r st = false ∧ Settled s :=
  by
  refine ⟨work [{ rq6 with stage := .issued, stackParts := [(0, part0)] }] [] [], 0, 3, { rq6 with stage := .issued, stackParts := [(0, part0)] },
    ?_, ?_, ?_, ?_, by unfold Settled; decide +kernel⟩ <;> decide +kernel

theorem witness_ClusterPath_1 : ∃ (s : State) (c : _) (g : _) (p : _) (r : _) (l : _) (k : _), fetchCmd s c = some g ∧ (lookD [] g.share c).find? needsFetch = some p ∧ req? s g.rid = some r ∧ PageReady s r p l ∧ r.appLeft = [] ∧ (ch s (frChan l.frame)).retraining = false ∧ freeSlot s c = some k ∧ clusterServes s g.td c = true ∧ otherGroup s g p = none ∧ Settled s :=
  by
  refine ⟨work [rqG [pref0]] [] [{ gcmd0 with share := [(0, [pref0])] }], 0, { gcmd0 with share := [(0, [pref0])] }, pref0, rqG [pref0], leaf0, 0,
    ?_, ?_, ?_, by unfold PageReady; decide +kernel, ?_, ?_, ?_, ?_, ?_, by unfold Settled; decide +kernel⟩ <;> decide +kernel

theorem witness_ClusterPath_2 : ∃ (s : State) (c : _) (g : _) (x : _) (rest : _) (r : _), currentCmd s c = some g ∧ s.att.gcmds.find? (fun y => y.id == g.id) = some g ∧ lookD [] g.fetched c = x :: rest ∧ req? s g.rid = some r ∧ clusterServes s g.td c = true ∧ s.att.lulCtl.getLsbD 31 = false ∧ Settled s ∧ let part := if x.rd.bad = [] then pagePart s r x.page x.rd.bytes else poisonPart s r x.page; (∀ q ∈ lookD [] g.parts c, sameShape q part = false) :=
  by
  refine ⟨work [rqG [pref0]] [] [{ gcmd0 with fetched := [(0, [tile0])] }], 0, { gcmd0 with fetched := [(0, [tile0])] }, tile0, [], rqG [pref0],
    ?_, ?_, ?_, ?_, ?_, ?_, by unfold Settled; decide +kernel, (by intro part q h; cases h)⟩ <;> decide +kernel

theorem witness_ClusterPath_3 : ∃ (s : State) (c : _) (g : _) (p : _) (r : _), currentCmd s c = some g ∧ s.att.gcmds.find? (fun y => y.id == g.id) = some g ∧ lookD [] g.fetched c = [] ∧ (lookD [] g.share c).find? (fun q => !needsFetch q && !pageWaits s r q.k q.tpage && (!isDirect q || directReady s q)) = some p ∧ p.leaf = none ∧ r.fence = false ∧ r.app = false ∧ req? s g.rid = some r ∧ clusterServes s g.td c = true ∧ s.att.lulCtl.getLsbD 31 = false ∧ Settled s ∧ (∀ q ∈ lookD [] g.parts c, sameShape q (absentPart s r p) = false) :=
  by
  refine ⟨work [rqG [prefN]] [] [{ gcmd0 with share := [(0, [prefN])] }], 0, { gcmd0 with share := [(0, [prefN])] }, prefN, rqG [prefN],
    ?_, ?_, ?_, ?_, ?_, ?_, ?_, ?_, ?_, ?_, by unfold Settled; decide +kernel, ?_⟩ <;> decide +kernel

theorem witness_ClusterPath_4 : ∃ (s : State) (die : _) (rid : _) (r : _) (g : _), req? s rid = some r ∧ r.stage = .issued ∧ s.att.gcmds.find? (fun g => g.rid == rid && g.die == die) = some g ∧ (∀ c ∈ g.members, g.busyAt c = false) ∧ s.att.gwait = [] :=
  by
  refine ⟨work [rqG []] [] [gcmd0], 0, 3, rqG [], gcmd0,
    ?_, ?_, ?_, ?_, ?_⟩ <;> decide +kernel

theorem witness_ClusterPath_5 : ∃ (s : State) (c : _), (clus s c).leaving = true ∧ (∀ g ∈ s.att.gcmds, c ∉ g.members) ∧ s.att.gwait = [] :=
  by
  refine ⟨{ w0 with att := { Att.reset with clus := [(207, { clus1 with leaving := true })] } }, 207,
    ?_, ?_, ?_⟩ <;> decide +kernel

theorem witness_ClusterPath_6 : ∃ (s : State) (c : _) (g : _) (r : _), (clus s c).leaving = true ∧ s.att.gwait = [] ∧ s.att.gcmds = [g] ∧ c ∈ g.members ∧ (∃ k ∈ g.members, k ≠ c) ∧ req? s g.rid = some r ∧ r.unitLeft = [] ∧ r.zphLeft = [] ∧ (∀ p ∈ r.grpLeft, inFlash p = false) ∧ lookD [] g.wait c = [] ∧ (∀ p ∈ lookD [] g.share c ++ (lookD [] g.fetched c).map (·.page) ++ lookD [] g.done c, ∃ d l e, seq? s r.td r.seqn = some d ∧ walk s d (pageIx r.layer (headOf r p.k) p.tpage) = .page l e ∧ e.tier = .dram) :=
  by
  refine ⟨{ work [rqG [pref0]] [] [{ gcmd0 with members := [0, 1], share := [(0, [pref0])] }] with att := { (work [rqG [pref0]] [] [{ gcmd0 with members := [0, 1], share := [(0, [pref0])] }]).att with clus := [(0, { clus1 with leaving := true }), (1, clus1)] } }, 0, { gcmd0 with members := [0, 1], share := [(0, [pref0])] }, rqG [pref0],
    ?_, ?_, ?_, ?_, ?_, ?_, ?_, ?_, ?_, ?_, (by
      intro p hp
      obtain rfl : p = pref0 := List.mem_singleton.mp (show p ∈ [pref0] from hp)
      exact ⟨sq0, leaf0, leaf0, by decide +kernel, by decide +kernel, rfl⟩)⟩ <;> decide +kernel

theorem witness_ClusterPath_7 : ∃ (s : State) (c : _), (clus s c).dirty = true ∧ (clus s c).leaving = false :=
  ⟨{ w0 with att := { Att.reset with clus := [(207, { clus1 with dirty := true })] } }, 207,
    by decide +kernel,
    by decide +kernel⟩

theorem witness_ZephyrAndHome_1 : ∃ (s : State) (die : _) (td : _) (r : _) (p : _) (rest : _) (l : _), (zph s die).good = true ∧ (zph s die).fenced = false ∧ nextDom s die = some td ∧ (zphWork s die).find? (fun r => r.td == td) = some r ∧ req? s r.id = some r ∧ zphPass s r = p :: rest ∧ p.rid = r.id ∧ PageReady s r p l ∧ (zph s die).buf = [] ∧ rowsPerHead r ≤ 16 ∧ lookD [] r.zphRows (zphKey p) = [] ∧ Settled s :=
  by
  refine ⟨work [rqZ 1] [] [], 0, 1, rqZ 1, pref0, [], leaf0,
    ?_, ?_, ?_, ?_, ?_, ?_, ?_, by unfold PageReady; decide +kernel, ?_, ?_, ?_, by unfold Settled; decide +kernel⟩ <;> decide +kernel

theorem witness_ZephyrAndHome_2 : ∃ (s : State) (die : _) (td : _) (r : _) (p : _) (rest : _) (l : _), (zph s die).good = true ∧ (zph s die).fenced = false ∧ nextDom s die = some td ∧ (zphWork s die).find? (fun r => r.td == td) = some r ∧ req? s r.id = some r ∧ zphPass s r = p :: rest ∧ p.rid = r.id ∧ PageReady s r p l ∧ (zph s die).buf = [] ∧ zphRowsDone r p + 16 < rowsPerHead r ∧ Settled s ∧ (fetchRead (dom s r.td).geom (dom s r.td).fmt l.frame (readPage s r.td r.seqn (refPix r p) l.frame)).bad = [] :=
  by
  refine ⟨work [rqZ 17] [] [], 0, 1, rqZ 17, pref0, [], leaf0,
    ?_, ?_, ?_, ?_, ?_, ?_, ?_, by unfold PageReady; decide +kernel, ?_, ?_, by unfold Settled; decide +kernel, (by
      refine fetchRead_empty _ _ _ _ ?_
      unfold readPage
      rw [if_pos (Or.inl (by decide +kernel))]
      exact rdPage_empty _ _ _ _ rfl rfl)⟩ <;> decide +kernel

theorem witness_ZephyrAndHome_3 : ∃ (s : State) (s' : _) (rid : _) (r : _) (c : _) (q : _) (idx : _) (w : _), req? s rid = some r ∧ workDone s r = true ∧ mergePlace r s = some s' ∧ shapesDiffer (mergeAll (geomW (dom s r.td).geom) r.homeParts s).1 = false ∧ badHeads r (mergeAll (geomW (dom s r.td).geom) r.homeParts s).1 = [] ∧ r.sender = .wq c q idx ∧ wq? s c q = some w ∧ dmaStopped s (chanFn c) = false :=
  by
  refine ⟨{ work [{ rq6 with stage := .issued, rend := 0, sender := .wq 9 0 0 }] [] [] with mbx := { Mbx.reset with chans := [(9, { Chan.reset with wq := [(0, wq0)] })] } }, useWays 0 [14, 15] ({ work [{ rq6 with stage := .issued, rend := 0, sender := .wq 9 0 0 }] [] [] with mbx := { Mbx.reset with chans := [(9, { Chan.reset with wq := [(0, wq0)] })] } }), 3, { rq6 with stage := .issued, rend := 0, sender := .wq 9 0 0 }, 9, 0, 0, wq0,
    ?_, ?_, ?_, ?_, ?_, ?_, ?_, ?_⟩ <;> decide +kernel

theorem witness_ZephyrAndHome_4 : ∃ (s : State) (s' : _) (rid : _) (r : _), req? s rid = some r ∧ workDone s r = true ∧ mergePlace r s = some s' ∧ badHeads r (mergeAll (geomW (dom s r.td).geom) r.homeParts s).1 ≠ [] ∧ r.recomputed = false ∧ rangePages r (tokT s r.td) = [] :=
  by
  refine ⟨work [{ rq6 with stage := .issued, rend := 0, homeParts := [part0] }] [] [], useWays 0 [14, 15] (work [{ rq6 with stage := .issued, rend := 0, homeParts := [part0] }] [] []), 3, { rq6 with stage := .issued, rend := 0, homeParts := [part0] },
    ?_, ?_, ?_, ?_, ?_, ?_⟩ <;> decide +kernel

theorem witness_LullSamples_1 : ∃ (s : State) (die : _) (x : _), lullBit s 30 = true ∧ zphQuiet s die = true ∧ nextSample s die = some x ∧ x.steps + 1 ≠ x.reads (dom s x.td).geom (dom s x.td).fmt ∧ x.steps + 1 < x.total (dom s x.td).geom (dom s x.td).fmt :=
  by
  refine ⟨lull 0xF8100064 [samp0 .held 0 0 none] false, 0, samp0 .held 0 0 none,
    ?_, ?_, ?_, ?_, ?_⟩ <;> decide +kernel

theorem witness_LullSamples_2 : ∃ (s : State) (die : _) (x : _) (l : _), lullBit s 30 = true ∧ zphQuiet s die = true ∧ nextSample s die = some x ∧ x.steps + 1 = x.reads (dom s x.td).geom (dom s x.td).fmt ∧ x.page.leaf = some l ∧ (sampleRead s x false).bad = [] ∧ Settled s :=
  by
  refine ⟨lull 0xF8100064 [samp0 .held 2 0 none] false, 0, samp0 .held 2 0 none, leaf0,
    ?_, ?_, ?_, ?_, ?_, fetchRead_empty _ _ _ _ (rdPage_empty _ _ _ _ rfl rfl), by unfold Settled; decide +kernel⟩ <;> decide +kernel

theorem witness_LullSamples_3 : ∃ (s : State) (die : _) (x : _) (b : _), lullBit s 30 = true ∧ zphQuiet s die = true ∧ nextSample s die = some x ∧ (zph s die).td = some x.td ∧ (zph s die).buf.head? = some b ∧ x.steps + 1 ≠ x.reads (dom s x.td).geom (dom s x.td).fmt ∧ x.total (dom s x.td).geom (dom s x.td).fmt ≤ x.steps + 1 :=
  by
  refine ⟨{ lull 0xF8100064 [samp0 .held 3 0 none] false with att := { (lull 0xF8100064 [samp0 .held 3 0 none] false).att with zph0 := { (lull 0xF8100064 [samp0 .held 3 0 none] false).att.zph0 with td := some 1, buf := [tile0] } } }, 0, samp0 .held 3 0 none, tile0,
    ?_, ?_, ?_, ?_, ?_, ?_, ?_⟩ <;> decide +kernel

theorem witness_LullSamples_4 : ∃ (s : State) (die : _) (x : _) (z : _) (l : _), s.up = true ∧ (samplesOf s die).find? (fun x => x.state == .retrying) = some x ∧ originIdle s x = true ∧ x.ref = some z ∧ x.cluster = none ∧ x.page.leaf = some l ∧ l.tier = .dram ∧ (sampleRead s x true).bad = [] ∧ Settled s :=
  by
  refine ⟨lull 0xF8100064 [samp0 .retrying 3 0 (some [])] false, 0, samp0 .retrying 3 0 (some []), [], leaf0,
    ?_, ?_, ?_, ?_, ?_, ?_, ?_, ?_, by unfold Settled; decide +kernel⟩ <;> decide +kernel

theorem witness_LullSamples_5 : ∃ (s : State) (die : _) (x : _), s.up = true ∧ (samplesOf s die).find? (fun x => x.state == .retrying) = some x ∧ originIdle s x = true ∧ x.cluster = none ∧ (sampleRead s x true).bad ≠ [] ∧ Settled s :=
  by
  refine ⟨{ lull 0xF8100064 [samp0 .retrying 3 0 (some [])] false with mem := { w0.mem with dram := [(0, 1), (1, 1)] } }, 0, samp0 .retrying 3 0 (some []),
    ?_, ?_, ?_, ?_, ?_, by unfold Settled; decide +kernel⟩ <;> decide +kernel

theorem witness_LullSamples_6 : ∃ (s : State) (die idx : Nat) (x : Sample), (samplesOf s die)[idx]? = some x ∧ x.taken + ageNs s ≤ s.now :=
  ⟨lull 0xF8100064 [samp0 .held 0 (10 ^ 10 - 10 ^ 8) none] false, 0, 0, samp0 .held 0 (10 ^ 10 - 10 ^ 8) none,
    by decide +kernel,
    by decide +kernel⟩

theorem witness_LullSamples_7 : ∃ (s : State) (die idx : Nat) (x : Sample), (samplesOf s die)[idx]? = some x ∧ s.now < x.taken + ageNs s :=
  ⟨lull 0xF8100064 [samp0 .held 0 (10 ^ 10 - 10 ^ 8 + 1) none] false, 0, 0, samp0 .held 0 (10 ^ 10 - 10 ^ 8 + 1) none,
    by decide +kernel,
    by decide +kernel⟩

theorem witness_LullSamples_8 : ∃ (s : State), s.up = true ∧ s.att.lulCtl.getLsbD 31 = true :=
  ⟨lull 0xF8100064 [] false,
    by decide +kernel,
    by decide +kernel⟩

theorem witness_LullChecks_1 : ∃ (s : State) (u : _) (slot : _) (n : _), testSteps s (u * 2560 + slot) = some n ∧ testMay s u (u * 2560 + slot) = true ∧ slot < 2560 :=
  by
  refine ⟨{ lull 0xF8100064 [] false with mem := { w0.mem with frames := [(7, .testing 9)] } }, 0, 7, 9,
    ?_, ?_, ?_⟩ <;> decide +kernel

theorem witness_LullChecks_2 : ∃ (s : State) (u : _) (slot : _) (n : _) (o : _), testSteps s (u * 2560 + slot) = some n ∧ testMay s u (u * 2560 + slot) = true ∧ slot < 2560 ∧ testCovers n o = true :=
  by
  refine ⟨lull 0xF8100064 [] false, 0, 2559, 0, 15359,
    ?_, ?_, ?_, ?_⟩ <;> decide +kernel

theorem witness_LullChecks_3 : ∃ (s : State) (lane : _), lullBit s 28 = true ∧ spareLane s lane = true ∧ lane ∉ s.att.badLanes :=
  by
  refine ⟨spare6, 0,
    ?_, ?_, ?_⟩ <;> decide +kernel

theorem witness_LullChecks_4 : ∃ (s : State) (b : _), lullBit s 27 = true ∧ s.pfx.turn = b ∧ (∀ x ∈ bankTab s b, entryOk s x.2 = true) ∧ ((∀ l ∈ s.pfx.copies, ∀ e ∈ l.2, bankOf e.key = b → ∃ x ∈ bankTab s b, x.2.key = e.key)) :=
  by
  refine ⟨dir6 [(1, [dirE6])] [grp6], 0,
    ?_, ?_, ?_, ?_⟩ <;> decide +kernel

theorem witness_LullChecks_5 : ∃ (s : State) (b : _) (x : _), lullBit s 27 = true ∧ s.pfx.turn = b ∧ lookD 0 s.pfx.cursor b = 0 ∧ (checkItems s b).length ≤ 64 ∧ (bankTab s b).find? (fun y => y.2.key == x.2.key) = some x ∧ entryOk s x.2 = false ∧ entryCopy? s (keyTd x.2.key) x.2.key = none ∧ ((∀ y ∈ bankTab s b, y.2.key ≠ x.2.key → entryOk s y.2 = true)) ∧ ((∀ l ∈ s.pfx.copies, ∀ e ∈ l.2, bankOf e.key = b → ∃ y ∈ bankTab s b, y.2.key = e.key)) :=
  by
  refine ⟨dirX [] [grp6], 0, (0, { dirE6 with ver := 4 }),
    ?_, ?_, ?_, ?_, ?_, ?_, ?_, ?_, ?_⟩ <;> decide +kernel

theorem witness_LullChecks_6 : ∃ (s : State) (b : _) (x : _) (e : _), lullBit s 27 = true ∧ s.pfx.turn = b ∧ lookD 0 s.pfx.cursor b = 0 ∧ (checkItems s b).length ≤ 64 ∧ (bankTab s b).find? (fun y => y.2.key == x.2.key) = some x ∧ entryOk s x.2 = false ∧ entryCopy? s (keyTd x.2.key) x.2.key = some e ∧ headerOk s (keyTd x.2.key) e = true ∧ ((∀ y ∈ bankTab s b, y.2.key ≠ x.2.key → entryOk s y.2 = true)) ∧ ((∀ l ∈ s.pfx.copies, ∀ e ∈ l.2, bankOf e.key = b → ∃ y ∈ bankTab s b, y.2.key = e.key)) :=
  by
  refine ⟨dirX [(1, [dirE6])] [grp6], 0, (0, { dirE6 with ver := 4 }), dirE6,
    ?_, ?_, ?_, ?_, ?_, ?_, ?_, ?_, ?_, ?_⟩ <;> decide +kernel

theorem witness_LullChecks_7 : ∃ (s : State) (die : _), s.up = true ∧ s.att.lulCtl.getLsbD 31 = true ∧ zphQuiet s die = true :=
  by
  refine ⟨lull 0xF8100064 [] false, 0,
    ?_, ?_, ?_⟩ <;> decide +kernel

theorem witness_LullChecks_8 : ∃ (s : State) (die : _), s.up = true ∧ s.att.lulCtl.getLsbD 31 = true ∧ zphQuiet s die = true ∧ die < 2 ∧ (zph s (1 - die)).fenced = false :=
  by
  refine ⟨lull 0xF8100064 [] false, 0,
    ?_, ?_, ?_, ?_, ?_⟩ <;> decide +kernel

theorem witness_LullChecks_9 : ∃ (s : State) (die : _), s.up = true ∧ s.att.lulCtl.getLsbD 31 = true ∧ zphQuiet s die = true ∧ die < 2 ∧ (zph s (1 - die)).fenced = true ∧ s.err.fatal = false :=
  by
  refine ⟨lull 0xF8100064 [] true, 0,
    ?_, ?_, ?_, ?_, ?_, ?_⟩ <;> decide +kernel

theorem witness_LullMemoryTestCompletes_1 : ∃ (s : State) (u : _) (slot : _) (n : _), testSteps s (u * 2560 + slot) = some n ∧ testMay s u (u * 2560 + slot) = true ∧ slot < 2560 :=
  by
  refine ⟨lull 0xF8100064 [] false, 8, 2559, 0,
    ?_, ?_, ?_⟩ <;> decide +kernel

theorem witness_LullSpareLaneCompletes_1 : ∃ (s : State) (lane : _), lullBit s 28 = true ∧ spareLane s lane = true ∧ lane ∉ s.att.badLanes :=
  by
  refine ⟨spare6, 0,
    ?_, ?_, ?_⟩ <;> decide +kernel

theorem witness_LullPrefixCheckCompletes_1 : ∃ (s : State) (b : _), lullBit s 27 = true ∧ s.pfx.turn = b :=
  ⟨{ lull 0xF8100064 [] false with pfx := { Pfx.reset with turn := 15 } }, 15,
    by decide +kernel,
    by decide +kernel⟩

theorem witness_LullZephyrCheckCompletes_1 : ∃ (s : State) (die : _), s.up = true ∧ s.att.lulCtl.getLsbD 31 = true ∧ zphQuiet s die = true ∧ die < 2 :=
  by
  refine ⟨lull 0xF8100064 [] false, 1,
    ?_, ?_, ?_, ?_⟩ <;> decide +kernel

theorem witness_FencesAndHandler_1 : ∃ (s : State) (u : _) (c : _), s.up = true ∧ codeUnit s u = .good ∧ nextOp s u = some (.raw c.id) ∧ cmd? s c.id = some c ∧ ((∀ x ∈ s.mbx.cmds, x.id = c.id → x = c)) ∧ c.discard = false ∧ 3 ≤ (RawD.ofBytes c.body).opc :=
  by
  refine ⟨{ wc w0 (mc 9 0x308 1 (rawBody 3 8 1 false 0 0)) with att := { Att.reset with units := [(0, [.raw 0])] } }, 0, mc 9 0x308 1 (rawBody 3 8 1 false 0 0),
    ?_, ?_, ?_, ?_, ?_, ?_, ?_⟩ <;> decide +kernel

theorem witness_FencesAndHandler_2 : ∃ (s : State) (u : _), s.up = true ∧ codeUnit s u = .good ∧ (∀ id, nextOp s u ≠ some (.raw id)) ∧ Settled s :=
  ⟨w0, 6911,
    by decide +kernel,
    by decide +kernel,
    ((fun id h => by rw [show nextOp w0 6911 = none by decide +kernel] at h; cases h)),
    by unfold Settled; decide +kernel⟩

theorem witness_FencesAndHandler_3 : ∃ (s : State) (c : _), s.up = true ∧ codeClus s c = .good ∧ extOfClus s c = none ∧ (∀ g ∈ s.att.gcmds, c ∉ g.members) ∧ s.att.gwait = [] :=
  by
  refine ⟨w0, 207,
    ?_, ?_, ?_, ?_, ?_⟩ <;> decide +kernel

theorem witness_FencesAndHandler_4 : ∃ (s : State) (h : _), s.err.fatal = false ∧ s.err.active = some h ∧ (h.work = [] ∨ h.work = [.bookkeeping]) :=
  by
  refine ⟨hand (hdl0 [.bookkeeping]), hdl0 [.bookkeeping],
    ?_, ?_, ?_⟩ <;> decide +kernel

theorem witness_FencesAndHandler_5 : ∃ (s : State) (h : _) (td : _) (c : _) (rest : _) (ix : _), s.err.fatal = false ∧ s.err.active = some h ∧ h.work = .sweepChan td c :: rest ∧ rest ≠ [] ∧ c ∈ domChans s td ∧ codeChan s c = .good ∧ look s.mem.frames ix = some .used ∧ ix / 2560 / 9 = c ∧ (s.mem.frames.map (·.1)).Nodup :=
  by
  refine ⟨hand (hdl0 [.sweepChan 1 0, .bookkeeping]), hdl0 [.sweepChan 1 0, .bookkeeping], 1, 0, [.bookkeeping], 0,
    ?_, ?_, ?_, ?_, ?_, ?_, ?_, ?_, ?_⟩ <;> decide +kernel

theorem witness_FencesAndHandler_6 : ∃ (s : State) (h : _) (cause : _), s.err.fatal = false ∧ s.err.active = some h ∧ (cause = 1 ∨ cause = 2) :=
  by
  refine ⟨hand (hdl0 []), hdl0 [], 2,
    ?_, ?_, ?_⟩ <;> decide +kernel

theorem witness_FencesAndHandler_7 : ∃ (s : State) (code : _) (info : _) (n : _), s.outOfReset = true ∧ s.boot.phase = .released ∧ s.err.fatal = false ∧ (code, n) ∈ [(0x0051, 4), (0x0052, 5), (0x0053, 6), (0x0054, 7), (0x0055, info)] :=
  by
  refine ⟨w0, 0x55, 9, 9,
    ?_, ?_, ?_, ?_⟩ <;> decide +kernel

theorem witness_FencesAndHandler_8 : ∃ (s : State) (code : _) (c : _), s.outOfReset = true ∧ s.err.fatal = true ∧ s.err.crash = some c ∧ code ∈ [0x0051, 0x0052, 0x0053, 0x0054, 0x0055] :=
  by
  refine ⟨{ w0 with err := { Err.reset with fatal := true, crash := some crash0 } }, 0x51, crash0,
    ?_, ?_, ?_, ?_⟩ <;> decide +kernel

theorem witness_FencesAndHandler_9 : ∃ (s : State) (l : _), s.err.pendPf = true ∧ s.err.fatal = false ∧ s.err.lastPf = some l ∧ l + 10000 ≤ s.clk :=
  by
  refine ⟨{ w0 with err := { Err.reset with pendPf := true, lastPf := some (10 ^ 10 - 10000) } }, 10 ^ 10 - 10000,
    ?_, ?_, ?_, ?_⟩ <;> decide +kernel

theorem witness_FencesAndHandler_10 : ∃ (s : State) (l : _) (b : _) (rest : _), s.err.pendSb = b :: rest ∧ s.err.lastSb = some l ∧ l + 10000 ≤ s.clk ∧ s.i3c = true ∧ s.side.events % 2 = 1 :=
  by
  refine ⟨{ w0 with err := { Err.reset with pendSb := [1], lastSb := some 0 } }, 0, 1, [],
    ?_, ?_, ?_, ?_, ?_⟩ <;> decide +kernel

theorem witness_FencesAndHandler_11 : ∃ (s : State) (b : _) (rest : _) (l : _), s.err.pendSb = b :: rest ∧ s.err.lastSb = some l ∧ s.clk < l + 10000 :=
  by
  refine ⟨{ w0 with err := { Err.reset with pendSb := [1], lastSb := some (10 ^ 10 - 9999) } }, 1, [], 10 ^ 10 - 9999,
    ?_, ?_, ?_⟩ <;> decide +kernel


/-! ### Witnesses, part 7 -/

def key7 : BitVec 256 := 1
def sess7 : Sess := { td := 1, peer := 9, mgmt := false, frameKey := key7, exportKey := 2, fcnt := 0, xid := 0, old := none }
def port7 : Port := { Port.reset with state := .up, pctl := 0x80044000 }
/-- Node 7, whose port 0 carries, with a session of domain 1 with the node 9, which belongs to host 3. -/
def nd (s : State) (l : List Qp) : State :=
  { s with
    fab := { Fab.reset with nodeid := 7, ports := [(0, port7)], route := [(0, 1)], hmap := [(0, 0x80000003)] }
    net := { Net.reset with sess := [sess7], qps := l } }
def qp7 : Qp := newQp w0 1 16385 9 77 0 32 0 7
def frp (ty psn addr rkey alen : Nat) (fin : Bool) (pl : List Byte) : Frame :=
  { uver := 1, ftype := ty, td := 1, mgmt := false, final := fin, src := 9, dst := 7, qpn := 16385, psn := psn, rsv1 := 0, plen := pl.length, tstamp := 0
    msn := 3, gust := 0, fence := false, solicit := false, rsv2 := 0, fcnt := 1, addr := addr, rkey := rkey, alen := alen, payload := pl, tag := 0
    sof := pl.length + 56 }
def fr7 (ty psn addr rkey alen : Nat) (fin : Bool) (pl : List Byte) : Frame :=
  { frp ty psn addr rkey alen fin pl with tag := frameTag key7 (frp ty psn addr rkey alen fin pl) }
def badTag : Frame := { frp 1 0 0 0 0 false [] with tag := frameTag key7 (frp 1 0 0 0 0 false []) + 1 }
theorem badTag_bad (s : State) : tagOk s sess7 badTag = false := by
  have h : frameTag key7 badTag = frameTag key7 (frp 1 0 0 0 0 false []) := by simp only [badTag, frameTag, headerBytes]
  have g : badTag.tag = frameTag key7 (frp 1 0 0 0 0 false []) + 1 := rfl
  simp only [tagOk, sess7, h, g, Bool.or_false]
  generalize frameTag key7 (frp 1 0 0 0 0 false []) = v
  have : v ≠ v + 1 := by bv_omega
  exact beq_eq_false_iff_ne.mpr this
def chk (s : State) (p : Nat) (f : Frame) (x : Sess) : Bool :=
  decide ((port s p).carries = true ∧ frameOk f = true ∧ f.dst = nodeId s ∧ mgmtOk s f = true ∧ sess? s f.mgmt f.td f.src = some x)
theorem chk_ok {s : State} {p : Nat} {f : Frame} (x : Sess) (h : chk s p f x = true) (ht : frameTag x.frameKey f = f.tag) :
    checkFrame p f s = (true, bump (ctrPort p 1) s) := by
  obtain ⟨h1, h2, h3, h4, h5⟩ := of_decide_eq_true h
  simp [checkFrame, tagOk, h1, h2, h3, h4, h5, ht]
def arr (s : State) (p : Nat) (f : Frame) (q : Qp) : Bool :=
  decide (f.mgmt = false ∧ (police p f (bump (ctrPort p 1) s)).1 = true ∧ qp? s f.qpn = some q ∧ (q.td = f.td ∧ q.peer = f.src) ∧ q.state = .ready ∧ q.onNode = true)
theorem arr_ok {s : State} {p : Nat} {f : Frame} {q : Qp} (x : Sess) (hc : chk s p f x = true) (h : arr s p f q = true)
    (ht : frameTag x.frameKey f = f.tag) : Arrives s p f q := by
  obtain ⟨h1, h2, h3, h4, h5⟩ := of_decide_eq_true h
  exact ⟨by rw [chk_ok x hc ht], h1, by rw [chk_ok x hc ht]; exact h2, h3, h4, h5⟩
/-- An OWNER message: its words 0, 2, 6 and 7, of the sequence at `sva`. -/
def om (w0 sva w2 w6 w7 : Nat) (body : List Byte) : List Byte :=
  leBytes (w0 + 2 ^ 52) 8 ++ leBytes sva 8 ++ leBytes w2 8 ++ leBytes 0xFFFFFFFF 8 ++ leBytes (256 * 2 ^ 32 + 256) 8 ++ leBytes (0x10002 * 2 ^ 32) 8 ++ leBytes w6 8
    ++ leBytes w7 8 ++ body
def mig7 (inc : Bool) : Mig :=
  { incoming := inc, peer := 9, qpn := 16385, thandoff := 0, progress := 0, tclaim := none, cmd := none, toRead := [], inFlight := [], handoffSent := false
    manifest := [], handoffHdr := [], host := 3, tfwd := 0 }
def sq7 (st : SeqState) (inc : Bool) : SeqD := { sq0 with state := st, mig := some (mig7 inc) }
def sqE7 : SeqD := { sq7 .migrating true with len := 0, tfront := 0, l1 := [], l2 := [], leaves := [] }
def of7 (w0 sva w6 : Nat) (body : List Byte) : Frame := fr7 7 0 0 0 0 true (om w0 sva (3 * 2 ^ 18) w6 0x20040000 body)
def om7 (w0 sva w6 : Nat) (body : List Byte) : OwnerM := OwnerM.ofBytes (om w0 sva (3 * 2 ^ 18) w6 0x20040000 body)
/-- A claim in a decision: state, COMPLETE, MGEN, node and pages. -/
def claim (st compl mgen node pages : Nat) : List Byte :=
  om (9 * 2 ^ 56 + st * 2 ^ 49 + compl * 2 ^ 47 + mgen * 2 ^ 16) (svaOf 1 5 0) (node * 2 ^ 46 + 3 * 2 ^ 18) (pages * 2 ^ 32) 0x20040000 []
def decn (lost peer : Nat) (c1 c2 : List Byte) : List Byte :=
  om (10 * 2 ^ 56 + lost * 2 ^ 46) (svaOf 1 5 0) (9 * 2 ^ 46 + peer * 2 ^ 28 + 3 * 2 ^ 18) 0 0x20040000 (c1 ++ c2)
def dec7 (lost peer : Nat) (c1 c2 : List Byte) : Frame := fr7 7 0 0 0 0 true (decn lost peer c1 c2)
def tx7 (ty : Nat) : TxFrame := txTo qp7 ty .bulk
def sent7 : Sent := { psn := 0, at_ := 0, marked := false, naked := false, f := tx7 2 }
def tm7 : TxMsg := { msn := 1, frames := [tx7 2], owner := .other, firstPsn := none, finalPsn := none, nak := none }
/-- A frame as received by port 0 from the host 3. -/
def rc7 (f : Frame) : Rcvd := { port := 0, host := 3, f := f }
def rd7 (addr : Nat) : RdReq := { psn := 4, msn := 3, addr := addr, rkey := 0x10002, alen := 64, fence := false, after := [], image := false }
def or7 : OwnRead := { psn := 5, td := 1, seqn := 5, page := 0, cmd := none, got := [], nak := none }
theorem fr7_tag (ty psn addr rkey alen : Nat) (fin : Bool) (pl : List Byte) :
    frameTag sess7.frameKey (fr7 ty psn addr rkey alen fin pl) = (fr7 ty psn addr rkey alen fin pl).tag := by
  simp only [fr7, sess7, frameTag, headerBytes]
theorem dec7_tag (lost peer : Nat) (c1 c2 : List Byte) : frameTag sess7.frameKey (dec7 lost peer c1 c2) = (dec7 lost peer c1 c2).tag := fr7_tag _ _ _ _ _ _ _
/-- No frame waits for room on the ports of the node 7. -/
theorem quiet7 (l : List Qp) (m : Bool) (d n : Nat) : builderWaits (nd w0 l) m d n = false := by
  unfold builderWaits
  split
  · rename_i pn _
    have h : (port (nd w0 l) pn).waiting = [] := by
      simp only [port, nd, lookD, look]
      split <;> rfl
    rw [h]; rfl
  · rfl

theorem witness_FramesAtPort_1 : ∃ (s : State) (i : Instr) (p : _) (f : _), (FrameRow s i p f ∨ i = .undefinedFrameType p f ∧ (f.ftype = 0 ∨ 9 ≤ f.ftype)) ∧ (port s p).carries = false :=
  ⟨nd w0 [], .attend 1 (frp 1 0 0 0 0 false []), 1, frp 1 0 0 0 0 false [],
    Or.inl (Or.inl (.head _)),
    by decide +kernel⟩

theorem witness_FramesAtPort_2 : ∃ (s : State) (i : Instr) (p : _) (f : _), (FrameRow s i p f ∨ i = .undefinedFrameType p f ∧ (f.ftype = 0 ∨ 9 ≤ f.ftype)) ∧ (port s p).carries = true ∧ frameOk f = false :=
  ⟨nd w0 [], .undefinedFrameType 0 (frp 0 0 0 0 0 false []), 0, frp 0 0 0 0 0 false [],
    Or.inr ⟨rfl, Or.inl rfl⟩,
    by decide +kernel,
    by decide +kernel⟩

theorem witness_FramesAtPort_3 : ∃ (s : State) (i : Instr) (p : _) (f : _), (FrameRow s i p f ∨ i = .undefinedFrameType p f ∧ (f.ftype = 0 ∨ 9 ≤ f.ftype)) ∧ (port s p).carries = true ∧ frameOk f = true ∧ f.dst ≠ nodeId s :=
  by
  refine ⟨nd w0 [], .attend 0 { frp 1 0 0 0 0 false [] with dst := 8 }, 0, { frp 1 0 0 0 0 false [] with dst := 8 },
    Or.inl (Or.inl (.head _)), ?_, ?_, ?_⟩ <;> decide +kernel

theorem witness_FramesAtPort_4 : ∃ (s : State) (i : Instr) (p : _) (f : _), (FrameRow s i p f ∨ i = .undefinedFrameType p f ∧ (f.ftype = 0 ∨ 9 ≤ f.ftype)) ∧ (port s p).carries = true ∧ frameOk f = true ∧ f.dst = nodeId s ∧ mgmtOk s f = false :=
  by
  refine ⟨nd w0 [], .attend 0 { frp 1 0 0 0 0 false [] with mgmt := true }, 0, { frp 1 0 0 0 0 false [] with mgmt := true },
    Or.inl (Or.inl (.head _)), ?_, ?_, ?_, ?_⟩ <;> decide +kernel

theorem witness_FramesAtPort_5 : ∃ (s : State) (i : Instr) (p : _) (f : _), (FrameRow s i p f ∨ i = .undefinedFrameType p f ∧ (f.ftype = 0 ∨ 9 ≤ f.ftype)) ∧ (port s p).carries = true ∧ frameOk f = true ∧ f.dst = nodeId s ∧ mgmtOk s f = true ∧ f.mgmt = false ∧ sess? s false f.td f.src = none :=
  by
  refine ⟨nd w0 [], .attend 0 { frp 1 0 0 0 0 false [] with src := 10 }, 0, { frp 1 0 0 0 0 false [] with src := 10 },
    Or.inl (Or.inl (.head _)), ?_, ?_, ?_, ?_, ?_, ?_⟩ <;> decide +kernel

theorem witness_FramesAtPort_6 : ∃ (s : State) (i : Instr) (p : _) (f : _) (x : _), (FrameRow s i p f ∨ i = .undefinedFrameType p f ∧ (f.ftype = 0 ∨ 9 ≤ f.ftype)) ∧ (port s p).carries = true ∧ frameOk f = true ∧ f.dst = nodeId s ∧ mgmtOk s f = true ∧ f.mgmt = false ∧ sess? s false f.td f.src = some x ∧ tagOk s x f = false :=
  by
  refine ⟨nd w0 [], .attend 0 badTag, 0, badTag, sess7,
    Or.inl (Or.inl (.head _)), ?_, ?_, ?_, ?_, ?_, ?_, badTag_bad _⟩ <;> decide +kernel

theorem witness_FramesAtPort_7 : ∃ (s : State) (i : Instr) (p : _) (f : _), FrameRow s i p f ∧ (checkFrame p f s).1 = true ∧ f.mgmt = false ∧ metered f = true ∧ (meter (hostOf s f.src) (64 + f.plen) s).1 = .red :=
  by
  refine ⟨{ nd w0 [] with fab := { (nd w0 []).fab with pol := [(3, 0x80000)], meter := [(3, (0, 0, 10 ^ 10))] } }, .attend 0 (fr7 1 0 0 0 0 false []), 0, fr7 1 0 0 0 0 false [],
    Or.inl (.head _), by rw [chk_ok sess7 (by decide +kernel) (fr7_tag _ _ _ _ _ _ _)], ?_, ?_, ?_⟩ <;> decide +kernel

theorem witness_FramesAtPort_8 : ∃ (s : State) (i : Instr) (p : _) (f : _), FrameRow s i p f ∧ (checkFrame p f s).1 = true ∧ f.mgmt = false ∧ (police p f (checkFrame p f s).2).1 = true ∧ (qp? s f.qpn = none ∨ (∃ q, qp? s f.qpn = some q ∧ (q.td ≠ f.td ∨ q.peer ≠ f.src))) :=
  ⟨nd w0 [], .attend 0 (fr7 1 0 0 0 0 false []), 0, fr7 1 0 0 0 0 false [],
    Or.inl (.head _),
    by rw [chk_ok sess7 (by decide +kernel) (fr7_tag _ _ _ _ _ _ _)],
    by decide +kernel,
    by rw [chk_ok sess7 (by decide +kernel) (fr7_tag _ _ _ _ _ _ _)]; decide +kernel,
    Or.inl (by decide +kernel)⟩

theorem witness_FramesAtPort_9 : ∃ (s : State) (i : Instr) (p : _) (f : _) (q : _) (pn : _), FrameRow s i p f ∧ (checkFrame p f s).1 = true ∧ f.mgmt = false ∧ (police p f (checkFrame p f s).2).1 = true ∧ qp? s f.qpn = some q ∧ q.td = f.td ∧ q.peer = f.src ∧ q.state = .error ∧ q.lastQperr = none ∧ usable s q.peer = [pn] :=
  by
  refine ⟨nd w0 [{ qp7 with state := .error }], .attend 0 (fr7 1 0 0 0 0 false []), 0, fr7 1 0 0 0 0 false [], { qp7 with state := .error }, 0,
    Or.inl (.head _), by rw [chk_ok sess7 (by decide +kernel) (fr7_tag _ _ _ _ _ _ _)], ?_, by rw [chk_ok sess7 (by decide +kernel) (fr7_tag _ _ _ _ _ _ _)]; decide +kernel, ?_, ?_, ?_, ?_, ?_, ?_⟩ <;> decide +kernel

theorem witness_FramesAtPort_10 : ∃ (s : State) (i : Instr) (p : _) (f : _) (q : _), FrameRow s i p f ∧ Arrives s p f q ∧ f.ftype ∉ [5, 6] ∧ (psnHalf ≤ psnSub f.psn q.epsn ∨ psnSub f.psn q.epsn ≤ q.win ∧ psnSub f.psn q.epsn ∈ q.rbits) :=
  ⟨nd w0 [qp7], .attend 0 (fr7 1 0xFFFFFF 0 0 0 false []), 0, fr7 1 0xFFFFFF 0 0 0 false [], qp7,
    Or.inl (.head _),
    arr_ok sess7 (by decide +kernel) (by decide +kernel) (fr7_tag _ _ _ _ _ _ _),
    by decide +kernel,
    by decide +kernel⟩

theorem witness_FramesAtPort_11 : ∃ (s : State) (i : Instr) (p : _) (f : _) (q : _), FrameRow s i p f ∧ Arrives s p f q ∧ f.ftype ∉ [5, 6] ∧ psnSub f.psn q.epsn < psnHalf ∧ q.win < psnSub f.psn q.epsn :=
  by
  refine ⟨nd w0 [qp7], .attend 0 (fr7 1 33 0 0 0 false []), 0, fr7 1 33 0 0 0 false [], qp7,
    Or.inl (.head _), arr_ok sess7 (by decide +kernel) (by decide +kernel) (fr7_tag _ _ _ _ _ _ _), ?_, ?_, ?_⟩ <;> decide +kernel

theorem witness_FramesApplied_1 : ∃ (s : State) (p : _) (f : _) (q : _), Arrives s p f q ∧ Fresh q f ∧ f.ftype = 1 ∧ (∀ m ∈ q.att, m.msn ≠ f.msn ∧ m.last = none) ∧ (∀ x ∈ q.ordered, x.f.psn ≠ f.psn) ∧ attendCheck q f = 0 :=
  by
  refine ⟨nd w0 [qp7], 0, fr7 1 32 524280 0 0 false (zeros 8), qp7,
    arr_ok sess7 (by decide +kernel) (by decide +kernel) (fr7_tag _ _ _ _ _ _ _), by unfold Fresh; decide +kernel, ?_, ?_, ?_, ?_⟩ <;> decide +kernel

theorem witness_FramesApplied_2 : ∃ (s : State) (p : _) (f : _) (q : _) (pn : _), Arrives s p f q ∧ Fresh q f ∧ f.ftype = 1 ∧ (∀ m ∈ q.att, m.msn ≠ f.msn ∧ m.last = none) ∧ (∀ x ∈ q.ordered, x.f.psn ≠ f.psn) ∧ attendCheck q f ≠ 0 ∧ ((f.final = true → 0 < psnSub f.psn q.epsn ∧ 0 ∉ q.rbits)) ∧ usable s q.peer = [pn] :=
  by
  refine ⟨nd w0 [qp7], 0, fr7 1 32 524281 0 0 false (zeros 8), qp7, 0,
    arr_ok sess7 (by decide +kernel) (by decide +kernel) (fr7_tag _ _ _ _ _ _ _), by unfold Fresh; decide +kernel, ?_, ?_, ?_, ?_, ?_, ?_⟩ <;> decide +kernel

theorem witness_FramesApplied_3 : ∃ (s : State) (n : _) (q : _) (x : _) (m : _), qp? s n = some q ∧ q.ordered = [x] ∧ x.f.ftype = 1 ∧ frameReady s q x.f = true ∧ m ∈ q.att ∧ m.msn = x.f.msn ∧ ((∀ k ∈ q.att, k.msn = x.f.msn → k = m)) :=
  by
  refine ⟨nd w0 [{ qp7 with epsn := 1, unapplied := [0], ordered := [rc7 (frp 1 0 0 0 0 true [])], att := [{ msn := 3, bytes := [], bad := true, last := none }] }], 16385, { qp7 with epsn := 1, unapplied := [0], ordered := [rc7 (frp 1 0 0 0 0 true [])], att := [{ msn := 3, bytes := [], bad := true, last := none }] }, rc7 (frp 1 0 0 0 0 true []), { msn := 3, bytes := [], bad := true, last := none },
    ?_, ?_, ?_, ?_, ?_, ?_, ?_⟩ <;> decide +kernel

theorem witness_FramesApplied_4 : ∃ (s : State) (p : _) (f : _) (q : _) (d : _) (l : _), Arrives s p f q ∧ Fresh q f ∧ f.ftype = 2 ∧ f.final = false ∧ (accessCheck s q (hostOf s f.src) f).1 = 0 ∧ writeMoving s f = false ∧ 0 < f.plen ∧ let a := Sva.ofNat f.addr; let pix := pageIx a.layer a.head a.tpage; let w := wrPage s.mem l.frame a.off f.payload; seq? s a.td a.seqn = some d ∧ walk s d pix = .page l l ∧ l.tier = .dram ∧ (edgeRead s.mem l.frame a.off f.plen).bad = [] :=
  by
  refine ⟨nd (wsq { sq0 with len := 0, tfront := 0 }) [qp7], 0, fr7 2 0 (svaOf 1 5 0) 0x10002 0 false (List.replicate 32 0x55), qp7, { sq0 with len := 0, tfront := 0 }, leaf0,
    arr_ok sess7 (by decide +kernel) (by decide +kernel) (fr7_tag _ _ _ _ _ _ _), by unfold Fresh; decide +kernel, ?_, ?_, ?_, ?_, ?_, by dsimp only; decide +kernel⟩ <;> decide +kernel

theorem witness_FramesApplied_5 : ∃ (s : State) (i : Instr) (p : _) (f : _) (q : _) (pn : _), Arrives s p f q ∧ Fresh q f ∧ (i, f.ftype) ∈ [(.write p f, 2), (.readReq p f, 3)] ∧ (accessCheck s q (hostOf s f.src) f).1 ∉ [0, 3] ∧ usable s q.peer = [pn] :=
  ⟨nd w0 [qp7], .readReq 0 (fr7 3 0 (svaOf 1 6 0) 0x10002 64 true []), 0, fr7 3 0 (svaOf 1 6 0) 0x10002 64 true [], qp7, 0,
    arr_ok sess7 (by decide +kernel) (by decide +kernel) (fr7_tag _ _ _ _ _ _ _),
    by unfold Fresh; decide +kernel,
    .tail _ (.head _),
    by decide +kernel,
    by decide +kernel⟩

theorem witness_FramesApplied_6 : ∃ (s : State) (p : _) (f : _) (q : _), Arrives s p f q ∧ InTurn q f ∧ f.ftype = 3 ∧ (accessCheck s q (hostOf s f.src) f).1 = 0 ∧ Settled s :=
  ⟨nd w0 [qp7], 0, fr7 3 0 (svaOf 1 5 0) 0x10002 64 true [], qp7,
    arr_ok sess7 (by decide +kernel) (by decide +kernel) (fr7_tag _ _ _ _ _ _ _),
    by unfold InTurn; decide +kernel,
    by decide +kernel,
    by decide +kernel,
    by unfold Settled; decide +kernel⟩

theorem witness_FramesApplied_7 : ∃ (s : State) (p : _) (f : _) (q : _) (r : _), Arrives s p f q ∧ InTurn q f ∧ f.ftype = 4 ∧ f.final = false ∧ headRead q = some r ∧ Settled s :=
  by
  refine ⟨nd w0 [{ qp7 with ownReads := [or7] }], 0, fr7 4 0 0 0 0 false (zeros 64), { qp7 with ownReads := [or7] }, or7,
    arr_ok sess7 (by decide +kernel) (by decide +kernel) (fr7_tag _ _ _ _ _ _ _), by unfold InTurn; decide +kernel, ?_, ?_, ?_, by unfold Settled; decide +kernel⟩ <;> decide +kernel

theorem witness_FramesApplied_8 : ∃ (s : State) (p : _) (f : _) (q : _), Arrives s p f q ∧ f.ftype = 5 ∧ q.sendq = [] ∧ bitsSet (fit (slice f.payload 32 128) 128) = [] ∧ let cpsn := nbits (le f.payload 0 8) 63 40; 0 < psnSub cpsn q.suna ∧ psnSub cpsn q.suna ≤ psnSub q.snxt q.suna :=
  by
  refine ⟨nd w0 [{ qp7 with snxt := 3, sent := [sent7] }], 0, fr7 5 0 0 0 0 false (leBytes (3 * 2 ^ 40) 8 ++ zeros 152), { qp7 with snxt := 3, sent := [sent7] },
    arr_ok sess7 (by decide +kernel) (by decide +kernel) (fr7_tag _ _ _ _ _ _ _), ?_, ?_, ?_, by dsimp only; decide +kernel⟩ <;> decide +kernel

theorem witness_FramesApplied_9 : ∃ (s : State) (p : _) (f : _) (q : _), Arrives s p f q ∧ f.ftype = 6 ∧ q.ownReads = [] :=
  ⟨nd w0 [{ qp7 with snxt := 3, sent := [sent7] }], 0, fr7 6 0 0 0 0 false (leBytes (2 ^ 32) 8 ++ zeros 8), { qp7 with snxt := 3, sent := [sent7] },
    arr_ok sess7 (by decide +kernel) (by decide +kernel) (fr7_tag _ _ _ _ _ _ _),
    by decide +kernel,
    by decide +kernel⟩

theorem witness_OwnerMessages_1 : ∃ (s : State) (p : _) (f : _) (q : _) (m : _) (d : _), OwnerIn s p f q m ∧ m.mtype = 1 ∧ seq? s q.td (Sva.ofNat m.sva).seqn = some d ∧ d.state ≠ .forwarded ∧ ownerHost s (hostOf s f.src) q.td (Sva.ofNat m.sva).seqn = true :=
  by
  refine ⟨nd w0 [qp7], 0, of7 (2 ^ 56) (svaOf 1 5 0) 0 [], qp7, om7 (2 ^ 56) (svaOf 1 5 0) 0 [], sq0,
    ⟨arr_ok sess7 (by decide +kernel) (by decide +kernel) (fr7_tag _ _ _ _ _ _ _), ?_, by unfold InTurn; decide +kernel, ?_, ?_, ?_, ?_, by unfold Settled; decide +kernel⟩, ?_, ?_, ?_, ?_⟩ <;> decide +kernel

theorem witness_OwnerMessages_2 : ∃ (s : State) (p : Nat) (f : Frame) (q : Qp) (m : OwnerM) (d : SeqD) (i : Instr) (r : Nat), OwnerIn s p f q m ∧ (i, m.mtype, r) ∈ [(.offer p f, 1, 2), (.handoff p f, 4, 6)] ∧ seq? s q.td (Sva.ofNat m.sva).seqn = some d ∧ ownerHost s (hostOf s f.src) q.td (Sva.ofNat m.sva).seqn = false :=
  by
  refine ⟨{ nd w0 [qp7] with fab := { (nd w0 [qp7]).fab with hmap := [] } }, 0, of7 (2 ^ 56) (svaOf 1 5 0) 0 [], qp7, om7 (2 ^ 56) (svaOf 1 5 0) 0 [], sq0, .offer 0 (of7 (2 ^ 56) (svaOf 1 5 0) 0 []), 2,
    ⟨arr_ok sess7 (by decide +kernel) (by decide +kernel) (fr7_tag _ _ _ _ _ _ _), ?_, by unfold InTurn; decide +kernel, ?_, ?_, ?_, ?_, by unfold Settled; decide +kernel⟩, List.mem_cons.mpr (Or.inl rfl), ?_, ?_⟩ <;> decide +kernel

theorem witness_OwnerMessages_3 : ∃ (s : State) (p : _) (f : _) (q : _) (m : _) (e : _), OwnerIn s p f q m ∧ m.mtype = 1 ∧ seq? s q.td (Sva.ofNat m.sva).seqn = none ∧ m.sva % 2 ^ 40 = 0 ∧ m.geomw = (dom s q.td).geom.toNat ∧ m.body = fmtBytes s q.td ∧ m.body.length = 64 ∧ m.ntp = 0 ∧ s.cmp.exts.find? (fun e => e.2.td == q.td && e.2.host == m.host && e.2.state == .active) = some e ∧ m.host = hostOf s f.src ∧ descRoom s q.td (seqKey q.td (Sva.ofNat m.sva).seqn) = true :=
  by
  refine ⟨nd w0 [qp7], 0, of7 (2 ^ 56) (svaOf 1 6 0) 0 (fmtBytes w0 1), qp7, om7 (2 ^ 56) (svaOf 1 6 0) 0 (fmtBytes w0 1), (7, ext0),
    ⟨arr_ok sess7 (by decide +kernel) (by decide +kernel) (fr7_tag _ _ _ _ _ _ _), ?_, by unfold InTurn; decide +kernel, ?_, ?_, ?_, ?_, by unfold Settled; decide +kernel⟩, ?_, ?_, ?_, ?_, ?_, ?_, ?_, ?_, ?_, ?_⟩ <;> decide +kernel

theorem witness_OwnerMessages_4 : ∃ (s : State) (p : _) (f : _) (q : _) (m : _) (d : _) (g : _), OwnerIn s p f q m ∧ seq? s q.td (Sva.ofNat m.sva).seqn = some d ∧ d.td = q.td ∧ d.seqn = (Sva.ofNat m.sva).seqn ∧ d.mig = some g ∧ g.qpn = f.qpn ∧ g.peer = q.peer % 2 ^ 18 ∧ NoneHeld s d.td d.seqn ∧ ownerHost s (hostOf s f.src) d.td d.seqn = true ∧ m.mtype = 2 ∧ sourceOf d = true ∧ m.status = 0 :=
  by
  refine ⟨nd (wsq (sq7 .migrating false)) [qp7], 0, of7 (2 * 2 ^ 56) (svaOf 1 5 0) 0 [], qp7, om7 (2 * 2 ^ 56) (svaOf 1 5 0) 0 [], sq7 .migrating false, mig7 false,
    ⟨arr_ok sess7 (by decide +kernel) (by decide +kernel) (fr7_tag _ _ _ _ _ _ _), ?_, by unfold InTurn; decide +kernel, ?_, ?_, ?_, ?_, by unfold Settled; decide +kernel⟩, ?_, ?_, ?_, ?_, ?_, ?_, by unfold NoneHeld; decide +kernel, ?_, ?_, ?_, ?_⟩ <;> decide +kernel

theorem witness_OwnerMessages_5 : ∃ (s : State) (p : _) (f : _) (q : _) (m : _) (d : _) (g : _), OwnerIn s p f q m ∧ seq? s q.td (Sva.ofNat m.sva).seqn = some d ∧ d.td = q.td ∧ d.seqn = (Sva.ofNat m.sva).seqn ∧ d.mig = some g ∧ g.qpn = f.qpn ∧ g.peer = q.peer % 2 ^ 18 ∧ NoneHeld s d.td d.seqn ∧ ownerHost s (hostOf s f.src) d.td d.seqn = true ∧ m.mtype = 2 ∧ sourceOf d = true ∧ m.status ≠ 0 :=
  by
  refine ⟨nd (wsq (sq7 .migrating false)) [qp7], 0, of7 (2 * 2 ^ 56 + 0x45) (svaOf 1 5 0) 0 [], qp7, om7 (2 * 2 ^ 56 + 0x45) (svaOf 1 5 0) 0 [], sq7 .migrating false, mig7 false,
    ⟨arr_ok sess7 (by decide +kernel) (by decide +kernel) (fr7_tag _ _ _ _ _ _ _), ?_, by unfold InTurn; decide +kernel, ?_, ?_, ?_, ?_, by unfold Settled; decide +kernel⟩, ?_, ?_, ?_, ?_, ?_, ?_, by unfold NoneHeld; decide +kernel, ?_, ?_, ?_, ?_⟩ <;> decide +kernel

theorem witness_OwnerMessages_6 : ∃ (s : State) (p : _) (f : _) (q : _) (m : _) (d : _) (g : _), OwnerIn s p f q m ∧ seq? s q.td (Sva.ofNat m.sva).seqn = some d ∧ d.td = q.td ∧ d.seqn = (Sva.ofNat m.sva).seqn ∧ d.mig = some g ∧ g.qpn = f.qpn ∧ g.peer = q.peer % 2 ^ 18 ∧ NoneHeld s d.td d.seqn ∧ ownerHost s (hostOf s f.src) d.td d.seqn = true ∧ m.mtype = 3 ∧ sourceOf d = true :=
  by
  refine ⟨nd (wsq (sq7 .migrating false)) [qp7], 0, of7 (3 * 2 ^ 56) (svaOf 1 5 0) 0 [], qp7, om7 (3 * 2 ^ 56) (svaOf 1 5 0) 0 [], sq7 .migrating false, mig7 false,
    ⟨arr_ok sess7 (by decide +kernel) (by decide +kernel) (fr7_tag _ _ _ _ _ _ _), ?_, by unfold InTurn; decide +kernel, ?_, ?_, ?_, ?_, by unfold Settled; decide +kernel⟩, ?_, ?_, ?_, ?_, ?_, ?_, by unfold NoneHeld; decide +kernel, ?_, ?_, ?_⟩ <;> decide +kernel

theorem witness_OwnerMessages_7 : ∃ (s : State) (p : _) (f : _) (q : _) (m : _) (d : _) (g : _), OwnerIn s p f q m ∧ seq? s q.td (Sva.ofNat m.sva).seqn = some d ∧ d.td = q.td ∧ d.seqn = (Sva.ofNat m.sva).seqn ∧ d.mig = some g ∧ g.qpn = f.qpn ∧ g.peer = q.peer % 2 ^ 18 ∧ NoneHeld s d.td d.seqn ∧ ownerHost s (hostOf s f.src) d.td d.seqn = true ∧ m.mtype = 5 ∧ d.state = .handoff ∧ d.exp = none :=
  by
  refine ⟨nd (wsq (sq7 .handoff false)) [qp7], 0, of7 (5 * 2 ^ 56) (svaOf 1 5 0) 0 [], qp7, om7 (5 * 2 ^ 56) (svaOf 1 5 0) 0 [], sq7 .handoff false, mig7 false,
    ⟨arr_ok sess7 (by decide +kernel) (by decide +kernel) (fr7_tag _ _ _ _ _ _ _), ?_, by unfold InTurn; decide +kernel, ?_, ?_, ?_, ?_, by unfold Settled; decide +kernel⟩, ?_, ?_, ?_, ?_, ?_, ?_, by unfold NoneHeld; decide +kernel, ?_, ?_, ?_, ?_⟩ <;> decide +kernel

theorem witness_OwnerMessages_8 : ∃ (s : State) (p : _) (f : _) (q : _) (m : _) (d : _) (g : _), OwnerIn s p f q m ∧ seq? s q.td (Sva.ofNat m.sva).seqn = some d ∧ d.td = q.td ∧ d.seqn = (Sva.ofNat m.sva).seqn ∧ d.mig = some g ∧ g.qpn = f.qpn ∧ g.peer = q.peer % 2 ^ 18 ∧ NoneHeld s d.td d.seqn ∧ ownerHost s (hostOf s f.src) d.td d.seqn = true ∧ m.mtype = 6 ∧ (sourceOf d = true ∨ d.state = .handoff) :=
  by
  refine ⟨nd (wsq (sq7 .handoff false)) [qp7], 0, of7 (6 * 2 ^ 56) (svaOf 1 5 0) 0 [], qp7, om7 (6 * 2 ^ 56) (svaOf 1 5 0) 0 [], sq7 .handoff false, mig7 false,
    ⟨arr_ok sess7 (by decide +kernel) (by decide +kernel) (fr7_tag _ _ _ _ _ _ _), ?_, by unfold InTurn; decide +kernel, ?_, ?_, ?_, ?_, by unfold Settled; decide +kernel⟩, ?_, ?_, ?_, ?_, ?_, ?_, by unfold NoneHeld; decide +kernel, ?_, ?_, ?_⟩ <;> decide +kernel

theorem witness_OwnerMessages_9 : ∃ (s : State) (p : _) (f : _) (q : _) (m : _) (d : _) (g : _), OwnerIn s p f q m ∧ seq? s q.td (Sva.ofNat m.sva).seqn = some d ∧ d.td = q.td ∧ d.seqn = (Sva.ofNat m.sva).seqn ∧ d.mig = some g ∧ g.qpn = f.qpn ∧ g.peer = q.peer % 2 ^ 18 ∧ NoneHeld s d.td d.seqn ∧ ownerHost s (hostOf s f.src) d.td d.seqn = true ∧ m.mtype = 6 ∧ destOf d = true :=
  by
  refine ⟨nd (wsq sqE7) [qp7], 0, of7 (6 * 2 ^ 56) (svaOf 1 5 0) 0 [], qp7, om7 (6 * 2 ^ 56) (svaOf 1 5 0) 0 [], sqE7, mig7 true,
    ⟨arr_ok sess7 (by decide +kernel) (by decide +kernel) (fr7_tag _ _ _ _ _ _ _), ?_, by unfold InTurn; decide +kernel, ?_, ?_, ?_, ?_, by unfold Settled; decide +kernel⟩, ?_, ?_, ?_, ?_, ?_, ?_, by unfold NoneHeld; decide +kernel, ?_, ?_, ?_⟩ <;> decide +kernel

theorem witness_OwnerMessages_10 : ∃ (s : State) (p : _) (f : _) (q : _) (m : _) (d : _) (g : _), OwnerIn s p f q m ∧ seq? s q.td (Sva.ofNat m.sva).seqn = some d ∧ d.td = q.td ∧ d.seqn = (Sva.ofNat m.sva).seqn ∧ d.mig = some g ∧ g.qpn = f.qpn ∧ g.peer = q.peer % 2 ^ 18 ∧ NoneHeld s d.td d.seqn ∧ ownerHost s (hostOf s f.src) d.td d.seqn = true ∧ m.mtype = 4 ∧ destOf d = true ∧ m.ntp = 0 ∧ mappedPages d = [] ∧ g.toRead = [] ∧ g.inFlight = [] :=
  by
  refine ⟨nd (wsq sqE7) [qp7], 0, of7 (4 * 2 ^ 56) (svaOf 1 5 0) 0 [], qp7, om7 (4 * 2 ^ 56) (svaOf 1 5 0) 0 [], sqE7, mig7 true,
    ⟨arr_ok sess7 (by decide +kernel) (by decide +kernel) (fr7_tag _ _ _ _ _ _ _), ?_, by unfold InTurn; decide +kernel, ?_, ?_, ?_, ?_, by unfold Settled; decide +kernel⟩, ?_, ?_, ?_, ?_, ?_, ?_, by unfold NoneHeld; decide +kernel, ?_, ?_, ?_, ?_, ?_, ?_, ?_⟩ <;> decide +kernel

theorem witness_OwnerMessages_11 : ∃ (s : State) (p : _) (f : _) (q : _) (m : _), OwnerIn s p f q m ∧ m.mtype = 4 ∧ seq? s q.td (Sva.ofNat m.sva).seqn = none :=
  by
  refine ⟨nd w0 [qp7], 0, of7 (4 * 2 ^ 56) (svaOf 1 6 0) 0 [], qp7, om7 (4 * 2 ^ 56) (svaOf 1 6 0) 0 [],
    ⟨arr_ok sess7 (by decide +kernel) (by decide +kernel) (fr7_tag _ _ _ _ _ _ _), ?_, by unfold InTurn; decide +kernel, ?_, ?_, ?_, ?_, by unfold Settled; decide +kernel⟩, ?_, ?_⟩ <;> decide +kernel

theorem witness_OwnerMessages_12 : ∃ (s : State) (p : _) (f : _) (q : _) (m : _), OwnerIn s p f q m ∧ m.mtype = 8 :=
  by
  refine ⟨nd w0 [qp7], 0, of7 (8 * 2 ^ 56) (svaOf 1 5 0) 0 [], qp7, om7 (8 * 2 ^ 56) (svaOf 1 5 0) 0 [],
    ⟨arr_ok sess7 (by decide +kernel) (by decide +kernel) (fr7_tag _ _ _ _ _ _ _), ?_, by unfold InTurn; decide +kernel, ?_, ?_, ?_, ?_, by unfold Settled; decide +kernel⟩, ?_⟩ <;> decide +kernel

theorem witness_OwnerMessages_13 : ∃ (s : State) (p : _) (f : _) (q : _) (m : _) (d : _) (c1 : _) (c2 : _), OwnerIn s p f q m ∧ m.mtype = 10 ∧ seq? s q.td (Sva.ofNat m.sva).seqn = some d ∧ d.td = q.td ∧ d.seqn = (Sva.ofNat m.sva).seqn ∧ NoneHeld s d.td d.seqn ∧ ownerHost s (hostOf s f.src) d.td d.seqn = true ∧ OwnerM.ofBytes (slice m.body 0 64) = c1 ∧ OwnerM.ofBytes (slice m.body 64 64) = c2 ∧ c1.node = nodeId s ∧ c1.st = d.state.code ∧ c1.mgen = d.mgen ∧ m.lostd = false ∧ pick c1 c2 = some m.peer ∧ m.peer ≠ nodeId s :=
  by
  refine ⟨nd w0 [qp7], 0, dec7 0 9 (claim 1 1 0 7 1) (claim 1 1 1 9 1), qp7, OwnerM.ofBytes (decn 0 9 (claim 1 1 0 7 1) (claim 1 1 1 9 1)), sq0, OwnerM.ofBytes (claim 1 1 0 7 1), OwnerM.ofBytes (claim 1 1 1 9 1),
    ⟨arr_ok sess7 (by decide +kernel) (by decide +kernel) (dec7_tag _ _ _ _), ?_, by unfold InTurn; decide +kernel, ?_, ?_, ?_, ?_, by unfold Settled; decide +kernel⟩, ?_, ?_, ?_, ?_, by unfold NoneHeld; decide +kernel, ?_, ?_, ?_, ?_, ?_, ?_, ?_, ?_, ?_⟩ <;> decide +kernel

theorem witness_OwnerMessages_14 : ∃ (s : State) (p : _) (f : _) (q : _) (m : _) (d : _) (c1 : _) (c2 : _), OwnerIn s p f q m ∧ m.mtype = 10 ∧ seq? s q.td (Sva.ofNat m.sva).seqn = some d ∧ d.td = q.td ∧ d.seqn = (Sva.ofNat m.sva).seqn ∧ NoneHeld s d.td d.seqn ∧ ownerHost s (hostOf s f.src) d.td d.seqn = true ∧ OwnerM.ofBytes (slice m.body 0 64) = c1 ∧ OwnerM.ofBytes (slice m.body 64 64) = c2 ∧ c1.node = nodeId s ∧ c1.st = d.state.code ∧ c1.mgen = d.mgen ∧ m.lostd = false ∧ pick c1 c2 = some m.peer ∧ m.peer = nodeId s :=
  by
  refine ⟨nd w0 [qp7], 0, dec7 0 7 (claim 1 1 0 7 1) (claim 1 1 0 9 1), qp7, OwnerM.ofBytes (decn 0 7 (claim 1 1 0 7 1) (claim 1 1 0 9 1)), sq0, OwnerM.ofBytes (claim 1 1 0 7 1), OwnerM.ofBytes (claim 1 1 0 9 1),
    ⟨arr_ok sess7 (by decide +kernel) (by decide +kernel) (dec7_tag _ _ _ _), ?_, by unfold InTurn; decide +kernel, ?_, ?_, ?_, ?_, by unfold Settled; decide +kernel⟩, ?_, ?_, ?_, ?_, by unfold NoneHeld; decide +kernel, ?_, ?_, ?_, ?_, ?_, ?_, ?_, ?_, ?_⟩ <;> decide +kernel

theorem witness_OwnerMessages_15 : ∃ (s : State) (p : _) (f : _) (q : _) (m : _) (d : _) (c1 : _) (c2 : _), OwnerIn s p f q m ∧ m.mtype = 10 ∧ seq? s q.td (Sva.ofNat m.sva).seqn = some d ∧ d.td = q.td ∧ d.seqn = (Sva.ofNat m.sva).seqn ∧ NoneHeld s d.td d.seqn ∧ ownerHost s (hostOf s f.src) d.td d.seqn = true ∧ OwnerM.ofBytes (slice m.body 0 64) = c1 ∧ OwnerM.ofBytes (slice m.body 64 64) = c2 ∧ c1.node = nodeId s ∧ c1.st = d.state.code ∧ c1.mgen = d.mgen ∧ m.lostd = true ∧ pick c1 c2 = none :=
  by
  refine ⟨nd w0 [qp7], 0, dec7 1 0 (claim 1 0 0 7 1) (claim 1 1 0 9 0), qp7, OwnerM.ofBytes (decn 1 0 (claim 1 0 0 7 1) (claim 1 1 0 9 0)), sq0, OwnerM.ofBytes (claim 1 0 0 7 1), OwnerM.ofBytes (claim 1 1 0 9 0),
    ⟨arr_ok sess7 (by decide +kernel) (by decide +kernel) (dec7_tag _ _ _ _), ?_, by unfold InTurn; decide +kernel, ?_, ?_, ?_, ?_, by unfold Settled; decide +kernel⟩, ?_, ?_, ?_, ?_, by unfold NoneHeld; decide +kernel, ?_, ?_, ?_, ?_, ?_, ?_, ?_, ?_⟩ <;> decide +kernel

theorem witness_OwnerMessages_16 : ∃ (s : State) (p : _) (f : _) (q : _) (m : _) (d : _) (c1 : _) (c2 : _), OwnerIn s p f q m ∧ m.mtype = 10 ∧ seq? s q.td (Sva.ofNat m.sva).seqn = some d ∧ d.td = q.td ∧ d.seqn = (Sva.ofNat m.sva).seqn ∧ NoneHeld s d.td d.seqn ∧ ownerHost s (hostOf s f.src) d.td d.seqn = true ∧ OwnerM.ofBytes (slice m.body 0 64) = c1 ∧ OwnerM.ofBytes (slice m.body 64 64) = c2 ∧ c1.node = nodeId s ∧ c1.st = d.state.code ∧ c1.mgen = d.mgen ∧ (pick c1 c2 ≠ (if m.lostd then none else some m.peer)) :=
  by
  refine ⟨nd w0 [qp7], 0, dec7 0 9 (claim 1 1 0 7 1) (claim 1 1 0 9 1), qp7, OwnerM.ofBytes (decn 0 9 (claim 1 1 0 7 1) (claim 1 1 0 9 1)), sq0, OwnerM.ofBytes (claim 1 1 0 7 1), OwnerM.ofBytes (claim 1 1 0 9 1),
    ⟨arr_ok sess7 (by decide +kernel) (by decide +kernel) (dec7_tag _ _ _ _), ?_, by unfold InTurn; decide +kernel, ?_, ?_, ?_, ?_, by unfold Settled; decide +kernel⟩, ?_, ?_, ?_, ?_, by unfold NoneHeld; decide +kernel, ?_, ?_, ?_, ?_, ?_, ?_, ?_⟩ <;> decide +kernel

theorem witness_TransportEvents_1 : ∃ (s : State) (n : _) (q : _) (u : _) (pn : _), qp? s n = some q ∧ q.firstUnacked = some u ∧ u + 1000 ≤ s.now ∧ usable s q.peer = [pn] :=
  by
  refine ⟨nd w0 [{ qp7 with firstUnacked := some (10 ^ 10 - 1000) }], 16385, { qp7 with firstUnacked := some (10 ^ 10 - 1000) }, 10 ^ 10 - 1000, 0,
    ?_, ?_, ?_, ?_⟩ <;> decide +kernel

theorem witness_TransportEvents_2 : ∃ (s : State) (n : _) (q : _) (x : _), qp? s n = some q ∧ q.state = .ready ∧ q.sent.find? (fun x => x.psn == q.suna) = some x ∧ x.at_ + q.rto ≤ s.now ∧ builderWaits s false q.peer q.pqpn = false ∧ q.retries = rtxRetry s :=
  by
  refine ⟨nd w0 [{ qp7 with retries := 7, snxt := 1, sent := [sent7] }], 16385, { qp7 with retries := 7, snxt := 1, sent := [sent7] }, sent7,
    ?_, ?_, ?_, ?_, quiet7 _ _ _ _, ?_⟩ <;> decide +kernel

theorem witness_TransportEvents_3 : ∃ (s : State) (n : _) (q : _) (x : _), qp? s n = some q ∧ q.state = .ready ∧ q.sent.find? (fun x => x.psn == q.suna) = some x ∧ x.at_ + q.rto ≤ s.now ∧ builderWaits s false q.peer q.pqpn = false ∧ q.retries ≠ rtxRetry s :=
  by
  refine ⟨nd w0 [{ qp7 with snxt := 1, sent := [sent7] }], 16385, { qp7 with snxt := 1, sent := [sent7] }, sent7,
    ?_, ?_, ?_, ?_, quiet7 _ _ _ _, ?_⟩ <;> decide +kernel

theorem witness_TransportEvents_4 : ∃ (s : State) (n : _) (q : _) (m : _) (f : _), qp? s n = some q ∧ q.state = .ready ∧ q.onNode = true ∧ q.sendq = [m] ∧ m.frames = [f] ∧ f.ftype ≠ 3 ∧ psnSub q.snxt q.suna < min (q.cwnd / 256) (q.win + 1) ∧ builderWaits s false q.peer q.pqpn = false :=
  by
  refine ⟨nd w0 [{ qp7 with snxt := 15, sendq := [tm7] }], 16385, { qp7 with snxt := 15, sendq := [tm7] }, tm7, tx7 2,
    ?_, ?_, ?_, ?_, ?_, ?_, ?_, quiet7 _ _ _ _⟩ <;> decide +kernel

theorem witness_TransportEvents_5 : ∃ (s : State) (n : _) (q : _) (m : _) (tab : _), qp? s n = some q ∧ q.state = .ready ∧ q.onNode = false ∧ m ∈ q.sendq ∧ m.frames ≠ [] ∧ (∀ f ∈ s.net.fetches, f.qpn ≠ n) ∧ (dom s q.td).qpTab = some tab ∧ onNode s q.td < slotsOf s q.td ∧ dmaStopped s q.td = false :=
  by
  refine ⟨{ nd w0 [{ qp7 with onNode := false, sendq := [tm7] }] with doms := [(1, { Dom.reset with qpTab := some 4096 })] }, 16385, { qp7 with onNode := false, sendq := [tm7] }, tm7, 4096,
    ?_, ?_, ?_, ?_, ?_, ?_, ?_, ?_, ?_⟩ <;> decide +kernel

theorem witness_TransportEvents_6 : ∃ (s : State) (n : _) (q : _) (x : _), s.net.fetches.find? (fun f => f.qpn == n) = some x ∧ x.frames = [] ∧ qp? s n = some q ∧ q.state = .ready :=
  by
  refine ⟨{ nd w0 [] with net := { (nd w0 [{ qp7 with onNode := false }]).net with fetches := [{ qpn := 16385, start := 0, frames := [], late := false }] } }, 16385, { qp7 with onNode := false }, { qpn := 16385, start := 0, frames := [], late := false },
    ?_, ?_, ?_, ?_⟩ <;> decide +kernel

theorem witness_TransportEvents_7 : ∃ (s : State) (n : Nat) (q : Qp) (x : Fetch) (bs : List Byte), s.net.fetches.find? (fun f => f.qpn == n) = some x ∧ x.frames = [] ∧ qp? s n = some q ∧ q.state = .ready ∧ bs.length = 384 ∧ dmaStopped s q.td = false ∧ onNode s q.td ≤ slotsOf s q.td :=
  by
  refine ⟨{ nd w0 [] with net := { (nd w0 [{ qp7 with onNode := false }]).net with fetches := [{ qpn := 16385, start := 0, frames := [], late := false }] } }, 16385, { qp7 with onNode := false }, { qpn := 16385, start := 0, frames := [], late := false }, zeros 384,
    ?_, ?_, ?_, ?_, ?_, ?_, ?_⟩ <;> decide +kernel

theorem witness_TransportEvents_8 : ∃ (s : State) (n : _) (x : _), s.net.fetches.find? (fun f => f.qpn == n) = some x ∧ x.late = false ∧ x.frames ≠ [] ∧ x.start + 3000 ≤ s.now :=
  by
  refine ⟨{ nd w0 [] with net := { (nd w0 [{ qp7 with onNode := false }]).net with fetches := [{ qpn := 16385, start := 10 ^ 10 - 3000, frames := [rc7 (frp 1 0 0 0 0 false [])], late := false }] } }, 16385, { qpn := 16385, start := 10 ^ 10 - 3000, frames := [rc7 (frp 1 0 0 0 0 false [])], late := false },
    ?_, ?_, ?_, ?_⟩ <;> decide +kernel

theorem witness_TransportEvents_9 : ∃ (s : State) (n : _) (q : _) (r : _) (rest : _) (d : _) (l : _), qp? s n = some q ∧ q.reads = r :: rest ∧ q.state = .ready ∧ r.after = [] ∧ r.image = false ∧ let a := Sva.ofNat r.addr; seq? s a.td a.seqn = some d ∧ d.state = .own ∧ rkeyOf d = r.rkey ∧ walk s d (pageIx a.layer a.head a.tpage) = .page l l ∧ l.tier = .dram ∧ l.psn = false ∧ codeChan s (frChan l.frame) = .good ∧ (ch s (frChan l.frame)).retraining = false ∧ (rdPage s.mem l.frame 0 69632).bad = [] ∧ appendsPending s a.td a.seqn (pageIx a.layer a.head a.tpage) = false ∧ ((∀ x, ext? s d.ext = some x → x.state ≠ .draining)) ∧ Settled s :=
  by
  refine ⟨nd w0 [{ qp7 with reads := [rd7 (svaOf 1 5 0)] }], 16385, { qp7 with reads := [rd7 (svaOf 1 5 0)] }, rd7 (svaOf 1 5 0), [], sq0, leaf0,
    ?_, ?_, ?_, ?_, ?_, by unfold Settled; dsimp only; decide +kernel⟩ <;> decide +kernel

theorem witness_TransportEvents_10 : ∃ (s : State) (n : _) (q : _) (r : _) (rest : _) (pn : _), qp? s n = some q ∧ q.reads = r :: rest ∧ q.state = .ready ∧ r.after = [] ∧ seq? s (Sva.ofNat r.addr).td (Sva.ofNat r.addr).seqn = none ∧ usable s q.peer = [pn] :=
  by
  refine ⟨nd w0 [{ qp7 with reads := [rd7 (svaOf 1 6 0)] }], 16385, { qp7 with reads := [rd7 (svaOf 1 6 0)] }, rd7 (svaOf 1 6 0), [], 0,
    ?_, ?_, ?_, ?_, ?_, ?_⟩ <;> decide +kernel


/-! ### Witnesses, part 8 -/

/-- The board of a port 0 whose two lanes are wired. -/
def lanes0 (s : State) : State := { s with boot := { s.boot with board := { Board.reset with flanes := 3 } } }
def pt (x : Port) : State := { nd (lanes0 w0) [] with fab := { (nd w0 []).fab with ports := [(0, x)] } }
def lane8 (k : Nat) : LaneSeen := { signal := true, locked := true, inverted := false, llane := k, shorted := false }
def dark8 : LaneSeen := { signal := false, locked := false, inverted := false, llane := 0, shorted := false }
/-- The neighbour of port 0: kind 1, node 9, port 0. -/
def port8 (st : PortState) : Port := { port7 with state := st, nbr := BitVec.ofNat 64 (2 ^ 56 + 9) }
def id8 : IdBlock := { kind := 1, id := 9, port := 0, hid := 7, hport := 0, lane := 0 }
def tx8 : TxFrame := tx7 2
def flat8 (x : Port) : State := { pt x with fab := { (pt x).fab with schCtl := 0x84000800 } }
def shaped8 (x : Port) : State := { pt x with fab := { (pt x).fab with shp := [(2, 0x00080000)] } }
def i2c8 : State := { up0 with pwr := { pwrUp with sbSel := 2 } }
def alert8 (t : Nat) : State := { i2c8 with side := { Side.reset with alert := true, alertAt := t } }

theorem witness_EgressOrder_1 : ∃ (s : State) (pn : _) (f : _) (rest : _) (x : _), (port s pn).carries = true ∧ s.err.fatal = false ∧ (port s pn).ackq = f :: rest ∧ f.mgmt = false ∧ sess? s false f.td f.dst = some x :=
  by
  refine ⟨pt { port7 with ackq := [tx8] }, 0, tx8, [], sess7,
    ?_, ?_, ?_, ?_, ?_⟩ <;> decide +kernel

theorem witness_EgressOrder_2 : ∃ (s : State) (pn : _) (f : _) (rest : _) (x : _), (port s pn).carries = true ∧ s.err.fatal = false ∧ (port s pn).ackq = [] ∧ (port s pn).expedite = f :: rest ∧ f.mgmt = false ∧ sess? s false f.td f.dst = some x :=
  by
  refine ⟨pt { port7 with expedite := [tx8] }, 0, tx8, [], sess7,
    ?_, ?_, ?_, ?_, ?_, ?_⟩ <;> decide +kernel

theorem witness_EgressOrder_3 : ∃ (s : State) (pn : _) (f : _) (h : _) (c : _) (x : _), (port s pn).carries = true ∧ s.err.fatal = false ∧ (port s pn).ackq = [] ∧ (port s pn).expedite = [] ∧ flatMode s = false ∧ c < 3 ∧ (port s pn).queues = [(4 * h + c, [f])] ∧ idleOf s pn (c + 1) = 0 ∧ f.mgmt = false ∧ sess? s false f.td f.dst = some x :=
  by
  refine ⟨pt { port7 with queues := [(14, [tx8])] }, 0, tx8, 3, 2, sess7,
    ?_, ?_, ?_, ?_, ?_, ?_, ?_, ?_, ?_, ?_⟩ <;> decide +kernel

theorem witness_EgressOrder_4 : ∃ (s : State) (pn : _) (f : _) (h : _) (c : _), (port s pn).carries = true ∧ s.err.fatal = false ∧ (port s pn).ackq = [] ∧ (port s pn).expedite = [] ∧ flatMode s = false ∧ c < 3 ∧ (port s pn).queues = [(4 * h + c, [f])] ∧ idleOf s pn (c + 1) ≠ 0 ∧ lookD 0 (port (settleCredit pn s) pn).credit (c + 1) < 0 :=
  by
  refine ⟨shaped8 { port7 with queues := [(13, [tx8])], credit := [(2, -1)], creditAt := 10 ^ 10 }, 0, tx8, 3, 1,
    ?_, ?_, ?_, ?_, ?_, ?_, ?_, ?_, ?_⟩ <;> decide +kernel

theorem witness_EgressOrder_5 : ∃ (s : State) (pn : _) (f : _) (c : _) (x : _), (port s pn).carries = true ∧ s.err.fatal = false ∧ (port s pn).ackq = [] ∧ (port s pn).expedite = [] ∧ flatMode s = true ∧ (c ∈ [1, 2, 3] ∧ idleOf s pn c = 0 ∨ 100 ≤ c) ∧ (port s pn).queues = [(c, [f])] ∧ f.mgmt = false ∧ sess? s false f.td f.dst = some x :=
  by
  refine ⟨flat8 { port7 with queues := [(3, [tx8])] }, 0, tx8, 3, sess7,
    ?_, ?_, ?_, ?_, ?_, ?_, ?_, ?_, ?_⟩ <;> decide +kernel

theorem witness_EgressOrder_6 : ∃ (s : State) (pn : _) (f : _) (rest : _), (port s pn).carries = true ∧ s.err.fatal = false ∧ (port s pn).ackq = f :: rest ∧ sess? s f.mgmt f.td f.dst = none :=
  by
  refine ⟨{ pt { port7 with ackq := [tx8] } with net := Net.reset }, 0, tx8, [],
    ?_, ?_, ?_, ?_⟩ <;> decide +kernel

theorem witness_EgressOrder_7 : ∃ (s : State) (pn : _), ((port s pn).carries = false ∨ s.err.fatal = true) :=
  ⟨pt port7, 3,
    by decide +kernel⟩

theorem witness_EgressOrder_8 : ∃ (s : State) (pn : _) (f : _) (rest : _), (port s pn).waiting = f :: rest ∧ f.cls ≠ .ackNak ∧ f.retx = false ∧ queued (port s pn) < qmaxOf s.fab.schCtl :=
  by
  refine ⟨pt { port7 with waiting := [tx8], qmax := 0x40 }, 0, tx8, [],
    ?_, ?_, ?_, ?_⟩ <;> decide +kernel

theorem witness_EgressOrder_9 : ∃ (s : State) (pn : _) (f : _) (rest : _), (port s pn).waiting = f :: rest ∧ f.cls ≠ .ackNak ∧ f.retx = false ∧ qmaxOf s.fab.schCtl ≤ queued (port s pn) :=
  by
  refine ⟨{ pt { port7 with waiting := [tx8], expedite := List.replicate 64 tx8 } with fab := { (pt { port7 with waiting := [tx8], expedite := List.replicate 64 tx8 }).fab with schCtl := 0 } }, 0, tx8, [],
    ?_, ?_, ?_, ?_⟩ <;> decide +kernel

theorem witness_PortStates_1 : ∃ (s : State) (pn : _), s.up = true ∧ pn < 4 ∧ (port s pn).state = .disabled :=
  by
  refine ⟨up0, 3,
    ?_, ?_, ?_⟩ <;> decide +kernel

theorem witness_PortStates_2 : ∃ (s : State) (pn : _), s.up = true ∧ pn < 4 ∧ (port s pn).state ≠ .disabled :=
  by
  refine ⟨pt port7, 0,
    ?_, ?_, ?_⟩ <;> decide +kernel

theorem witness_PortStates_3 : ∃ (s : State) (pn : Nat) (a b : LaneSeen) (i : IdBlock), (port s pn).state = .training ∧ (port s pn).lfen = 0 ∧ wired s pn 0 = true ∧ wired s pn 1 = true ∧ a.signal = true ∧ a.locked = true ∧ a.shorted = false ∧ b.signal = true ∧ b.locked = true ∧ b.shorted = false ∧ (a.llane, b.llane) ∈ [(0, 1), (1, 0)] ∧ identityFault s pn i = 0 :=
  by
  refine ⟨pt (port8 .training), 0, lane8 1, lane8 0, id8,
    ?_, ?_, ?_, ?_, ?_, ?_, ?_, ?_, ?_, ?_, ?_, ?_⟩ <;> decide +kernel

theorem witness_PortStates_4 : ∃ (s : State) (pn : Nat) (a b : LaneSeen) (i : IdBlock), (port s pn).state = .training ∧ (port s pn).lfen = 0 ∧ wired s pn 0 = true ∧ wired s pn 1 = true ∧ a.signal = true ∧ a.locked = true ∧ a.shorted = false ∧ b.signal = true ∧ b.locked = true ∧ b.shorted = false ∧ (a.llane, b.llane) ∈ [(0, 1), (1, 0)] ∧ identityFault s pn i ≠ 0 ∧ unheard s pn i = false :=
  by
  refine ⟨pt (port8 .training), 0, lane8 0, lane8 1, { id8 with hid := 8 },
    ?_, ?_, ?_, ?_, ?_, ?_, ?_, ?_, ?_, ?_, ?_, ?_, ?_⟩ <;> decide +kernel

theorem witness_PortStates_5 : ∃ (s : State) (pn : Nat) (a b : LaneSeen) (i : IdBlock) (o : Option IdBlock), (port s pn).state = .training ∧ (port s pn).lfen = 0 ∧ wired s pn 0 = true ∧ wired s pn 1 = true ∧ a.signal = true ∧ a.locked = true ∧ a.shorted = false ∧ b.signal = true ∧ b.locked = true ∧ b.shorted = false ∧ (a.llane, b.llane) ∈ [(0, 1), (1, 0)] ∧ (o = none ∨ o = some i ∧ unheard s pn i = true) :=
  by
  refine ⟨pt (port8 .training), 0, lane8 0, lane8 1, { id8 with hid := 0 }, some { id8 with hid := 0 },
    ?_, ?_, ?_, ?_, ?_, ?_, ?_, ?_, ?_, ?_, ?_, Or.inr ⟨rfl, by decide +kernel⟩⟩ <;> decide +kernel

theorem witness_PortStates_6 : ∃ (s : State) (pn : Nat) (i : IdBlock), (port s pn).state = .checking ∧ unheard s pn i = false ∧ identityFault s pn i = 0 :=
  by
  refine ⟨pt (port8 .checking), 0, { id8 with lane := 1 },
    ?_, ?_, ?_⟩ <;> decide +kernel

theorem witness_PortStates_7 : ∃ (s : State) (pn : Nat) (i : IdBlock), (port s pn).state = .checking ∧ unheard s pn i = false ∧ identityFault s pn i ≠ 0 :=
  by
  refine ⟨pt (port8 .checking), 0, { id8 with hid := 8 },
    ?_, ?_, ?_⟩ <;> decide +kernel

theorem witness_PortStates_8 : ∃ (s : State) (pn : Nat) (l : List LaneSeen), (port s pn).state = .training ∧ (∀ a ∈ l, a.signal = false ∧ a.shorted = false) :=
  ⟨pt (port8 .training), 0, [dark8, dark8],
    by decide +kernel,
    by decide +kernel⟩

theorem witness_PortStates_9 : ∃ (s : State) (pn : _), (port s pn).state ∉ [.training, .checking] :=
  ⟨pt port7, 0,
    by decide +kernel⟩

theorem witness_PortStates_10 : ∃ (s : State) (pn k : Nat) (a : LaneSeen), (port s pn).state = .degraded ∧ k < 2 ∧ (port s pn).ldead = 2 ^ k ∧ (port s pn).lfen = 0 ∧ a.shorted = false ∧ a.signal = true ∧ a.locked = true ∧ a.llane = k :=
  by
  refine ⟨pt { port7 with state := .degraded, ldead := 2 }, 0, 1, lane8 1,
    ?_, ?_, ?_, ?_, ?_, ?_, ?_, ?_⟩ <;> decide +kernel

theorem witness_PortStates_11 : ∃ (s : State) (pn k : Nat) (a : LaneSeen), (port s pn).state = .degraded ∧ k < 2 ∧ (port s pn).ldead = 2 ^ k ∧ (port s pn).lfen = 0 ∧ a.shorted = true :=
  by
  refine ⟨pt { port7 with state := .degraded, ldead := 1 }, 0, 0, { lane8 0 with shorted := true },
    ?_, ?_, ?_, ?_, ?_⟩ <;> decide +kernel

theorem witness_PortStates_12 : ∃ (a : LaneSeen), a.shorted = false ∧ (a.signal = false ∨ a.locked = false) :=
  ⟨dark8,
    by decide +kernel,
    Or.inl rfl⟩

theorem witness_PortStates_13 : ∃ (s : State) (pn : _), carrying (port s pn) = [0, 1] :=
  ⟨pt port7, 0,
    by decide +kernel⟩

theorem witness_PortStates_14 : ∃ (s : State) (pn : _) (i : _), (port s pn).carries = true ∧ identityFault s pn i = 0 :=
  ⟨pt (port8 .up), 0, id8,
    by decide +kernel,
    by decide +kernel⟩

theorem witness_PortStates_15 : ∃ (s : State) (pn : _) (i : _), (port s pn).carries = true ∧ identityFault s pn i ≠ 0 :=
  ⟨pt (port8 .up), 0, { id8 with port := 1 },
    by decide +kernel,
    by decide +kernel⟩

theorem witness_PortStates_16 : ∃ (s : State) (pn : _) (i : _), (port s pn).state = .fenced ∧ identityFault s pn i ≠ 0 :=
  ⟨pt (port8 .fenced), 0, { id8 with port := 1 },
    by decide +kernel,
    by decide +kernel⟩

theorem witness_PortStates_17 : ∃ (s : State) (pn : _) (k : _), (port s pn).state ∉ [.disabled, .fenced] ∧ k ∉ [0x1E, 0x2D, 0x33, 0x4B] :=
  ⟨pt (port8 .checking), 0, 0xFF,
    by decide +kernel,
    by decide +kernel⟩

theorem witness_LaneFaults_1 : ∃ (s : State) (pn k : Nat) (c : LaneCause), (port s pn).state = .up ∧ k < 2 ∧ carrying (port s pn) = [0, 1] ∧ c ≠ .shorted ∧ degrades (port s pn) c = true :=
  by
  refine ⟨pt port7, 0, 1, .lockLost 0,
    ?_, ?_, ?_, ?_, ?_⟩ <;> decide +kernel

theorem witness_LaneFaults_2 : ∃ (s : State) (pn : _) (k : _), (port s pn).state = .up ∧ k < 2 ∧ carrying (port s pn) = [0, 1] :=
  by
  refine ⟨pt port7, 0, 0,
    ?_, ?_, ?_⟩ <;> decide +kernel

theorem witness_LaneFaults_3 : ∃ (s : State) (pn : _) (k : _), (port s pn).state = .degraded ∧ carrying (port s pn) = [k] :=
  ⟨pt { port7 with state := .degraded, lfen := 2 }, 0, 0,
    by decide +kernel,
    by decide +kernel⟩

theorem witness_LaneFaults_4 : ∃ (s : State) (pn : _) (k : _), (port s pn).state = .degraded ∧ carrying (port s pn) = [k] :=
  ⟨pt { port7 with state := .degraded, lfen := 2 }, 0, 0,
    by decide +kernel,
    by decide +kernel⟩

theorem witness_LaneFaults_5 : ∃ (s : State) (pn : _), ((port s pn).state = .disabled ∨ (port s pn).state = .fenced) :=
  ⟨pt { port7 with state := .fenced }, 0,
    by decide +kernel⟩

theorem witness_LaneFaults_6 : ∃ (s : State) (pn : _) (n : _), (port s pn).state ≠ .disabled ∧ (port s pn).state ≠ .fenced ∧ n < ucThr (port s pn) :=
  by
  refine ⟨pt port7, 0, 3,
    ?_, ?_, ?_⟩ <;> decide +kernel

theorem witness_LaneFaults_7 : ∃ (s : State) (pn : _) (n : _), (port s pn).state ≠ .disabled ∧ (port s pn).state ≠ .fenced ∧ n ≤ csThr (port s pn) * 1000 :=
  by
  refine ⟨pt port7, 0, 4000,
    ?_, ?_, ?_⟩ <;> decide +kernel

theorem witness_LaneFaults_8 : ∃ (s : State) (pn : _) (k : _), (port s pn).state = .retraining ∧ (port s pn).outLane = some k ∧ (port s pn).retries < 2 :=
  by
  refine ⟨pt { port7 with state := .retraining, outLane := some 1, retries := 1 }, 0, 1,
    ?_, ?_, ?_⟩ <;> decide +kernel

theorem witness_LaneFaults_9 : ∃ (s : State) (pn : _) (k : _), (port s pn).state = .retraining ∧ (port s pn).outLane = some k ∧ (port s pn).retries = 0 :=
  by
  refine ⟨pt { port7 with state := .retraining, outLane := some 1 }, 0, 1,
    ?_, ?_, ?_⟩ <;> decide +kernel

theorem witness_LaneFaults_10 : ∃ (s : State) (pn : _) (k : _), (port s pn).state = .retraining ∧ (port s pn).outLane = some k ∧ (port s pn).retries = 1 ∧ k < 2 :=
  by
  refine ⟨pt { port7 with state := .retraining, outLane := some 1, retries := 1 }, 0, 1,
    ?_, ?_, ?_, ?_⟩ <;> decide +kernel

theorem witness_LaneFaults_11 : ∃ (s : State) (pn : _) (k : _), (port s pn).state = .retraining ∧ (port s pn).outLane = some k ∧ (port s pn).retries = 2 :=
  by
  refine ⟨pt { port7 with state := .retraining, outLane := some 1, retries := 2 }, 0, 1,
    ?_, ?_, ?_⟩ <;> decide +kernel

theorem witness_LaneFaults_12 : ∃ (s : State) (pn : _) (k : _), (port s pn).carries = true ∧ k < 2 :=
  ⟨pt port7, 0, 1,
    by decide +kernel,
    by decide +kernel⟩

theorem witness_LaneFaults_13 : ∃ (s : State) (pn : _) (k : _), (port s pn).carries = true ∧ k < 2 ∧ (port s pn).peerOut = some k :=
  by
  refine ⟨pt { port7 with peerOut := some 1 }, 0, 1,
    ?_, ?_, ?_⟩ <;> decide +kernel

theorem witness_RegistersWritten_1 : ∃ (s : State) (off : Nat) (mask : W32), s.up = true ∧ PlainReg off mask :=
  ⟨up0, 0x5000C, 0xFFFFFF#32,
    by decide +kernel,
    by unfold PlainReg; exact .inr (.inr (.inr (.inr (.inr (.inr (.inr (.inr ⟨3, by decide, rfl, rfl⟩)))))))⟩

theorem witness_RegistersWritten_2 : ∃ (s : State) (p : _), s.up = true ∧ p < 4 :=
  ⟨up0, 3,
    by decide +kernel,
    by decide +kernel⟩

theorem witness_RegistersWritten_3 : ∃ (s : State) (p : _), s.up = true ∧ p < 4 :=
  ⟨up0, 3,
    by decide +kernel,
    by decide +kernel⟩

theorem witness_RegistersWritten_4 : ∃ (s : State) (off size : Nat), s.up = true ∧ (size ∉ [4, 8] ∨ off % size ≠ 0) :=
  ⟨up0, 0x8004, 8,
    by decide +kernel,
    by decide +kernel⟩

theorem witness_RegistersWritten_5 : ∃ (s : State) (off : _), s.up = true ∧ off ∈ [0x3000, 0x3100, 0x5100, 0x13000, 0x60000] :=
  ⟨up0, 0x60000,
    by decide +kernel,
    by decide +kernel⟩

theorem witness_RegistersWritten_6 : ∃ (s : State) (view : View), s.up = true ∧ view ≠ .sb :=
  ⟨up0, .vf 63,
    by decide +kernel,
    by decide +kernel⟩

theorem witness_RegistersWritten_7 : ∃ (s : State) (view : View), (s.up = false ∨ view = .sb) :=
  ⟨State.reset, .pf,
    by decide +kernel⟩

theorem witness_ConfigurationRows_1 : ∃ (s : State), s.up = true :=
  ⟨up0,
    by decide +kernel⟩

theorem witness_ConfigurationRows_2 : ∃ (s : State) (p : _), s.up = true ∧ p < 4 :=
  ⟨up0, 3,
    by decide +kernel,
    by decide +kernel⟩

theorem witness_ConfigurationRows_3 : ∃ (s : State) (h : _), s.up = true ∧ h < 1024 :=
  ⟨up0, 1023,
    by decide +kernel,
    by decide +kernel⟩

theorem witness_ConfigurationRows_4 : ∃ (s : State) (h : _), s.up = true ∧ h < 1024 :=
  ⟨up0, 1023,
    by decide +kernel,
    by decide +kernel⟩

theorem witness_ConfigurationRows_5 : ∃ (s : State) (k : _), s.up = true ∧ k < 4 :=
  ⟨up0, 3,
    by decide +kernel,
    by decide +kernel⟩

theorem witness_ConfigurationRows_6 : ∃ (s : State) (k : _), s.up = true ∧ k < 12 :=
  ⟨up0, 11,
    by decide +kernel,
    by decide +kernel⟩

theorem witness_ConfigurationRows_7 : ∃ (s : State) (i : Instr), s.up = false ∧ i ∈ [Instr.fabNodeidWrite 1, .fabNbrWrite 0 1, .schModeWrite 1, .schPolWrite 0 1, .schBudWrite 0 1, .cmpEpochWrite 1, .flpSpareWrite true 0 1, .flpSpareWrite false 0 1] :=
  ⟨State.reset, .flpSpareWrite false 0 1,
    by decide +kernel,
    by decide +kernel⟩

theorem witness_ConfigurationRows_8 : ∃ (p : Nat), p < 4 :=
  ⟨3,
    by decide +kernel⟩

theorem witness_ConfigurationRows_9 : ∃ (s : State) (h : _), h < 1024 ∧ ((∀ p, p < 4 → lookD 0 (port s p).subDef h = 0)) :=
  ⟨up0, 1023,
    by decide +kernel,
    by decide +kernel⟩

theorem witness_ConfigurationRows_10 : ∃ (s : State) (h : _) (p : _), h < 1024 ∧ p < 4 ∧ lookD 0 (port s p).subDef h ≠ 0 :=
  by
  refine ⟨{ up0 with fab := { Fab.reset with ports := [(3, { Port.reset with subDef := [(1023, 1)] })] } }, 1023, 3,
    ?_, ?_, ?_⟩ <;> decide +kernel

theorem witness_ConfigurationRows_11 : ∃ (s : State) (n : _), n < 64 ∧ ((∀ p, p < 4 → lookD 0 (port s p).tdDef n = 0)) :=
  ⟨up0, 63,
    by decide +kernel,
    by decide +kernel⟩

theorem witness_StatusAndTime_1 : ∃ (s : State), s.up = true :=
  ⟨up0,
    by decide +kernel⟩

theorem witness_StatusAndTime_2 : ∃ (s : State) (td : _), s.up = true ∧ td < 64 :=
  ⟨up0, 63,
    by decide +kernel,
    by decide +kernel⟩

theorem witness_StatusAndTime_3 : ∃ (s : State) (p : _), s.up = true ∧ p < 4 :=
  ⟨up0, 3,
    by decide +kernel,
    by decide +kernel⟩

theorem witness_StatusAndTime_4 : ∃ (s : State) (view : View), s.up = true ∧ view ≠ .sb :=
  ⟨up0, .vf 63,
    by decide +kernel,
    by decide +kernel⟩

theorem witness_StatusAndTime_5 : ∃ (s : State) (view : View) (off size : Nat), s.up = true ∧ view ≠ .sb ∧ (¬(off = timNowOff view ∧ size = 4)) :=
  by
  refine ⟨up0, .vf 63, 0x20000, 8,
    ?_, ?_, ?_⟩ <;> decide +kernel

theorem witness_StatusAndTime_6 : ∃ (s : State) (view : View), s.up = true ∧ view ≠ .sb :=
  ⟨up0, .vf 63,
    by decide +kernel,
    by decide +kernel⟩

theorem witness_StatusAndTime_7 : ∃ (s : State) (view : View), s.up = true ∧ view ≠ .sb ∧ (snapOf s (viewNum view)).busy = false :=
  by
  refine ⟨up0, .pf,
    ?_, ?_, ?_⟩ <;> decide +kernel

theorem witness_StatusAndTime_8 : ∃ (s : State) (view : View), (snapOf s (viewNum view)).busy = true :=
  ⟨{ up0 with regs := { Regs.reset with snaps := [(64, { seq := 0, busy := true, captured := [], capturedT := 0, holding := [], t := 0 })] } }, .pf,
    by decide +kernel⟩

theorem witness_SidebandTransfers_1 : ∃ (s : State), sbServed s = false :=
  ⟨State.reset,
    by decide +kernel⟩

theorem witness_SidebandTransfers_2 : ∃ (s : State) (off : _) (len : _) (pec : _), sbServed s = true ∧ sbForm s off len pec = false :=
  ⟨up0, 2, 4, true,
    by decide +kernel,
    by decide +kernel⟩

theorem witness_SidebandTransfers_3 : ∃ (s : State) (off : Nat) (bs : List Byte) (pec : Bool), sbServed s = true ∧ sbForm s off bs.length pec = false :=
  ⟨up0, 0, [1], true,
    by decide +kernel,
    by decide +kernel⟩

theorem witness_SidebandTransfers_4 : ∃ (s : State), sbServed s = true ∧ s.i3c = true :=
  ⟨up0,
    by decide +kernel,
    by decide +kernel⟩

theorem witness_SidebandTransfers_5 : ∃ (s : State) (bs : List Byte) (pec : Bool), sbServed s = true ∧ sbForm s 0 bs.length pec = true ∧ bs.length ≤ 4096 ∧ (chan s 72).db.getLsbD 0 = false :=
  by
  refine ⟨up0, zeros 64, true,
    ?_, ?_, ?_, ?_⟩ <;> decide +kernel

theorem witness_SidebandTransfers_6 : ∃ (s : State) (bs : List Byte) (pec : Bool), sbServed s = true ∧ sbForm s 0 bs.length pec = true ∧ bs.length ≤ 4096 ∧ (chan s 72).db.getLsbD 0 = true :=
  by
  refine ⟨uc 72 { Chan.reset with db := 1 }, zeros 64, true,
    ?_, ?_, ?_, ?_⟩ <;> decide +kernel

theorem witness_SidebandTransfers_7 : ∃ (s : State) (bs : List Byte), sbServed s = true ∧ s.i3c = true ∧ bs.length = 4 :=
  by
  refine ⟨up0, zeros 4,
    ?_, ?_, ?_⟩ <;> decide +kernel

theorem witness_SidebandTransfers_8 : ∃ (s : State), sbServed s = true ∧ s.i3c = false ∧ s.side.alert = true :=
  by
  refine ⟨alert8 0,
    ?_, ?_, ?_⟩ <;> decide +kernel

theorem witness_SidebandTransfers_9 : ∃ (s : State), s.side.alert = false :=
  ⟨up0,
    by decide +kernel⟩

theorem witness_SidebandTransfers_10 : ∃ (s : State), s.side.alert = true ∧ s.side.alertAt + 1000000 ≤ s.clk :=
  ⟨alert8 (10 ^ 10 - 10 ^ 6),
    by decide +kernel,
    by decide +kernel⟩

theorem witness_SidebandTransfers_11 : ∃ (s : State), s.clk < s.side.alertAt + 1000000 :=
  ⟨alert8 (10 ^ 10 - 10 ^ 6 + 1),
    by decide +kernel⟩

theorem witness_BusAndTap_1 : ∃ (s : State) (i : Instr), i ∈ [Instr.setdasa 0x58 8, .entdaa 8, .rstdaa, .enec 1, .disec 1, .getpid, .getbcr, .getdcr, .getstatus, .getmwl, .getmrl] ∧ (sbServed s = false ∨ s.i3c = false) :=
  ⟨i2c8, .getpid,
    by decide +kernel,
    by decide +kernel⟩

theorem witness_BusAndTap_2 : ∃ (s : State), sbServed s = true ∧ s.i3c = true ∧ s.side.dynAddr = none :=
  by
  refine ⟨up0,
    ?_, ?_, ?_⟩ <;> decide +kernel

theorem witness_BusAndTap_3 : ∃ (s : State) (c : Nat), s.side.dynAddr = some c :=
  ⟨{ up0 with side := { Side.reset with dynAddr := some 8 } }, 8,
    by decide +kernel⟩

theorem witness_BusAndTap_4 : ∃ (s : State), sbServed s = true ∧ s.i3c = true :=
  ⟨up0,
    by decide +kernel,
    by decide +kernel⟩

theorem witness_BusAndTap_5 : ∃ (s : State) (i : Instr) (n : Nat), sbServed s = true ∧ s.i3c = true ∧ (i, n) ∈ [(Instr.getpid, 6), (.getbcr, 1), (.getdcr, 1), (.getstatus, 2)] :=
  by
  refine ⟨up0, .getpid, 6,
    ?_, ?_, ?_⟩ <;> decide +kernel

theorem witness_BusAndTap_6 : ∃ (s : State) (i : Instr), sbServed s = true ∧ s.i3c = true ∧ i ∈ [Instr.getmwl, .getmrl] :=
  by
  refine ⟨up0, .getmwl,
    ?_, ?_, ?_⟩ <;> decide +kernel

theorem witness_BusAndTap_7 : ∃ (s : State), s.pwr.powered = true :=
  ⟨up0,
    by decide +kernel⟩

theorem witness_BusAndTap_8 : ∃ (s : State) (i : Instr) (n : Nat), s.pwr.powered = true ∧ (i, n) ∈ [(Instr.extest, 3), (.clamp, 4), (.highz, 5), (.extestPulse, 6), (.extestTrain, 7)] ∧ s.boot.phase = .released :=
  by
  refine ⟨up0, .extest, 3,
    ?_, ?_, ?_⟩ <;> decide +kernel

theorem witness_BusAndTap_9 : ∃ (s : State) (i : Instr) (n : Nat), s.pwr.powered = true ∧ (i, n) ∈ [(Instr.extest, 3), (.clamp, 4), (.highz, 5), (.extestPulse, 6), (.extestTrain, 7)] ∧ s.boot.phase ≠ .released :=
  by
  refine ⟨boot0 .rails, .extestTrain, 7,
    ?_, ?_, ?_⟩ <;> decide +kernel

theorem witness_BusAndTap_10 : ∃ (s : State) (i : Instr), s.pwr.powered = false ∧ i ∈ [Instr.bypass, .idcode, .samplePreload, .extest, .clamp, .highz, .extestPulse, .extestTrain] :=
  ⟨State.reset, .samplePreload,
    by decide +kernel,
    by decide +kernel⟩

end Sys2Proof.Tests
end

section
/-! PROOFS of chapter 18 (errors): which reports are counted in an earlier record and which are written (R620). -/

namespace Sys2Proof.Machine

/-- The newest record in the log with the CODE, SVA and LOC that the error's own record would have (R620). -/
def newestAlike (s : State) (e : ErrIn) : Option Rec :=
  s.err.log.reverse.find? (fun x => x.code == e.code && x.sva == (mkRec s e false false false 0).sva && x.loc == e.loc)

/-! ### Which record an error is counted in -/

theorem coalesceWith_eq (s : State) (e : ErrIn) :
    coalesceWith s e = if e.cls ≤ 2 then (newestAlike s e).filter (fun r => s.clk < r.at_ + 1000000) else none := by
  unfold coalesceWith newestAlike
  split
  · cases s.err.log.reverse.find? _ <;> simp [Option.filter]
  · rfl

theorem coalesceWith_eq_some {s : State} {e : ErrIn} {r : Rec} (hc : e.cls ≤ 2) (hr : newestAlike s e = some r)
    (ht : s.clk < r.at_ + 1000000) : coalesceWith s e = some r := by
  simp [coalesceWith_eq, hc, hr, ht]

theorem coalesceWith_eq_none_of_cls {s : State} {e : ErrIn} (hc : 3 ≤ e.cls) : coalesceWith s e = none := by
  rw [coalesceWith_eq, if_neg (by omega)]

theorem coalesceWith_eq_none_of_old {s : State} {e : ErrIn}
    (hold : ∀ r, newestAlike s e = some r → r.at_ + 1000000 ≤ s.clk) : coalesceWith s e = none := by
  simp only [coalesceWith_eq, ite_eq_right_iff, Option.filter_eq_none_iff, decide_eq_true_eq, not_lt]
  exact fun _ => hold

/-! ### A record just written stays through the queueing of its handling -/

theorem mem_writeRec_log (r : Rec) (s : State) : r ∈ (writeRec r s).err.log :=
  List.mem_of_getLast? (writeRec_log_last r s)

/-- The newest record survives the writing of one more: only the oldest of 64 goes (R619). -/
theorem mem_writeRec_log_of_getLast? {r : Rec} {s : State} (r' : Rec) (hr : s.err.log.getLast? = some r) :
    r ∈ (writeRec r' s).err.log := by
  rw [writeRec_log]
  refine List.mem_append_left _ ?_
  split
  next hfull =>
    have hlast : (s.err.log.drop 1).getLast? = some r := by
      rw [List.getLast?_drop, if_neg (by omega), hr]
    exact List.mem_of_getLast? hlast
  next => exact List.mem_of_getLast? hr

@[simp] theorem zeroise_err (s : State) : (zeroise s).err = s.err := by
  obtain ⟨-, -, -, -, -, -, -, -, -, -, -, herr⟩ := zeroise_frame s
  exact herr

theorem mem_fatalStop_log_of_getLast? {r : Rec} {s : State} (e : ErrIn) (cause : Nat) (hr : s.err.log.getLast? = some r) :
    r ∈ (fatalStop e cause s).err.log := by
  unfold fatalStop
  split
  · exact List.mem_of_getLast? hr
  · dsimp only
    rw [zeroise_err]
    exact mem_writeRec_log_of_getLast? _ hr

theorem mem_enqueue_log_of_getLast? {r : Rec} {s : State} (h : Hdl) (hr : s.err.log.getLast? = some r) :
    r ∈ (enqueue h s).err.log := by
  have hmem := List.mem_of_getLast? hr
  unfold enqueue
  split
  · exact hmem
  · split
    · exact hmem
    · exact mem_fatalStop_log_of_getLast? _ _ hr

/-! ### What a report does -/

theorem report_of_coalesceWith_some {s : State} {e : ErrIn} {r : Rec} (hf : s.err.fatal = false)
    (hr : coalesceWith s e = some r) :
    report e s = bump (ctrNode 0x08) { s with err := { s.err with
      log := s.err.log.map (fun x => if x.eseq = r.eseq then { x with cnt := satAdd32 x.cnt 1 } else x) } } := by
  simp [report, hf, hr]

/-- An error that no record counts has a record of its own, whichever way its handling goes (R616, R630, R631). -/
theorem report_writes_of_coalesceWith_none {s : State} {e : ErrIn} (hf : s.err.fatal = false)
    (hn : coalesceWith s e = none) :
    ∃ esc qfull rel, mkRec s e false esc qfull rel ∈ (report e s).err.log := by
  unfold report
  rw [if_neg (by simp [hf]), hn]
  dsimp only
  split
  · -- no handling: class 0 or 5, or an audit's record
    exact ⟨_, _, _, mem_writeRec_log _ _⟩
  split
  · -- the handler is idle and takes the error
    exact ⟨_, _, _, mem_writeRec_log _ _⟩
  split
  · -- the error waits behind the active handling
    exact ⟨_, _, _, mem_enqueue_log_of_getLast? _ (writeRec_log_last _ _)⟩
  split
  · -- the error's handling contains the active one
    exact ⟨_, _, _, mem_writeRec_log _ _⟩
  · -- the active handling is suspended
    exact ⟨_, _, _, mem_enqueue_log_of_getLast? _ (writeRec_log_last _ _)⟩

/-- Settles O9: an error is counted exactly where `coalesceWith` finds a record; every other report writes one, and what follows
the writing (a queued or suspended handling, or the watchdog's own record) leaves that record in the log. -/
theorem recordsCoalesced : Obligations.RecordsCoalesced := by
  unfold Obligations.RecordsCoalesced
  refine ⟨fun s e r hf hc hr ht => report_of_coalesceWith_some hf (coalesceWith_eq_some hc hr ht), fun s e hf hnew => ?_⟩
  have hn : coalesceWith s e = none := hnew.elim coalesceWith_eq_none_of_cls coalesceWith_eq_none_of_old
  obtain ⟨esc, qfull, rel, hmem⟩ := report_writes_of_coalesceWith_none hf hn
  exact ⟨_, hmem, rfl, rfl, rfl, rfl, rfl, rfl, rfl, rfl⟩

end Sys2Proof.Machine
end

section
/-! PROOFS of chapter 20 (status registers): SEQ at its last value, and the write-back after an event that met it there (R649, R650). -/

namespace Sys2Proof.Machine

/-! ### SEQ -/

theorem seqRead_le (n : Nat) : seqRead n ≤ 0xFFFF := Nat.min_le_right _ _

theorem seqRead_of_le {n : Nat} (h : n ≤ 0xFFFF) : seqRead n = n := Nat.min_eq_left h

/-- An event that finds SEQ at its last value is remembered beyond it (R650). -/
theorem seqBump_of_saturated {n : Nat} (h : seqRead n = 0xFFFF) : seqBump n = 0x10000 := by
  have hn : 0xFFFF ≤ n := min_eq_right_iff.mp h
  exact Nat.min_eq_right (by omega)

theorem seqRead_seqBump_of_saturated {n : Nat} (h : seqRead n = 0xFFFF) : seqRead (seqBump n) = 0xFFFF := by
  rw [seqBump_of_saturated h]; rfl

/-- The write-back of 0xFFFF over a remembered event (R650). -/
theorem seqAck_seqBump_of_saturated {n : Nat} (h : seqRead n = 0xFFFF) : seqAck (seqBump n) 0xFFFF = (1, false) := by
  rw [seqBump_of_saturated h]; rfl

theorem fld_upper_half {v : W32} (h : v.toNat / 2 ^ 16 = 0xFFFF) : fld v 31 16 = 0xFFFF := by
  have hf : fld v 31 16 = v.toNat / 2 ^ 16 % 2 ^ 16 := rfl
  omega

theorem ackSeq_pf_of_saturated {v : W32} {q : Seq2} (hv : v.toNat / 2 ^ 16 = 0xFFFF) (hq : seqRead q.pf = 0xFFFF) :
    ackSeq true v q.bump = { q.bump with pf := 1 } := by
  simp [ackSeq, fld_upper_half hv, Seq2.bump, seqAck_seqBump_of_saturated hq]

theorem ackSeq_alt_of_saturated {v : W32} {q : Seq2} (hv : v.toNat / 2 ^ 16 = 0xFFFF) (hq : seqRead q.alt = 0xFFFF) :
    ackSeq false v q.bump = { q.bump with alt := 1 } := by
  simp [ackSeq, fld_upper_half hv, Seq2.bump, seqAck_seqBump_of_saturated hq]

/-! ### Which status register a write-back meets -/

theorem exec_statusAck {view : View} {off : Nat} {s : State} (v : W32) (hs : viewServed s view = true) (ho : off % 4 = 0) :
    exec (.statusAck view off v) s = .next (ackReg view off v s) :=
  congrArg Host.Outcome.next (if_pos ⟨hs, ho⟩)

theorem ackReg_evt {view : View} {off c : Nat} (v : W32) (s : State) (h : windowAt view off = some (c, 0x200C)) :
    ackReg view off v s = ackEvt c v s := by
  simp [ackReg, h]

theorem ackReg_tdst_pf {td : Nat} (v : W32) (s : State) (h : td < 64) :
    ackReg .pf (0x5000 + 4 * td) v s = updDom td (fun d => { d with tdstSeq := ackSeq true v d.tdstSeq }) s := by
  have hreg : inReg (0x5000 + 4 * td) 0x5000 4 64 = true := by simp [inReg]; omega
  have hwin : windowAt .pf (0x5000 + 4 * td) = none := by simp [windowAt, inReg]; omega
  have hix : (0x5000 + 4 * td - 0x5000) / 4 = td := by omega
  simp only [ackReg, hwin, hix]
  rw [if_neg (by omega), if_neg (by omega), if_pos hreg]

theorem ackReg_tdst_vf (td : Nat) (v : W32) (s : State) :
    ackReg (.vf td) 0x20100 v s = updDom td (fun d => { d with tdstSeq := ackSeq false v d.tdstSeq }) s := rfl

theorem ackReg_pstat {p : Nat} (v : W32) (s : State) (h : p < 4) :
    ackReg .pf (0x10200 + 4 * p) v s = updPort p (fun x => { x with seq := ackSeq true v x.seq }) s := by
  have hreg : inReg (0x10200 + 4 * p) 0x10200 4 4 = true := by simp [inReg]; omega
  have hdom : ¬ inReg (0x10200 + 4 * p) 0x5000 4 64 = true := by simp [inReg]; omega
  have hwin : windowAt .pf (0x10200 + 4 * p) = none := by simp [windowAt, inReg]; omega
  have hix : (0x10200 + 4 * p - 0x10200) / 4 = p := by omega
  simp only [ackReg, hwin, hix]
  rw [if_neg (by omega), if_neg (by omega), if_neg hdom, if_neg (by omega), if_neg (by omega), if_pos hreg]

/-! ### Events of a channel -/

theorem mbxEvent_mbx (c b : Nat) (s : State) :
    (mbxEvent c b s).mbx
      = (setChan c { chan s c with evt := (chan s c).evt ||| BitVec.ofNat 32 (2 ^ b), evtSeq := seqBump (chan s c).evtSeq } s).mbx := by
  unfold mbxEvent
  dsimp only
  repeat' split
  · rfl
  · exact msix_mbx ..
  · exact msix_mbx ..
  · exact signalSb_mbx ..
  · rfl

theorem chan_mbxEvent_evtSeq (c b : Nat) (s : State) : (chan (mbxEvent c b s) c).evtSeq = seqBump (chan s c).evtSeq := by
  simp only [chan, mbxEvent_mbx, setChan_mbx, lookD_putD_same]

theorem viewServed_mbxEvent (c b : Nat) (s : State) (view : View) : viewServed (mbxEvent c b s) view = viewServed s view := by
  cases view <;> simp [viewServed, reachable, State.up]

/-- The places of MBX_EVT: the window of each channel in its owner's view (R542, R643, R644). -/
def evtPlaces : List (View × Nat × Nat) :=
  (List.range 8).map (fun k => (View.pf, 0x3200C + 0x4000 * k, k)) ++ (List.range 64).map (fun n => (View.vf n, 0x200C, 8 + n))
    ++ [(View.sb, 0x200C, 72)]

theorem windowAt_of_mem_evtPlaces {view : View} {off c : Nat} (h : (view, off, c) ∈ evtPlaces) :
    windowAt view off = some (c, 0x200C) ∧ off % 4 = 0 := by
  simp only [evtPlaces, List.mem_append, List.mem_map, List.mem_range, List.mem_singleton, Prod.mk.injEq] at h
  obtain (⟨k, hk, rfl, rfl, rfl⟩ | ⟨n, -, rfl, rfl, rfl⟩) | ⟨rfl, rfl, rfl⟩ := h
  · have hreg : inReg (0x3200C + 0x4000 * k) 0x30000 0x4000 8 = true := by simp [inReg]; omega
    have hchan : (0x3200C + 0x4000 * k - 0x30000) / 0x4000 = k := by omega
    have hoff : (0x3200C + 0x4000 * k - 0x30000) % 0x4000 = 0x200C := by omega
    refine ⟨?_, by omega⟩
    simp [windowAt, hreg, hchan, hoff]
  · exact ⟨rfl, rfl⟩
  · exact ⟨rfl, rfl⟩

/-- The write-back of 0xFFFF over a remembered event of a channel: SEQ is 1, and no event bit is cleared (R650). -/
theorem ackEvt_of_saturated {c : Nat} {v : W32} {n : Nat} {u : State} (hv : v.toNat / 2 ^ 16 = 0xFFFF) (hn : seqRead n = 0xFFFF)
    (hu : (chan u c).evtSeq = seqBump n) : ackEvt c v u = setChan c { chan u c with evtSeq := 1 } u := by
  simp [ackEvt, updChan, fld_upper_half hv, hu, seqAck_seqBump_of_saturated hn]

theorem statusAck_evt_of_saturated {s : State} {c : Nat} (b : Nat) {view : View} {off : Nat} {v : W32} (hs : viewServed s view = true)
    (hp : (view, off, c) ∈ evtPlaces) (hq : seqRead (chan s c).evtSeq = 0xFFFF) (hv : v.toNat / 2 ^ 16 = 0xFFFF) :
    exec (.statusAck view off v) (mbxEvent c b s)
      = .next (setChan c { chan (mbxEvent c b s) c with evtSeq := 1 } (mbxEvent c b s)) := by
  obtain ⟨hwin, halign⟩ := windowAt_of_mem_evtPlaces hp
  rw [exec_statusAck v ((viewServed_mbxEvent ..).trans hs) halign, ackReg_evt _ _ hwin,
    ackEvt_of_saturated hv hq (chan_mbxEvent_evtSeq c b s)]

/-- Settles O7: each status register's SEQ is remembered beyond 0xFFFF by its event, and its write-back of 0xFFFF meets that value alone. -/
theorem seqSaturation : Obligations.SeqSaturation := by
  unfold Obligations.SeqSaturation
  refine ⟨fun n => ⟨seqRead_le n, seqRead_of_le, seqRead_seqBump_of_saturated⟩, fun s c b view off v hs hp hq hv => ⟨?_, ?_⟩,
    fun s v hup hv => ⟨fun hq => ?_, fun hq => ?_, fun hq => ?_, fun hq => ?_, fun p hp hq => ?_, fun td htd hq => ?_, fun td _ hq => ?_⟩⟩
  · -- an event leaves MBX_EVT's SEQ at its last value
    rw [chan_mbxEvent_evtSeq, seqRead_seqBump_of_saturated hq]
  · -- MBX_EVT
    exact ⟨_, statusAck_evt_of_saturated b hs hp hq hv, chan_setChan_same .., fun k hk => chan_setChan_ne _ _ _ _ hk, rfl⟩
  · -- BOOT_STAT
    rw [← ackSeq_pf_of_saturated hv hq]
    exact exec_statusAck v hup rfl
  · -- ERR_STAT
    rw [← ackSeq_pf_of_saturated hv hq]
    exact exec_statusAck v hup rfl
  · -- ZPH_STAT of die 0
    rw [← ackSeq_pf_of_saturated hv hq]
    exact exec_statusAck v hup rfl
  · -- ZPH_STAT of die 1
    rw [← ackSeq_pf_of_saturated hv hq]
    exact exec_statusAck v hup rfl
  · -- FAB_PSTAT
    refine ⟨_, exec_statusAck v hup (by omega), ?_⟩
    simp [ackReg_pstat _ _ hp, ackSeq_pf_of_saturated hv hq]
  · -- SEC_TDST in the physical function's view
    refine ⟨_, exec_statusAck v hup (by omega), ?_⟩
    simp [ackReg_tdst_pf _ _ htd, ackSeq_pf_of_saturated hv hq]
  · -- SEC_TDST in the domain's own view
    refine ⟨_, exec_statusAck v hup rfl, ?_⟩
    simp [ackReg_tdst_vf, ackSeq_alt_of_saturated hv hq]

end Sys2Proof.Machine
end

section
/-! PROOFS of chapter 20 (access rules): registers read and written whole or in halves, and accesses of another size or alignment (R645). -/

namespace Sys2Proof.Machine

/-! ### Places of aligned 8 bytes: the second half lies where the first does -/

theorem inReg_add_four {off base n : Nat} (hb : base % 8 = 0) (ho : off % 8 = 0) : inReg (off + 4) base 8 n = inReg off base 8 n := by
  simp only [inReg, decide_eq_decide]
  omega

theorem inReg_single_of_ne {off base : Nat} (hb : base % 8 = 0) (ho : off % 8 = 0) (h : off ≠ base) : inReg off base 8 1 = false := by
  simp only [inReg, decide_eq_false_iff_not]
  omega

theorem windowAt_mod_eight {v : View} {off c o : Nat} (h : windowAt v off = some (c, o)) (ho : off % 8 = 0) : o % 8 = 0 := by
  cases v <;> simp only [windowAt, Option.ite_none_right_eq_some, Option.some.injEq, Prod.mk.injEq] at h <;> omega

theorem windowAt_add_four (v : View) {off : Nat} (ho : off % 8 = 0) :
    windowAt v (off + 4) = (windowAt v off).map (fun p => (p.1, p.2 + 4)) := by
  cases v with
  | pf =>
    have hreg : inReg (off + 4) 0x30000 0x4000 8 = inReg off 0x30000 0x4000 8 := by simp only [inReg, decide_eq_decide]; omega
    simp only [windowAt, hreg]
    split
    next h =>
      have hlo : 0x30000 ≤ off := by simp [inReg] at h; omega
      simp only [Option.map_some, Option.some.injEq, Prod.mk.injEq]
      omega
    next => rfl
  | vf n =>
    have hlt : off + 4 < 0x4000 ↔ off < 0x4000 := by omega
    simp only [windowAt, hlt]
    split <;> rfl
  | sb =>
    have hlt : off + 4 < 0x2020 ↔ off < 0x2020 := by omega
    simp only [windowAt, hlt]
    split <;> rfl

theorem wide_of_windowAt {v : View} {off c o : Nat} (h : windowAt v off = some (c, o)) : wide v off = inReg o 0x2020 8 4 := by
  simp only [wide, h]

theorem wide_add_four {v : View} {off : Nat} (ho : off % 8 = 0) : wide v (off + 4) = wide v off := by
  have hwin := windowAt_add_four v ho
  cases h : windowAt v off with
  | none =>
    rw [h, Option.map_none] at hwin
    cases v <;> simp [wide, h, hwin, inReg_add_four, ho]
  | some p =>
    obtain ⟨c, o⟩ := p
    rw [h, Option.map_some] at hwin
    rw [wide_of_windowAt h, wide_of_windowAt hwin, inReg_add_four (by omega) (windowAt_mod_eight h ho)]

theorem inBuffer_add_four {v : View} {off : Nat} (ho : off % 8 = 0) : inBuffer v (off + 4) = inBuffer v off := by
  have hwin := windowAt_add_four v ho
  cases h : windowAt v off with
  | none => simp [inBuffer, h, hwin]
  | some p =>
    have := windowAt_mod_eight h ho
    simp only [inBuffer, h, hwin, Option.map_some, decide_eq_decide]
    omega

/-! ### Reads -/

theorem byteAt_lt (bs : List Byte) (i : Nat) : byteAt bs i < 2 ^ 8 := (bs.getD i 0).isLt

theorem le_lt (bs : List Byte) (o n : Nat) : le bs o n < 2 ^ (8 * n) := by
  induction n generalizing o with
  | zero => simp [le]
  | succ n ih =>
    have hb := byteAt_lt bs o
    have ht := ih (o + 1)
    have hp : 2 ^ (8 * (n + 1)) = 256 * 2 ^ (8 * n) := by ring
    simp only [le]
    omega

/-- A word of a buffer is four bytes (R542). -/
theorem word4_of_inBuffer {v : View} {off : Nat} (s : State) (h : inBuffer v off = true) : wide v off = false ∧ word4 s v off < 2 ^ 32 := by
  unfold inBuffer at h
  split at h
  next c o hwin =>
    have ho : o < 0x2000 := of_decide_eq_true h
    have hw : wide v off = false := by rw [wide_of_windowAt hwin]; simp [inReg]; omega
    refine ⟨hw, ?_⟩
    simp only [word4, hw, Bool.false_eq_true, if_false, hwin, windowWord, ho, if_true]
    split
    · exact le_lt ..
    · exact le_lt ..
  next => exact absurd h Bool.false_ne_true

/-- A half of an 8 B register other than TIM_NOW, whose upper half a read latches (R656). -/
theorem word4_of_wide {v : View} {off : Nat} (s : State) (hw : wide v off = true) (hpf : v = .pf → inReg off 0x2000 8 1 = false)
    (hvf : v ≠ .pf → inReg off 0x20000 8 1 = false) :
    word4 s v off = wideValue s v (off / 8 * 8) / 2 ^ (off % 8 * 8) % 2 ^ 32 := by
  unfold word4
  rw [if_pos hw, if_neg]
  rintro (⟨hv, hr⟩ | ⟨hv, hr⟩)
  · exact absurd hr (by simp [hpf hv])
  · exact absurd hr (by simp [hvf hv])

theorem readReg_four {s : State} {v : View} {off : Nat} (hs : s.boot.phase ≠ .failed) (ho : off % 4 = 0) :
    readReg s v off 4 = word4 s v off := by
  simp [readReg, hs, ho]

theorem readReg_eight_of_wide {s : State} {v : View} {off : Nat} (hs : s.boot.phase ≠ .failed) (ho : off % 8 = 0) (hw : wide v off = true) :
    readReg s v off 8 = wideValue s v off := by
  simp [readReg, hs, ho, hw]

theorem readReg_eight_of_inBuffer {s : State} {v : View} {off : Nat} (hs : s.boot.phase ≠ .failed) (ho : off % 8 = 0)
    (hb : inBuffer v off = true) : readReg s v off 8 = word4 s v off + 2 ^ 32 * word4 s v (off + 4) := by
  simp [readReg, hs, ho, hb, (word4_of_inBuffer s hb).1]

theorem readReg_other {s : State} {v : View} {off size : Nat} (hs : s.boot.phase ≠ .failed) (h4 : ¬ (size = 4 ∧ off % 4 = 0))
    (h8 : ¬ (size = 8 ∧ off % 8 = 0 ∧ wide v off = true)) (hb : ¬ (size = 8 ∧ off % 8 = 0 ∧ inBuffer v off = true)) :
    readReg s v off size = 2 ^ (8 * size) - 1 := by
  unfold readReg
  rw [if_neg (fun h => hs h.1), if_neg h4, if_neg h8, if_neg hb]

theorem readReg_halves_of_wide {s : State} {v : View} {off : Nat} (hs : s.boot.phase ≠ .failed) (ho : off % 8 = 0) (hw : wide v off = true)
    (hpf : v = .pf → inReg off 0x2000 8 1 = false) (hvf : v ≠ .pf → inReg off 0x20000 8 1 = false) :
    readReg s v off 8 % 2 ^ 32 = readReg s v off 4 ∧ readReg s v off 8 / 2 ^ 32 % 2 ^ 32 = readReg s v (off + 4) 4 := by
  have hlo := word4_of_wide s hw hpf hvf
  have hhi := word4_of_wide (off := off + 4) s ((wide_add_four ho).trans hw) (fun h => (inReg_add_four rfl ho).trans (hpf h))
    (fun h => (inReg_add_four rfl ho).trans (hvf h))
  rw [show off / 8 * 8 = off by omega, show off % 8 * 8 = 0 by omega, pow_zero, Nat.div_one] at hlo
  rw [show (off + 4) / 8 * 8 = off by omega, show (off + 4) % 8 * 8 = 32 by omega] at hhi
  rw [readReg_eight_of_wide hs ho hw, readReg_four hs (by omega), readReg_four hs (by omega), hlo, hhi]
  exact ⟨rfl, rfl⟩

theorem readReg_halves_of_inBuffer {s : State} {v : View} {off : Nat} (hs : s.boot.phase ≠ .failed) (ho : off % 8 = 0)
    (hb : inBuffer v off = true) :
    readReg s v off 8 % 2 ^ 32 = readReg s v off 4 ∧ readReg s v off 8 / 2 ^ 32 % 2 ^ 32 = readReg s v (off + 4) 4 := by
  have hlo := (word4_of_inBuffer s hb).2
  have hhi := (word4_of_inBuffer s ((inBuffer_add_four ho).trans hb)).2
  rw [readReg_eight_of_inBuffer hs ho hb, readReg_four hs (by omega), readReg_four hs (by omega)]
  omega

/-! ### Writes -/

theorem rem_put_same {α : Type} (t : List (Nat × α)) (k : Nat) (v : α) : rem (put t k v) k = rem t k := by
  induction t with
  | nil => simp [put, rem]
  | cons c t ih =>
    obtain ⟨a, b⟩ := c
    simp only [put]
    split
    · simp [rem]
    · split
      · next h => simp [rem, h]
      · next h => simpa [rem, Ne.symm h] using ih

/-- Where the lower half of a view's 8 B register is held. -/
def lowKey (view : View) (off : Nat) : Nat := viewNum view * 2 ^ 28 + off

/-- The lower half of a view's 8 B register is held (R645). -/
def holdLow (view : View) (off : Nat) (v : W32) (s : State) : State :=
  { s with regs := { s.regs with low := put s.regs.low (lowKey view off) v } }

/-- No lower half is held for a view's 8 B register. -/
def dropLow (view : View) (off : Nat) (s : State) : State :=
  { s with regs := { s.regs with low := rem s.regs.low (lowKey view off) } }

theorem dropLow_holdLow (view : View) (off : Nat) (v : W32) (s : State) : dropLow view off (holdLow view off v s) = dropLow view off s := by
  simp only [dropLow, holdLow, rem_put_same]

theorem look_holdLow (view : View) (off : Nat) (v : W32) (s : State) :
    look (holdLow view off v s).regs.low (lowKey view off) = some v := look_put_same ..

theorem exec_registerWrite {s : State} {view : View} (off size : Nat) (v : W64) (hs : s.up = true) (hv : view ≠ .sb) :
    exec (.registerWrite view off size v true) s = .next (regWrite view off size v s) := by
  change execRegisterWrite view off size v true s = _
  simp [execRegisterWrite, hs, hv]

section
variable {view : View} {off : Nat} (hw : wide view off = true) (ho : off % 8 = 0)
include hw ho

theorem regWrite_lower (v : W64) (s : State) : regWrite view off 4 v s = holdLow view off (v.truncate 32) s := by
  have hbase : off / 8 * 8 = off := by omega
  have h4 : off % 4 = 0 := by omega
  simp [regWrite, write4, holdLow, lowKey, hw, ho, h4, hbase]

theorem regWrite_upper (w : W64) (s : State) : regWrite view (off + 4) 4 w s
    = writeWide view off (w.truncate 32 ++ (look s.regs.low (lowKey view off)).getD (BitVec.ofNat 32 (wideValue s view off)) : BitVec 64)
        (dropLow view off s) := by
  have hbase : (off + 4) / 8 * 8 = off := by omega
  have h4 : (off + 4) % 4 = 0 := by omega
  have h8 : ¬ (off + 4) % 8 = 0 := by omega
  simp only [regWrite, write4, dropLow, lowKey, (wide_add_four ho).trans hw, h4, h8, hbase, and_self, if_true, if_false]

theorem regWrite_whole (v : W64) (s : State) : regWrite view off 8 v s = writeWide view off v (dropLow view off s) := by
  simp [regWrite, dropLow, lowKey, hw, ho]

end

theorem regWrite_other {view : View} {off size : Nat} (v : W64) (s : State) (h4 : ¬ (size = 4 ∧ off % 4 = 0))
    (h8 : ¬ (size = 8 ∧ off % 8 = 0 ∧ wide view off = true)) (hwin : ∀ c o, windowAt view off = some (c, o) → 0x1000 ≤ o) :
    regWrite view off size v s = s := by
  unfold regWrite
  rw [if_neg h4]
  split
  next h =>
    rw [if_neg (fun hw => h8 ⟨h.1, h.2, hw⟩)]
    split
    next c o hco => exact if_neg (not_lt.mpr (hwin c o hco))
    next => rfl
  next => rfl

theorem exec_registerWrite_other {view : View} {off size : Nat} (v : W64) (s : State) (h4 : ¬ (size = 4 ∧ off % 4 = 0))
    (h8 : ¬ (size = 8 ∧ off % 8 = 0 ∧ wide view off = true)) (hwin : ∀ c o, windowAt view off = some (c, o) → 0x1000 ≤ o) :
    exec (.registerWrite view off size v true) s = .next s := by
  change execRegisterWrite view off size v true s = _
  unfold execRegisterWrite
  rw [regWrite_other v s h4 h8 hwin, if_pos rfl, ite_self]

/-- Settles O8: a write of both halves comes to the write of the whole, as the held lower half is dropped either way; a read of the whole is made
of the two words that 4 B accesses read. -/
theorem accessSizes : Obligations.AccessSizes := by
  unfold Obligations.AccessSizes
  refine ⟨fun s view off v w hs hv hw ho => ?_, fun s view off w hs hv hw ho hlow => ?_, fun s view off size v hs h4 h8 => ⟨?_, ?_⟩,
    fun s view off hplace ho hs hnow => ?_⟩
  · -- the lower half, then the upper
    refine ⟨holdLow view off (v.truncate 32) s, _, _, ?_, rfl, exec_registerWrite _ _ _ hs hv, exec_registerWrite _ _ _ hs hv, ?_⟩
    · rw [exec_registerWrite _ _ _ hs hv, regWrite_lower hw ho]
    · rw [regWrite_upper hw ho, regWrite_whole hw ho, look_holdLow, dropLow_holdLow]
      rfl
  · -- the upper half alone
    refine ⟨_, exec_registerWrite _ _ _ hs hv, ?_⟩
    rw [exec_registerWrite _ _ _ hs hv, regWrite_upper hw ho, regWrite_whole hw ho, lowKey, hlow]
    rfl
  · -- a read of another size or alignment
    exact readReg_other hs h4 h8
  · -- a write of another size or alignment
    exact exec_registerWrite_other v s h4 h8
  · -- a read of the whole, against reads of the halves
    obtain hw | hb := hplace
    · refine readReg_halves_of_wide hs ho hw (fun hpf => ?_) (fun _ => ?_)
      · exact inReg_single_of_ne rfl ho (fun h => hnow (by simp [hpf]) (by simp [h]))
      · refine inReg_single_of_ne rfl ho ?_
        rintro rfl
        by_cases hsb : view = .sb
        · subst hsb
          exact absurd hw (by decide)
        · exact hnow hsb (by simp)
    · exact readReg_halves_of_inBuffer hs ho hb

end Sys2Proof.Machine
end
